-- ==== Sys2Proof/Word.lean ====
section
/-! DEFINITION. The word types of the model: the character of both serial protocols (R21, R157), the device time
counter's values (spec/00_scope.md section 5) and the frame tag (R21). Quantities (voltages, currents, powers, counts)
are integers in the manual and are `Nat` here; only values the manual treats as bits or lets wrap are bit vectors. -/

namespace Sys2Proof

/-- A character of eight bits, bits numbered 0 (least significant) to 7 (spec/00_scope.md section 6). -/
abbrev Byte := BitVec 8

/-- A value of the device time counter: 1 ms units, 32 bits, wraps to 0 (spec/00_scope.md section 5). -/
abbrev Time := BitVec 32

/-- A contract frame's tag, 0 to 7 (R21). -/
abbrev Tag := BitVec 3

end Sys2Proof
end

