-- ==== Sys2Proof/Syntax.lean ====
section
/-! DEFINITION. The commands: one constructor of `Instr` per row of spec/opcode_table.json, with the operands each row
brings from outside the part. A step of one line names its line. A system link frame brings its address, its number, its
arguments and its check; a malformed one brings its characters. A row that filters a MENU may bring a request that falls
between two of its queries (log 29). A character on a contract line brings its wire levels. A sample brings the levels at the
sense inputs. -/

namespace Sys2Proof

/-- The four lines L0 to L3 (spec/00_scope.md section 6). -/
inductive Line where
  | l0 | l1 | l2 | l3
  deriving DecidableEq, Repr

/-- One thing for each line, L0 first. -/
structure Four (α : Type) where
  l0 : α
  l1 : α
  l2 : α
  l3 : α
  deriving DecidableEq, Repr

/-- The address of a well-formed system link frame (R157, R158): 0 to 3 name a line, 7 the device. -/
inductive Addr where
  | line (l : Line)
  | device
  deriving DecidableEq, Repr

/-- What a line's pins carry at the end of power-on reset, `true` for high: the strap pins RSnA and RSnB (R60), and the
presence input, whose run timer starts there (R18). -/
structure ResetPins where
  a : Bool
  b : Bool
  presence : Bool
  deriving DecidableEq, Repr

/-- The nine sampled levels of a character on a contract line (R1). Bit k − 1 of `data` is the level of data cell k, 1
for high, so `data` is the character's DIRECT reading (R2); `parity` is the level of the parity cell. -/
structure WireChar where
  data : Byte
  parity : Bool
  deriving DecidableEq, Repr

/-- What one line's inputs show when its channel is sampled (R138): port voltage and signed port current in the units of
spec/00_scope.md section 5, before the channel holds them to their ranges, and the level of the presence input (R18). -/
structure Reading where
  line : Line
  voltage : Int
  current : Int
  presenceHigh : Bool
  deriving DecidableEq, Repr

/-- A REQUEST frame (section 10.2): its address, its request number, the arguments that follow the code, and the check
character received (R157). For a LINE_CTRL action the arguments are those that follow the action character. -/
structure Req where
  addr : Addr
  num : Byte
  args : List Byte
  check : Byte
  deriving DecidableEq, Repr

/-- A VERDICT frame (R164) but for its decision: address, verdict tag, point index, value, and the check character received
(R157). -/
structure VerdictReq where
  addr : Addr
  tag : Byte
  point : Byte
  value : BitVec 16
  check : Byte
  deriving DecidableEq, Repr

/-- The requests that can change, between two queries of one filtering, what the later query meets or counts: TABLE_PUT (R109),
TABLE_GET with its zero option (R121), and STANCE_SET, whose bit 4 a query reads (R108). -/
inductive MidKind where
  | tablePut | tableGet | stanceSet
  deriving DecidableEq, Repr

/-- A request that is taken between two queries of one filtering (R109): on that line, before the query of that point. -/
structure MidRequest where
  line : Line
  point : Nat
  kind : MidKind
  req : Req
  deriving DecidableEq, Repr

/-- A MENU that is taken on a line, with the request that may fall within its filtering. -/
structure MenuTaking where
  line : Line
  mid : Option MidRequest
  deriving DecidableEq, Repr

/-- What one SAMPLE brings (R138): the readings of its lines, with the request that may fall within the filtering of a deferred MENU
that one of them leads to. -/
structure Sampling where
  mid : Option MidRequest
  readings : List Reading
  deriving DecidableEq, Repr

/-- A character on the system link as its eleven bits in the order sent: start bit, data bits, least significant first,
parity bit, stop bit (R157). -/
structure LinkChar where
  start : Bool
  data : Byte
  parity : Bool
  stop : Bool
  deriving DecidableEq, Repr

/-- The commands, one per row of spec/opcode_table.json, in the table's order. -/
inductive Instr where
  | powerOnReset (pins : Four ResetPins)
  | attach (l : Line)
  | detach (l : Line)
  | conventionError (l : Line) (w : WireChar)
  | overLengthFrame (l : Line)
  | frameGapExpiry (l : Line)
  | discardingEnd (l : Line)
  | malformedFrame (l : Line)
  | announceReceived (l : Line)
  | menuReceived (m : MenuTaking)
  | claimReceived (l : Line)
  | grantReceived (l : Line)
  | denyReceived (l : Line)
  | waitReceived (l : Line)
  | readyReceived (l : Line)
  | renewReceived (l : Line)
  | keepReceived (l : Line)
  | recallReceived (l : Line)
  | yieldReceived (l : Line)
  | statusQReceived (l : Line)
  | statusReceived (l : Line)
  | endingReceived (l : Line)
  | sendStart (l : Line)
  | arbitrationLost (l : Line)
  | frameSent (l : Line)
  | repeatLimit (l : Line)
  | loopFailure (l : Line)
  | txTimeout (l : Line)
  | queueDrained (l : Line)
  | waitingRequestHanded (l : Line)
  | greetingDelayExpiry (l : Line)
  | greetingRetry (l : Line)
  | slowRegreeting (l : Line)
  | answerTimeout (l : Line)
  | readyWaitExpiry (l : Line)
  | backoffExpiry (l : Line)
  | renewalExpiry (l : Line)
  | voltageCheckExpiry (l : Line)
  | leaseDeadline (l : Line)
  | recallDeadline (l : Line)
  | sample (tick : Bool) (x : Sampling)
  | settleEvent (l : Line)
  | settleTimeout (l : Line)
  | overcurrentTrip (l : Line)
  | reverseTrip (l : Line)
  | holdTrip (l : Line)
  | capEvent (l : Line)
  | identify (r : Req)
  | resetPart (r : Req)
  | quiet (r : Req)
  | stanceSet (r : Req)
  | tablePut (r : Req)
  | tableGet (r : Req)
  | prefPut (r : Req)
  | prefGet (r : Req)
  | menuPut (r : Req)
  | menuGet (r : Req)
  | budgetSet (r : Req)
  | budgetGet (r : Req)
  | budgetClear (r : Req)
  | lineSet (r : Req)
  | pause (r : Req)
  | release (r : Req)
  | mute (r : Req)
  | unmute (r : Req)
  | endLine (r : Req)
  | restart (r : Req)
  | renegotiate (r : Req)
  | recallRequest (r : Req)
  | contractGet (r : Req)
  | faultGet (r : Req)
  | faultAck (r : Req)
  | healthGet (r : Req)
  | healthClear (r : Req)
  | requestUnassigned (code : Byte) (r : Req)
  | verdictAuto (v : VerdictReq)
  | verdictRefuse (v : VerdictReq)
  | verdictChoose (v : VerdictReq)
  | verdictGrant (v : VerdictReq)
  | verdictDeny (v : VerdictReq)
  | verdictWait (v : VerdictReq)
  | verdictDeadline (l : Line)
  | linkFrameMalformed (before : List LinkChar) (last : LinkChar)
  | linkFrameTruncated
  | skippingEnd
  | linkRestart
  | transmitChoice
  | transmitEnd
  | startEdge (l : Line)
  | characterAccepted (l : Line) (w : WireChar)
  | errorPulse (l : Line) (w : WireChar)
  | nextCharacterStart (l : Line) (refused : Bool)
  | linkStartBit (quiet : Bool)
  | lineCtrlUnassigned (r : Req)
  | verdictUnassigned (code : Byte) (v : VerdictReq)
  deriving DecidableEq, Repr

/-- The row of such a request where it comes by itself. -/
def MidKind.row : MidKind → Req → Instr
  | .tablePut, r => .tablePut r
  | .tableGet, r => .tableGet r
  | .stanceSet, r => .stanceSet r

end Sys2Proof
end

