-- ==== Sys2Proof/Decode.lean ====
section
/-! DEFINITION. The table decoder. spec/opcode_table.json gives no row any bits: commands reach the block as events, register
requests and frames. So no word spells a command. -/

namespace Sys2Proof

/-- No row of the table gives bits, so a word spells no command. -/
def decodeTableWord (_nbits _w : Nat) : Option Instr := none

end Sys2Proof
end

