-- ==== Sys2Proof/Config.lean ====
section
/-! DEFINITION. What the part fixes (its identity codes, R170, and its fixed intervals) and the model's one free value. -/

namespace Sys2Proof.Config

/-- FREE VALUE (notes/assumptions/3.md). QUIET (R173) and link restart (R169) resolve every standing verdict entry in
one event, and R165 gives the lines no order among themselves. The order is read from this constant, which has no body:
no proof can see what it is. It is applied to `State.freeCount`, which each use advances. -/
opaque freeOrder : Nat → Nat

/-- R170: the family code of the EG-4L. -/
def familyCode : Nat := 0x0E40

/-- R170: the revision. -/
def revision : Nat := 0x0002

end Sys2Proof.Config
end

