-- ==== Sys2Proof/Machine/Types.lean ====
section
/-! DEFINITION. The named kinds and records of the manual: frames, contract record, rule entries, budget records, path
channel, fault capture and system link records. Types only; what they do is in Machine/Ops.lean and after. -/

namespace Sys2Proof.Machine

/-! ### Line engine (chapter 1) -/

/-- The convention in force on a line (R2). -/
inductive Convention where
  | unknown | direct | inverse
  deriving DecidableEq, Repr

/-- The transmit side's four states (section 1.4). -/
inductive TxSide where
  | idle | waiting | sending | retryWait
  deriving DecidableEq, Repr

/-- The receive side's three states (section 1.2). -/
inductive RxSide where
  | idle | receiving | discarding
  deriving DecidableEq, Repr

/-- A frame in the transmit queue (R9): its logical characters, its loop failure count (R14), and the model's own
number for it, by which a report finds the request it belongs to. -/
structure TxFrame where
  id : Nat
  chars : List Byte
  loopFailures : Nat
  deriving DecidableEq, Repr

/-- The health record but for MUTED, which mirrors the mute flag (R154). -/
structure Health where
  txTimeout : Bool
  loopFail : Bool
  repeatLimit : Bool
  conventionError : Bool
  malformed : Bool
  shortFrame : Bool
  strayAnswer : Bool
  answerTimeout : Bool
  deriving DecidableEq, Repr

/-- One line engine (chapter 1). `txSends` counts the sends of the present character; of a frame that lost arbitration it
keeps those of its first (R11). -/
structure LineEngine where
  convention : Convention
  txQueue : List TxFrame
  txSide : TxSide
  txLevels : List WireChar
  txIndex : Nat
  txSends : Nat
  watchdog : Option Nat
  wdCount : Nat
  rxSide : RxSide
  rxChars : List Byte
  rxExpected : Option Nat
  rxSlot : Bool
  rxLosing : Bool
  refusing : Bool
  gapTimer : Bool
  muted : Bool
  present : Bool
  presenceLevel : Bool
  presenceRun : Nat
  health : Health
  drain : Option Nat
  nextId : Nat
  deriving DecidableEq, Repr

/-! ### Contract frames (chapter 2) -/

/-- The assigned frame kinds (section 2.2). -/
inductive FrameKind where
  | announce | menu | claim | grant | deny | wait | ready | renew | keep | recall | yield | statusQ | status | ending
  deriving DecidableEq, Repr

/-- The class an ANNOUNCE carries (R24). -/
inductive FarClass where
  | none | supplier | consumer | both
  deriving DecidableEq, Repr

/-- The role of a contract (R42). -/
inductive Role where
  | none | draw | supply
  deriving DecidableEq, Repr

/-- The fourteen contract states (section 3.2). -/
inductive CState where
  | detached | greeting | blocked | faulted | awaitMenu | choosing | claiming | backoff | switching | active | baseline
  | offering | deciding | powering
  deriving DecidableEq, Repr

/-- FIXED or WINDOW (R25). -/
inductive PointKind where
  | fixed | window
  deriving DecidableEq, Repr

/-- An operating point of a menu (R25). -/
structure Point where
  kind : PointKind
  v1 : Nat
  v2 : Nat
  limit : Nat
  deriving DecidableEq, Repr

/-- The reasons of a DENY (R27). -/
inductive DenyReason where
  | notOffered | badPoint | policy | role | noMenu
  deriving DecidableEq, Repr

/-- The reasons of an ENDING (R30). -/
inductive EndReason where
  | normal | final | noSuitablePoint | leaseLost | capReached | policy | fault | reset | refused | role
  deriving DecidableEq, Repr

/-- The four fields of a CLAIM (R26). -/
structure ClaimFields where
  point : Nat
  voltage : Nat
  claimed : Nat
  least : Nat
  deriving DecidableEq, Repr

/-- The body of a well-formed contract frame, by kind (R24 to R30). -/
inductive FrameBody where
  | announce (cls : FarClass) (recallCapable answer : Bool) (identity : BitVec 32) (level : Nat)
  | menu (recallCapable : Bool) (points : List Point)
  | claim (fields : ClaimFields)
  | grant (current lease : Nat)
  | deny (reason : DenyReason)
  | wait (retryAfter : Nat)
  | ready (voltage current : Nat)
  | renew (current : Nat)
  | keep (stance : BitVec 16)
  | recall (ceiling deadline : Nat)
  | yield (limit : Nat)
  | statusQ
  | status (stance : BitVec 16) (role : Role) (state : CState) (voltage current : Nat)
  | ending (reason : EndReason)
  deriving DecidableEq, Repr

/-- A well-formed contract frame: tag and body (R21). -/
structure Frame where
  tag : Tag
  body : FrameBody
  deriving DecidableEq, Repr

/-! ### Contract record (chapter 3) -/

/-- The outcome codes (R55). -/
inductive Outcome where
  | done | denied | waitLimit | noAnswer | lineError | malformedAnswer | noSuitablePoint | superseded | recallForced
  | leaseLost | capReached | endedByFar | endedByController | refused | noRole | detached
  deriving DecidableEq, Repr

/-- The latched straps of a line (R60). -/
inductive Straps where
  | disabled | drawOnly | supplyOnly | both
  deriving DecidableEq, Repr

/-- A subset of the roles DRAW and SUPPLY (R60). -/
structure RoleSet where
  draw : Bool
  supply : Bool
  deriving DecidableEq, Repr

/-- A line's cap mode (R104). -/
inductive CapMode where
  | uncapped | endAtCap | recallAtCap
  deriving DecidableEq, Repr

/-- The options LINE_SET stores (R62). -/
structure Options where
  timeoutIndex : Nat
  lease : Nat
  baseline : Nat
  holdAfterActive : Bool
  capMode : CapMode
  allowance : Nat
  roles : RoleSet
  deriving DecidableEq, Repr

/-- The far class, identity and level of the latest far ANNOUNCE taken (R24). -/
structure FarFields where
  cls : FarClass
  identity : BitVec 32
  level : Nat
  deriving DecidableEq, Repr

/-- The filter mark of a far menu's point (section 4.1). -/
inductive Mark where
  | unqueried | survives | struck
  deriving DecidableEq, Repr

/-- A point of the far menu with its mark and effective capacity (section 4.1). -/
structure FarPoint where
  point : Point
  mark : Mark
  capacity : Nat
  deriving DecidableEq, Repr

/-- The far menu, with the characters of the MENU it came in (header, length, body), which a RELAY copies (R163). -/
structure FarMenu where
  raw : List Byte
  points : List FarPoint
  deriving DecidableEq, Repr

/-- The offered menu and its held mark (section 5.2). -/
structure OfferedMenu where
  points : List Point
  held : Bool
  deriving DecidableEq, Repr

/-- The agreement in force (R42). -/
structure Agreement where
  voltage : Nat
  current : Nat
  lease : Nat
  point : Nat
  deriving DecidableEq, Repr

/-- The outstanding claim (R42). -/
structure OutClaim where
  fields : ClaimFields
  tag : Tag
  deriving DecidableEq, Repr

/-- The grant being powered (R42). -/
structure PowerGrant where
  voltage : Nat
  current : Nat
  lease : Nat
  point : Nat
  tag : Tag
  deriving DecidableEq, Repr

/-- The causes of a recall (section 5.7). -/
inductive RecallCause where
  | budget | cap | controller
  deriving DecidableEq, Repr

/-- The recall outstanding; its deadline runs from the RECALL's report (R101). -/
structure RecallOut where
  level : Nat
  deadline : Option Time
  cause : RecallCause
  deriving DecidableEq, Repr

/-- The pending recall target (R100). -/
structure RecallTarget where
  level : Nat
  cause : RecallCause
  deriving DecidableEq, Repr

/-- The candidate cursor (R72). -/
structure Cursor where
  pref : Nat
  point : Nat
  deriving DecidableEq, Repr

/-- What the exchange slot's request is, with CLAIM in its two phases (R33). -/
inductive ReqKind where
  | announce | claim | claimGranted | renew | recall
  deriving DecidableEq, Repr

/-- The exchange slot's request (R32): its tag, its characters for a re-send, the number of the frame last handed for it,
how many expiries it has had, its running answer timer, and the instant of its latest report. -/
structure Exchange where
  kind : ReqKind
  tag : Tag
  chars : List Byte
  frameId : Nat
  expiries : Nat
  timer : Option Time
  reportedAt : Option Time
  deriving DecidableEq, Repr

/-- R34: the answer timeout times the request. A RECALL has its deadline, a granted CLAIM the READY wait. -/
def ReqKind.answerTimed : ReqKind → Bool
  | .announce | .claim | .renew => true
  | .claimGranted | .recall => false

/-- A request to be handed, or one that waits behind the outstanding one (R32), with the expiries it has had. -/
structure Request where
  kind : ReqKind
  tag : Tag
  chars : List Byte
  expiries : Nat
  deriving DecidableEq, Repr

/-- A far request whose decision is pending (R37). -/
inductive Forwarded where
  | announce (answering : Bool)
  | menu
  | claim (fields : ClaimFields)
  deriving DecidableEq, Repr

/-- The decision slot (R37). -/
structure Decision where
  what : Forwarded
  tag : Tag
  arrival : Time
  began : CState
  deriving DecidableEq, Repr

/-- The contract timers of section 3.11 and R79, as the counter values at which they expire; `voltageCheck` holds the
arrival of the READY it runs from. `slowFrame` is the frame of an ANNOUNCE closed before its report, from which the slow
re-greeting is still to run (R46, log 15). -/
structure Timers where
  greetingDelay : Option Time
  greetingRetry : Option Time
  slowRegreeting : Option Time
  readyWait : Option Time
  backoff : Option Time
  renewal : Option Time
  voltageCheck : Option Time
  slowFrame : Option Nat
  deriving DecidableEq, Repr

/-- The contract record of a line (R42), with its exchange slot, the request that waits behind it, and those displaced from
waiting, each of which is timed as one whose frame was DROPPED (R32). -/
structure Contract where
  state : CState
  role : Role
  far : Option FarFields
  farRecall : Option Bool
  farMenu : Option FarMenu
  deferred : Bool
  offered : Option OfferedMenu
  agreement : Option Agreement
  claim : Option OutClaim
  grant : Option PowerGrant
  cursor : Cursor
  waitStreak : Nat
  leaseDeadline : Option Time
  recallOut : Option RecallOut
  target : Option RecallTarget
  lineClamp : Option Nat
  paused : Bool
  greetingCount : Nat
  greetingStopped : Bool
  unmanaged : Bool
  lastFrameFault : Bool
  tagCounter : Tag
  exchange : Option Exchange
  waiting : Option Request
  displaced : List Exchange
  decision : Option Decision
  lastOutcome : Option Outcome
  options : Options
  timers : Timers
  deriving DecidableEq, Repr

/-! ### Rule table and lists (chapters 4 to 6) -/

/-- The actions of a rule entry (R106). -/
inductive Action where
  | auto | refuse | wait | clamp | forward
  deriving DecidableEq, Repr

/-- The kinds of query (R108). -/
inductive QueryKind where
  | announce | menuPoint | claim
  deriving DecidableEq, Repr

/-- A rule entry (R106), its masks by the bit places of section 12.6; the fields of an absent condition are kept. -/
structure RuleEntry where
  enabled : Bool
  report : Bool
  action : Action
  fallback : Action
  lines : BitVec 4
  kinds : BitVec 3
  hasVoltage : Bool
  hasPower : Bool
  hasStance : Bool
  hasClass : Bool
  hasIdentity : Bool
  classes : BitVec 4
  identity : BitVec 32
  mask : BitVec 32
  vMin : Nat
  vMax : Nat
  pMin : Nat
  pMax : Nat
  stance : Byte
  clamp : Nat
  hits : Nat
  deriving DecidableEq, Repr

/-- A query (R108). -/
structure Query where
  line : Line
  kind : QueryKind
  cls : Option FarClass
  identity : Option (BitVec 32)
  vLow : Nat
  vHigh : Nat
  power : Nat
  point : Nat
  deriving DecidableEq, Repr

/-- The table's answer: an action, and the winner's index, fallback and clamp power (R109). -/
structure Answer where
  action : Action
  rule : Nat
  fallback : Action
  clamp : Nat
  deriving DecidableEq, Repr

/-- A draw preference entry (R70). -/
structure Preference where
  enabled : Bool
  vMin : Nat
  vMax : Nat
  wanted : Nat
  least : Nat
  deriving DecidableEq, Repr

/-- A supply menu entry (R87). -/
structure SupplyEntry where
  enabled : Bool
  point : Point
  deriving DecidableEq, Repr

/-! ### Budget unit (chapter 7) -/

/-- The copy of a draw agreement the budget unit keeps (R123). -/
structure DrawCopy where
  voltage : Nat
  current : Nat
  deriving DecidableEq, Repr

/-- An entry of the grant order list (R126). -/
structure GrantEntry where
  line : Line
  commitment : Nat
  recallVoltage : Nat
  deriving DecidableEq, Repr

/-- A draw allocation (R128). -/
structure Allocation where
  power : Nat
  current : Nat
  deriving DecidableEq, Repr

/-- The budget unit's state (R122). -/
structure Budget where
  inputCeiling : Nat
  supplyCeiling : Nat
  rank : List Line
  drawCommit : Four Nat
  drawCopy : Four (Option DrawCopy)
  supplyCommit : Four Nat
  committedDraw : Nat
  committedSupply : Nat
  drawHeadroom : Nat
  supplyHeadroom : Nat
  drawOver : Bool
  supplyOver : Bool
  order : List GrantEntry
  alloc : Four (Option Allocation)
  deriving DecidableEq, Repr

/-! ### Path channels (chapter 8) -/

/-- The form of a path command (section 8.1). -/
inductive PathForm where
  | opened | draw | supply
  deriving DecidableEq, Repr

/-- The watch of a path command (section 8.1); `hold` carries the reference voltage. -/
structure Watch where
  reverse : Bool
  overcurrent : Bool
  settle : Bool
  meter : Bool
  hold : Option Nat
  deriving DecidableEq, Repr

/-- A path command (R135). -/
structure PathCommand where
  form : PathForm
  voltage : Nat
  limit : Nat
  bound : Bool
  watch : Watch
  deriving DecidableEq, Repr

/-- A sense sample (R138). -/
structure Sample where
  voltage : Nat
  current : Int
  time : Time
  deriving DecidableEq, Repr

/-- The causes of the trips whose fault has not been reported to the fault unit yet (R144, step 3; log 9). -/
structure TripsDue where
  overcurrent : Bool
  reverse : Bool
  hold : Bool
  settle : Bool
  deriving DecidableEq, Repr

/-- A path channel's record (R135), with the reports it has made that have not been taken yet: the faults of its trips, with the
time of the sample or expiry that made the last of them (R144), the settle event and the cap event. -/
structure Channel where
  command : PathCommand
  allocation : Option Nat
  tripped : Bool
  latest : Sample
  overcurrentRun : Nat
  reverseRun : Nat
  deviationRun : Nat
  settleRun : Nat
  settleStart : Option Time
  energy : Nat
  allowance : Nat
  due : TripsDue
  tripStamp : Time
  settleReport : Option Nat
  capReport : Bool
  deriving DecidableEq, Repr

/-- What the outputs PEn and PSn carry (R135). -/
structure PathOutput where
  enable : Bool
  voltage : Nat
  current : Nat
  deriving DecidableEq, Repr

/-! ### Fault unit (chapter 9) -/

/-- The fault classes, most severe first (R148). -/
inductive FaultClass where
  | severe | link | protocol
  deriving DecidableEq, Repr

/-- The fault causes (R148). -/
inductive Cause where
  | overcurrent | reverse | voltage | settle | repeatLimit | loop | txTimeout | convention | malformed
  | malformedAnswer | recallIgnored
  deriving DecidableEq, Repr

/-- A capture record (R149); cause and class are cleared together, and the class follows from the cause. -/
structure Capture where
  held : Bool
  cause : Option Cause
  state : CState
  kind : Option FrameKind
  time : Time
  overlap : Bool
  count : Nat
  deriving DecidableEq, Repr

/-! ### System link unit (chapters 10 and 11) -/

/-- The receiver's three states (R157). -/
inductive Receiver where
  | idle | receiving | skipping
  deriving DecidableEq, Repr

/-- The mode of the system link unit (chapter 11). -/
inductive Mode where
  | running | autonomous
  deriving DecidableEq, Repr

/-- The result codes (section 12.3). -/
inductive Result where
  | ok | badRequest | badIndex | badEntry | wrongState | held | notHeld | refusedStrap | accepted | adjusted | unknownTag
  deriving DecidableEq, Repr

/-- A RESPONSE (R159). -/
structure Response where
  addr : Addr
  num : Byte
  code : Byte
  result : Result
  data : List Byte
  deriving DecidableEq, Repr

/-- A verdict entry (R162) with the bodies of its RELAY frames not yet sent (R163). -/
structure VerdictEntry where
  tag : Byte
  line : Line
  kind : QueryKind
  rule : Nat
  fallback : Action
  clamp : Nat
  deadline : Time
  relays : List (List Byte)
  deriving DecidableEq, Repr

/-- The source of a notice (section 10.5). -/
inductive Source where
  | line (l : Line)
  | part
  deriving DecidableEq, Repr

/-- The seven notice kinds (section 12.4). -/
inductive NoticeKind where
  | attach | detach | agreed | ended | fault | report | budget
  deriving DecidableEq, Repr

/-- A notice's content, by kind (sections 10.5 and 12.4). -/
inductive NoticeBody where
  | attach (state : CState)
  | detach (state : CState) (outcome : Option Outcome)
  | agreed (role : Role) (state : CState) (outcome : Option Outcome) (voltage current lease point : Nat)
  | ended (role : Role) (state : CState) (outcome : Option Outcome)
  | fault (capture : Capture)
  | report (rule : Nat) (action : Action) (kind : QueryKind) (vLow vHigh power point : Nat)
  | budget (drawOver supplyOver : Bool)
      (inputCeiling supplyCeiling committedDraw committedSupply drawHeadroom supplyHeadroom : Nat)
  deriving DecidableEq, Repr

/-- A notice of the notice set (R167). -/
structure Notice where
  source : Source
  time : Time
  body : NoticeBody
  deriving DecidableEq, Repr

/-- The system link unit's state (R172, chapter 11); `stx` is the frame the transmitter is sending (R161). -/
structure LinkUnit where
  receiver : Receiver
  responses : List Response
  verdicts : List VerdictEntry
  notices : List Notice
  mode : Mode
  wakeSet : BitVec 7
  wake : Bool
  linkError : Bool
  stance : BitVec 16
  manualStance : Bool
  verdictTag : Byte
  stx : Option (List LinkChar)
  deriving DecidableEq, Repr

end Sys2Proof.Machine
end

