-- ==== Sys2Proof/Machine/State.lean ====
section
/-! DEFINITION. The machine's state, the reasons a step can stop, and the machine right after reset. -/

namespace Sys2Proof

/-- The thing of one line. -/
def Four.get {α : Type} (x : Four α) : Line → α
  | .l0 => x.l0
  | .l1 => x.l1
  | .l2 => x.l2
  | .l3 => x.l3

/-- Replaces the thing of one line. -/
def Four.set {α : Type} (x : Four α) (l : Line) (a : α) : Four α :=
  match l with
  | .l0 => { x with l0 := a }
  | .l1 => { x with l1 := a }
  | .l2 => { x with l2 := a }
  | .l3 => { x with l3 := a }

/-- The same thing for every line. -/
def Four.all {α : Type} (a : α) : Four α := ⟨a, a, a, a⟩

/-- Applies a function to the thing of every line. -/
def Four.map {α β : Type} (f : α → β) (x : Four α) : Four β := ⟨f x.l0, f x.l1, f x.l2, f x.l3⟩

/-- The four lines in index order. -/
def Line.everyLine : List Line := [.l0, .l1, .l2, .l3]

namespace Machine

/-- The whole state of the part: plain data. `pending` is the queue of commands, first in, first out. -/
structure State where
  pending : List Instr
  now : Time
  straps : Four Straps
  engines : Four LineEngine
  contracts : Four Contract
  rules : Vector RuleEntry 32
  prefs : Vector Preference 8
  menu : Vector SupplyEntry 4
  budget : Budget
  channels : Four Channel
  captures : Four Capture
  strikes : Four Nat
  link : LinkUnit
  freeCount : Nat
  deriving DecidableEq, Repr

/-- Faults of the model. None: the manual gives every command an effect in every state, so no command stops the machine
(safe: nothing is claimed of a stop). The manual's own faults (R148) are data of the state. -/
inductive Fault : Type
  deriving DecidableEq, Repr

/-- Refusals of the model. -/
inductive Refusal where
  /-- Raised by exec's arm of a command that has no meaning yet (safe: nothing is claimed of it). No arm raises it now. -/
  | notModelled (mnemonic : String)
  deriving DecidableEq, Repr

/-! ### Values after power-on reset -/

/-- Every health flag clear (R154). -/
def Health.clear : Health := ⟨false, false, false, false, false, false, false, false⟩

/-- A line engine after power-on reset (section 1.10), where the presence input has the level given: its run timer starts
there (R18). -/
def LineEngine.powerOn (presence : Bool) : LineEngine where
  convention := .unknown
  txQueue := []
  txSide := .idle
  txLevels := []
  txIndex := 0
  txSends := 0
  watchdog := none
  wdCount := 0
  rxSide := .idle
  rxChars := []
  rxExpected := none
  rxSlot := false
  rxLosing := false
  refusing := false
  gapTimer := false
  muted := false
  present := false
  presenceLevel := presence
  presenceRun := 0
  health := .clear
  drain := none
  nextId := 0

/-- The roles the latched straps grant (R60). -/
def Straps.roles : Straps → RoleSet
  | .disabled => ⟨false, false⟩
  | .drawOnly => ⟨true, false⟩
  | .supplyOnly => ⟨false, true⟩
  | .both => ⟨true, true⟩

/-- R60: the table of the strap pins. -/
def Straps.latch (p : ResetPins) : Straps :=
  match p.a, p.b with
  | false, false => .disabled
  | false, true => .drawOnly
  | true, false => .supplyOnly
  | true, true => .both

/-- The options' defaults (R62). -/
def Options.default (st : Straps) : Options where
  timeoutIndex := 1
  lease := 20
  baseline := 20
  holdAfterActive := false
  capMode := .uncapped
  allowance := 0
  roles := st.roles

/-- No contract timer running (section 3.11). -/
def Timers.stopped : Timers := ⟨none, none, none, none, none, none, none, none⟩

/-- A contract record with every field but the options at its power-on value (R42). -/
def Contract.fresh (o : Options) : Contract where
  state := .detached
  role := .none
  far := none
  farRecall := none
  farMenu := none
  deferred := false
  offered := none
  agreement := none
  claim := none
  grant := none
  cursor := ⟨0, 0⟩
  waitStreak := 0
  leaseDeadline := none
  recallOut := none
  target := none
  lineClamp := none
  paused := false
  greetingCount := 0
  greetingStopped := false
  unmanaged := false
  lastFrameFault := false
  tagCounter := 0
  exchange := none
  waiting := none
  displaced := []
  decision := none
  lastOutcome := none
  options := o
  timers := .stopped

/-- A rule entry after power-on reset and RESET_PART (R107); the fields of its absent conditions are 0. -/
def RuleEntry.blank : RuleEntry where
  enabled := false
  report := false
  action := .auto
  fallback := .auto
  lines := 0
  kinds := 0
  hasVoltage := false
  hasPower := false
  hasStance := false
  hasClass := false
  hasIdentity := false
  classes := 0
  identity := 0
  mask := 0
  vMin := 0
  vMax := 0
  pMin := 0
  pMax := 0
  stance := 0
  clamp := 0
  hits := 0

/-- A preference entry 1 to 7 after power-on reset (R70). -/
def Preference.blank : Preference := ⟨false, 200, 1300, 1, 1⟩

/-- The draw preference list after power-on reset and RESET_PART (R70). -/
def Preference.initial : Vector Preference 8 :=
  ⟨#[⟨true, 250, 250, 25, 10⟩, .blank, .blank, .blank, .blank, .blank, .blank, .blank], rfl⟩

/-- A supply menu entry after power-on reset (R87). -/
def SupplyEntry.blank : SupplyEntry := ⟨false, ⟨.fixed, 250, 250, 0⟩⟩

/-- The supply menu list after power-on reset and RESET_PART (R87). -/
def SupplyEntry.initial : Vector SupplyEntry 4 := ⟨#[.blank, .blank, .blank, .blank], rfl⟩

/-- The budget unit after power-on reset and RESET_PART (R122). -/
def Budget.initial : Budget where
  inputCeiling := 600
  supplyCeiling := 150
  rank := [.l0, .l1, .l2, .l3]
  drawCommit := .all 0
  drawCopy := .all none
  supplyCommit := .all 0
  committedDraw := 0
  committedSupply := 0
  drawHeadroom := 600
  supplyHeadroom := 150
  drawOver := false
  supplyOver := false
  order := []
  alloc := .all none

/-- No watch (section 8.1). -/
def Watch.none : Watch := ⟨false, false, false, false, Option.none⟩

/-- The OPEN command with no watch (R135). -/
def PathCommand.opened : PathCommand := ⟨.opened, 0, 0, false, .none⟩

/-- No fault report pending. -/
def TripsDue.none : TripsDue := ⟨false, false, false, false⟩

/-- A path channel after power-on reset (R147); the latest sample is DESIGN CHOICE 0, 0, 0 (log 6). -/
def Channel.powerOn : Channel where
  command := .opened
  allocation := none
  tripped := false
  latest := ⟨0, 0, 0⟩
  overcurrentRun := 0
  reverseRun := 0
  deviationRun := 0
  settleRun := 0
  settleStart := none
  energy := 0
  allowance := 0
  due := .none
  tripStamp := 0
  settleReport := none
  capReport := false

/-- A capture record not held and cleared (R149). -/
def Capture.clear : Capture := ⟨false, none, .detached, none, 0, false, 0⟩

/-- The system link unit after power-on reset (R172). -/
def LinkUnit.powerOn : LinkUnit where
  receiver := .skipping
  responses := []
  verdicts := []
  notices := []
  mode := .running
  wakeSet := 0
  wake := false
  linkError := false
  stance := 0
  manualStance := false
  verdictTag := 0
  stx := none

/-- The part right after power-on reset, with the straps just latched and the levels at the presence inputs (R18, R60, R172
and the reset tables). -/
def State.powerOn (straps : Four Straps) (presence : Four Bool) : State where
  pending := []
  now := 0
  straps := straps
  engines := presence.map .powerOn
  contracts := straps.map fun st => .fresh (.default st)
  rules := Vector.replicate 32 .blank
  prefs := Preference.initial
  menu := SupplyEntry.initial
  budget := .initial
  channels := .all .powerOn
  captures := .all .clear
  strikes := .all 0
  link := .powerOn
  freeCount := 0

/-- The machine right after reset. The spec does not say what the pins carry: DESIGN CHOICE both strap pins of every line
low, so DISABLED (log 5), and every presence input low (log 6); POWER_ON_RESET takes any. -/
def State.reset : State := .powerOn (.all .disabled) (.all false)

end Machine

end Sys2Proof
end

