-- ==== Sys2Proof/Machine/Formats.lean ====
section
/-! DEFINITION. Character-level layouts (chapter 12): byte order, the check character, contract frames in both
directions, wire levels (R1, R2), system link frames and the records that RESPONSEs and NOTICEs carry. -/

namespace Sys2Proof

/-- A line's number. -/
def Line.index : Line → Nat
  | .l0 => 0
  | .l1 => 1
  | .l2 => 2
  | .l3 => 3

/-- The address of a system link header (R157). -/
def Addr.code : Addr → Nat
  | .line l => l.index
  | .device => 7

/-- The number of high levels among the eight data cells. -/
def highCount (b : Byte) : Nat := ((List.range 8).filter fun i => b.getLsbD i).length

/-- R1: the number of high levels among the nine cells is even. -/
def WireChar.parityOk (w : WireChar) : Bool := (highCount w.data + w.parity.toNat) % 2 == 0

/-- R157: the levels of a character in the order of its eleven bits, one bit time each. -/
def LinkChar.levels (c : LinkChar) : List Bool :=
  c.start :: ((List.range 8).map fun i => c.data.getLsbD i) ++ [c.parity, c.stop]

/-- R157, R158: the parity is not even, or the stop bit is low. -/
def LinkChar.bad (c : LinkChar) : Bool := !c.stop || !(c.parity == (highCount c.data % 2 == 1))

namespace Machine

/-! ### Characters and fields (R177) -/

/-- A character carrying a number below 256. -/
def byte (n : Nat) : Byte := BitVec.ofNat 8 n

/-- A field of two characters, most significant first (R177). -/
def be16 (n : Nat) : List Byte := [byte (n / 256), byte n]

/-- A field of three characters, most significant first (R177). -/
def be24 (n : Nat) : List Byte := [byte (n / 65536), byte (n / 256), byte n]

/-- A field of four characters, most significant first (R177). -/
def be32 (n : Nat) : List Byte := [byte (n / 16777216), byte (n / 65536), byte (n / 256), byte n]

/-- The number two characters carry (R177). -/
def nat16 (a b : Byte) : Nat := a.toNat * 256 + b.toNat

/-- The number three characters carry (R177). -/
def nat24 (a b c : Byte) : Nat := (a.toNat * 256 + b.toNat) * 256 + c.toNat

/-- A 32-bit value of four characters (R177). -/
def word32 (a b c d : Byte) : BitVec 32 := a ++ b ++ c ++ d

/-- The number of a row of marks, bit 0 first. -/
def flagBits : List Bool → Nat
  | [] => 0
  | b :: bs => b.toNat + 2 * flagBits bs

/-- R178: one shift of the check register. -/
def crcShift (r : Byte) : Byte := if r.msb then (r <<< 1) ^^^ 0x07 else r <<< 1

/-- R178: a character combined into the check register and shifted eight times. -/
def crcStep (r b : Byte) : Byte := Nat.repeat crcShift 8 (r ^^^ b)

/-- R178: the check character over some characters. -/
def crc (chars : List Byte) : Byte := chars.foldl crcStep 0xFF

/-! ### Codes -/

/-- The kind codes of section 2.2. -/
def FrameKind.code : FrameKind → BitVec 5
  | .announce => 0x1A
  | .menu => 0x01
  | .claim => 0x02
  | .grant => 0x04
  | .deny => 0x05
  | .wait => 0x06
  | .ready => 0x08
  | .renew => 0x09
  | .keep => 0x0A
  | .recall => 0x0C
  | .yield => 0x0D
  | .statusQ => 0x10
  | .status => 0x11
  | .ending => 0x14

/-- All assigned kinds. -/
def FrameKind.every : List FrameKind :=
  [.announce, .menu, .claim, .grant, .deny, .wait, .ready, .renew, .keep, .recall, .yield, .statusQ, .status, .ending]

/-- R22 test 3: the kind of a code, absent for an unassigned one. -/
def FrameKind.ofCode (c : BitVec 5) : Option FrameKind := FrameKind.every.find? fun k => k.code == c

/-- The class codes of R24. -/
def FarClass.code : FarClass → Nat
  | .none => 0
  | .supplier => 1
  | .consumer => 2
  | .both => 3

/-- R24: the class of a code; a value above 3 is out of range. -/
def FarClass.ofCode (n : Nat) : Option FarClass :=
  match n with
  | 0 => some .none
  | 1 => some .supplier
  | 2 => some .consumer
  | 3 => some .both
  | _ => none

/-- The role codes of R29. -/
def Role.code : Role → Nat
  | .none => 0
  | .draw => 1
  | .supply => 2

/-- R29: the role of a code; a role above 2 is out of range. -/
def Role.ofCode (n : Nat) : Option Role :=
  match n with
  | 0 => some .none
  | 1 => some .draw
  | 2 => some .supply
  | _ => Option.none

/-- The state codes of R29. -/
def CState.code : CState → Nat
  | .detached => 0
  | .greeting => 1
  | .blocked => 2
  | .faulted => 3
  | .awaitMenu => 4
  | .choosing => 5
  | .claiming => 6
  | .backoff => 7
  | .switching => 8
  | .active => 9
  | .baseline => 10
  | .offering => 11
  | .deciding => 12
  | .powering => 13

/-- The fourteen states in the order of their codes. -/
def CState.every : List CState :=
  [.detached, .greeting, .blocked, .faulted, .awaitMenu, .choosing, .claiming, .backoff, .switching, .active, .baseline,
    .offering, .deciding, .powering]

/-- The state of a code (R29). -/
def CState.ofCode (n : Nat) : Option CState := CState.every[n]?

/-- The reasons of R27. -/
def DenyReason.code : DenyReason → Nat
  | .notOffered => 1
  | .badPoint => 2
  | .policy => 3
  | .role => 4
  | .noMenu => 5

/-- A DENY reason of the table of R27; a code not listed is out of range (chapter 12; DEDUCED, log 19). -/
def DenyReason.ofCode (n : Nat) : Option DenyReason :=
  match n with
  | 1 => some .notOffered
  | 2 => some .badPoint
  | 3 => some .policy
  | 4 => some .role
  | 5 => some .noMenu
  | _ => none

/-- The reasons of R30. -/
def EndReason.code : EndReason → Nat
  | .normal => 1
  | .final => 2
  | .noSuitablePoint => 3
  | .leaseLost => 4
  | .capReached => 5
  | .policy => 6
  | .fault => 7
  | .reset => 8
  | .refused => 9
  | .role => 10

/-- The ten reasons of R30 in code order. -/
def EndReason.every : List EndReason :=
  [.normal, .final, .noSuitablePoint, .leaseLost, .capReached, .policy, .fault, .reset, .refused, .role]

/-- R30: a reason of 0 or above 10 is out of range. -/
def EndReason.ofCode (n : Nat) : Option EndReason := if n = 0 then none else EndReason.every[n - 1]?

/-- The point kinds of R25. -/
def PointKind.code : PointKind → Nat
  | .fixed => 0
  | .window => 1

/-- The outcome codes of section 12.4 note 2. -/
def Outcome.code : Outcome → Nat
  | .done => 1
  | .denied => 2
  | .waitLimit => 3
  | .noAnswer => 4
  | .lineError => 5
  | .malformedAnswer => 6
  | .noSuitablePoint => 7
  | .superseded => 8
  | .recallForced => 9
  | .leaseLost => 10
  | .capReached => 11
  | .endedByFar => 12
  | .endedByController => 13
  | .refused => 14
  | .noRole => 15
  | .detached => 16

/-- The code of an outcome that may be absent (section 12.4 note 2). -/
def outcomeCode : Option Outcome → Nat
  | some o => o.code
  | none => 0

/-- The cause codes of section 12.4 note 3. -/
def Cause.code : Cause → Nat
  | .overcurrent => 1
  | .reverse => 2
  | .voltage => 3
  | .settle => 4
  | .repeatLimit => 5
  | .loop => 6
  | .txTimeout => 7
  | .convention => 8
  | .malformed => 9
  | .malformedAnswer => 10
  | .recallIgnored => 11

/-- The class of each cause (R148). -/
def Cause.cls : Cause → FaultClass
  | .overcurrent | .reverse | .voltage | .settle => .severe
  | .repeatLimit | .loop | .txTimeout | .convention => .link
  | .malformed | .malformedAnswer | .recallIgnored => .protocol

/-- The class codes of section 12.4 note 3, which are also their ranks, the most severe lowest (R148). -/
def FaultClass.code : FaultClass → Nat
  | .severe => 1
  | .link => 2
  | .protocol => 3

/-- The action codes of section 12.6. -/
def Action.code : Action → Nat
  | .auto => 0
  | .refuse => 1
  | .wait => 2
  | .clamp => 3
  | .forward => 4

/-- The action of a code, if it names one (section 12.6). -/
def Action.ofCode (n : Nat) : Option Action :=
  match n with
  | 0 => some .auto
  | 1 => some .refuse
  | 2 => some .wait
  | 3 => some .clamp
  | 4 => some .forward
  | _ => none

/-- The query kind codes of section 12.4 note 1. -/
def QueryKind.code : QueryKind → Nat
  | .announce => 0
  | .menuPoint => 1
  | .claim => 2

/-- The mark codes of section 12.3. -/
def Mark.code : Mark → Nat
  | .unqueried => 0
  | .survives => 1
  | .struck => 2

/-- The recall cause codes of section 12.7. -/
def RecallCause.code : RecallCause → Nat
  | .budget => 1
  | .cap => 2
  | .controller => 3

/-- The strap codes of section 12.5 note 1. -/
def Straps.code : Straps → Nat
  | .disabled => 0
  | .drawOnly => 1
  | .supplyOnly => 2
  | .both => 3

/-- The lower bit DRAW, the upper bit SUPPLY (section 12.5 note 1). -/
def RoleSet.code (r : RoleSet) : Nat := flagBits [r.draw, r.supply]

/-- The cap mode codes of section 12.5 note 3. -/
def CapMode.code : CapMode → Nat
  | .uncapped => 0
  | .endAtCap => 1
  | .recallAtCap => 2

/-- The cap mode of a code; 3 is out of range (R177). -/
def CapMode.ofCode (n : Nat) : Option CapMode :=
  match n with
  | 0 => some .uncapped
  | 1 => some .endAtCap
  | 2 => some .recallAtCap
  | _ => none

/-- The result codes of section 12.3. -/
def Result.code : Result → Nat
  | .ok => 0
  | .badRequest => 1
  | .badIndex => 2
  | .badEntry => 3
  | .wrongState => 4
  | .held => 5
  | .notHeld => 6
  | .refusedStrap => 7
  | .accepted => 8
  | .adjusted => 9
  | .unknownTag => 10

/-- The line of a two-bit number. -/
def lineOf (n : Nat) : Line :=
  match n % 4 with
  | 0 => .l0
  | 1 => .l1
  | 2 => .l2
  | _ => .l3

/-- The notice kind of a content. -/
def NoticeBody.kind : NoticeBody → NoticeKind
  | .attach .. => .attach
  | .detach .. => .detach
  | .agreed .. => .agreed
  | .ended .. => .ended
  | .fault .. => .fault
  | .report .. => .report
  | .budget .. => .budget

/-- The notice kind codes of section 12.4. -/
def NoticeKind.code : NoticeKind → Nat
  | .attach => 1
  | .detach => 2
  | .agreed => 3
  | .ended => 4
  | .fault => 5
  | .report => 6
  | .budget => 7

/-! ### Contract frames (sections 2.2 and 12.2) -/

/-- The kind of a frame's body. -/
def FrameBody.kind : FrameBody → FrameKind
  | .announce .. => .announce
  | .menu .. => .menu
  | .claim .. => .claim
  | .grant .. => .grant
  | .deny .. => .deny
  | .wait .. => .wait
  | .ready .. => .ready
  | .renew .. => .renew
  | .keep .. => .keep
  | .recall .. => .recall
  | .yield .. => .yield
  | .statusQ => .statusQ
  | .status .. => .status
  | .ending .. => .ending

/-- A menu point's seven characters (section 12.2). -/
def Point.chars (p : Point) : List Byte := byte p.kind.code :: (be16 p.v1 ++ be16 p.v2 ++ be16 p.limit)

/-- The body's characters (section 12.2). -/
def FrameBody.chars : FrameBody → List Byte
  | .announce cls rc ans idn lvl =>
      byte cls.code :: byte (flagBits [rc, false, false, false, false, false, false, ans]) ::
        (be32 idn.toNat ++ [byte lvl])
  | .menu rc pts => byte rc.toNat :: byte pts.length :: (pts.map Point.chars).flatten
  | .claim f => byte f.point :: (be16 f.voltage ++ be16 f.claimed ++ be16 f.least)
  | .grant cur lease => be16 cur ++ [byte lease]
  | .deny r => [byte r.code]
  | .wait t => [byte t]
  | .ready v cur => be16 v ++ be16 cur
  | .renew cur => be16 cur
  | .keep w => be16 w.toNat
  | .recall c d => be16 c ++ [byte d]
  | .yield lim => be16 lim
  | .statusQ => []
  | .status w r st v cur => be16 w.toNat ++ byte (r.code * 16 + st.code) :: (be16 v ++ be16 cur)
  | .ending r => [byte r.code]

/-- The header character: tag in bits 7 to 5, kind in bits 4 to 0 (R21). -/
def headerByte (tag : Tag) (k : FrameKind) : Byte := tag ++ k.code

/-- Header, length character and body (R21). -/
def Frame.raw (f : Frame) : List Byte :=
  headerByte f.tag f.body.kind :: byte f.body.chars.length :: f.body.chars

/-- The whole frame, check character last (R21). -/
def Frame.chars (f : Frame) : List Byte := f.raw ++ [crc f.raw]

/-- R25: the points of a MENU's body, each in its range. -/
def parsePoints : List Byte → Option (List Point)
  | [] => some []
  | k :: a :: b :: c :: d :: e :: f :: rest =>
      let v1 := nat16 a b
      let v2 := nat16 c d
      let lim := nat16 e f
      if 200 ≤ v1 ∧ v1 ≤ 1300 ∧ 200 ≤ v2 ∧ v2 ≤ 1300 then
        if k = 0 ∧ v1 = v2 ∧ lim ≤ 320 then (parsePoints rest).map (⟨.fixed, v1, v2, lim⟩ :: ·)
        else if k = 1 ∧ v1 < v2 ∧ lim ≤ 2500 then (parsePoints rest).map (⟨.window, v1, v2, lim⟩ :: ·)
        else none
      else none
  | _ => none

/-- R22 tests 4 and 5: the body of a kind, with its length and every field in range (R24 to R30). -/
def parseBody (k : FrameKind) (tag : Tag) (body : List Byte) : Option FrameBody :=
  match k, body with
  | .announce, [c, f, i1, i2, i3, i4, lvl] =>
      if tag = 1 ∧ lvl ≠ 0 then
        (FarClass.ofCode c.toNat).map fun cls =>
          .announce cls (f.getLsbD 0) (f.getLsbD 7) (word32 i1 i2 i3 i4) lvl.toNat
      else none
  | .menu, f :: n :: pts =>
      if 1 ≤ n.toNat ∧ n.toNat ≤ 6 ∧ pts.length = 7 * n.toNat then
        (parsePoints pts).map fun ps => .menu (f.getLsbD 0) ps
      else none
  | .claim, [p, a, b, c, d, e, f] =>
      if p.toNat ≤ 5 ∧ 200 ≤ nat16 a b ∧ nat16 a b ≤ 1300 ∧ nat16 c d ≤ 320 ∧ nat16 e f ≤ 320 then
        some (.claim ⟨p.toNat, nat16 a b, nat16 c d, nat16 e f⟩)
      else none
  | .grant, [a, b, ls] =>
      if nat16 a b ≤ 320 ∧ 1 ≤ ls.toNat ∧ ls.toNat ≤ 120 then some (.grant (nat16 a b) ls.toNat) else none
  | .deny, [r] => (DenyReason.ofCode r.toNat).map .deny
  | .wait, [t] => if t = 0 then none else some (.wait t.toNat)
  | .ready, [a, b, c, d] =>
      if 200 ≤ nat16 a b ∧ nat16 a b ≤ 1300 ∧ nat16 c d ≤ 320 then some (.ready (nat16 a b) (nat16 c d)) else none
  | .renew, [a, b] => if nat16 a b ≤ 320 then some (.renew (nat16 a b)) else none
  | .keep, [a, b] => some (.keep (a ++ b))
  | .recall, [a, b, d] =>
      if nat16 a b ≤ 320 ∧ 1 ≤ d.toNat ∧ d.toNat ≤ 100 then some (.recall (nat16 a b) d.toNat) else none
  | .yield, [a, b] => if nat16 a b ≤ 320 then some (.yield (nat16 a b)) else none
  | .statusQ, [] => some .statusQ
  | .status, [w1, w2, rs, a, b, c, d] =>
      if (nat16 a b = 0 ∨ (200 ≤ nat16 a b ∧ nat16 a b ≤ 1300)) ∧ nat16 c d ≤ 320 then
        match Role.ofCode (rs.toNat / 16 % 4), CState.ofCode (rs.toNat % 16) with
        | some r, some st => some (.status (w1 ++ w2) r st (nat16 a b) (nat16 c d))
        | _, _ => none
      else none
  | .ending, [r] => (EndReason.ofCode r.toNat).map .ending
  | _, _ => none

/-- What validation finds (R22): a well-formed frame, or a malformed one with its kind when tests 1 to 3 passed (R23). -/
inductive Verdict where
  | wellFormed (f : Frame)
  | malformed (kind : Option FrameKind)
  deriving DecidableEq, Repr

/-- R22 tests 2 to 5, on a complete frame. -/
def validate (chars : List Byte) : Verdict :=
  match chars.dropLast, chars.getLast? with
  | h :: len :: body, some check =>
      if crc (h :: len :: body) = check then
        match FrameKind.ofCode (h.setWidth 5) with
        | some k =>
            match parseBody k (h.extractLsb' 5 3) body with
            | some b => .wellFormed ⟨h.extractLsb' 5 3, b⟩
            | none => .malformed (some k)
        | none => .malformed none
      else .malformed none
  | _, _ => .malformed none

/-- The kind of a frame the device sends, from its header (R148). -/
def kindOfChars (chars : List Byte) : Option FrameKind :=
  chars.head?.bind fun h => FrameKind.ofCode (h.setWidth 5)

/-! ### Wire levels (R1, R2) -/

/-- R2: a character read with cell 1 as bit 7 and a low level as 1; the same map writes it. -/
def flipByte (b : Byte) : Byte := ~~~ b.reverse

/-- R2: the logical value of data levels in a convention. -/
def Convention.read (c : Convention) (data : Byte) : Byte :=
  match c with
  | .inverse => flipByte data
  | .unknown | .direct => data

/-- R2: the data levels that carry a logical value in a convention. -/
def Convention.write (c : Convention) (b : Byte) : Byte := c.read b

/-- R1, R2: a logical character on the wire. -/
def wireChar (c : Convention) (b : Byte) : WireChar :=
  ⟨c.write b, highCount (c.write b) % 2 == 1⟩

/-- R7: the convention after a frame's first character has been examined as read in DIRECT. -/
def learn (c : Convention) (data : Byte) : Convention :=
  if data = 0x3A then .direct else if data = 0xA3 then .inverse else c

/-- R8: the first character is a convention error. -/
def isConventionError (c : Convention) (data : Byte) : Bool :=
  c == .unknown && !(data == 0x3A) && !(data == 0xA3)

/-! ### System link frames (sections 10.1, 12.3 and 12.4) -/

/-- The kind codes of link frames (section 12.3): those on SRX, then those the device sends. -/
inductive LinkKind where
  | request | verdict | response | relay | notice
  deriving DecidableEq, Repr

/-- Kind codes (section 12.3). -/
def LinkKind.code : LinkKind → BitVec 5
  | .request => 0x01
  | .verdict => 0x02
  | .response => 0x11
  | .relay => 0x12
  | .notice => 0x13

/-- What the check of a link frame is computed over: header, length character and body (R157). -/
def linkRaw (addr : Nat) (k : LinkKind) (body : List Byte) : List Byte :=
  (BitVec.ofNat 3 addr ++ k.code : Byte) :: byte body.length :: body

/-- A frame on STX: header, length, body, check (R157). -/
def linkFrame (addr : Nat) (k : LinkKind) (body : List Byte) : List Byte := linkRaw addr k body ++ [crc (linkRaw addr k body)]

/-- R157: a character of the link: a low start bit, the data, even parity over data and parity bit, a high stop bit. -/
def linkChar (b : Byte) : LinkChar := ⟨false, b, highCount b % 2 == 1, true⟩

/-- R158: the frame is malformed as it stands at its end: its check, its address, its kind, or its body for the kind. -/
def linkMalformed (chars : List Byte) : Bool :=
  match chars.dropLast, chars.getLast? with
  | h :: n :: body, some check =>
      !(crc (h :: n :: body) == check) || decide (4 ≤ h.toNat / 32 ∧ h.toNat / 32 ≤ 6) ||
        !((h.setWidth 5 == LinkKind.request.code && decide (2 ≤ body.length)) ||
          (h.setWidth 5 == LinkKind.verdict.code && body.length == 5))
  | _, _ => true

/-- R157, R158: the characters of a frame on SRX as they have come: whether they are found malformed, and then whether at the
frame's end. The frame is expected to hold its length plus 3 characters. -/
def judgeLink (cs : List LinkChar) : Option Bool :=
  let expected := (cs[1]?.map fun n => n.data.toNat).getD 0 + 3
  if 63 < expected ∨ cs.dropLast.any LinkChar.bad = true then some false
  else if cs.any LinkChar.bad then some (decide (cs.length = expected))
  else if cs.length = expected ∧ linkMalformed (cs.map LinkChar.data) = true then some true
  else none

/-- What the check of a REQUEST is computed over (R157, section 12.3). -/
def requestRaw (addr : Addr) (num code : Byte) (args : List Byte) : List Byte :=
  linkRaw addr.code .request (num :: code :: args)

/-- What the check of a VERDICT is computed over (R157, section 12.3). -/
def verdictRaw (decision : Byte) (v : VerdictReq) : List Byte :=
  linkRaw v.addr.code .verdict (v.tag :: decision :: v.point :: be16 v.value.toNat)

/-- A RESPONSE frame (section 12.3). -/
def Response.frame (r : Response) : List Byte :=
  linkFrame r.addr.code .response (r.num :: r.code :: byte r.result.code :: r.data)

/-- The fault flags of section 12.4 note 3. -/
def Capture.flags (c : Capture) : Byte := byte (flagBits [c.held, c.overlap, c.kind.isSome])

/-- The ten characters of a capture, as FAULT carries them and FAULT_GET returns them (sections 12.4 and 12.5). -/
def Capture.chars (c : Capture) : List Byte :=
  [c.flags, byte ((c.cause.map Cause.code).getD 0), byte ((c.cause.map fun x => x.cls.code).getD 0), byte c.state.code,
    byte ((c.kind.map fun k => k.code.toNat).getD 0)] ++ be32 c.time.toNat ++ [byte c.count]

/-- A notice's content (section 12.4). -/
def NoticeBody.chars : NoticeBody → List Byte
  | .attach st => [byte st.code]
  | .detach st o => [byte st.code, byte (outcomeCode o)]
  | .agreed r st o v cur lease pt =>
      [byte r.code, byte st.code, byte (outcomeCode o)] ++ be16 v ++ be16 cur ++ be16 (v * cur / 200) ++
        [byte lease, byte pt]
  | .ended r st o => [byte r.code, byte st.code, byte (outcomeCode o)]
  | .fault c => c.chars
  | .report rule act k lo hi p pt =>
      [byte rule, byte act.code, byte k.code] ++ be16 lo ++ be16 hi ++ be16 p ++ [byte pt]
  | .budget dOver sOver ic sc cd cs dh sh =>
      byte (flagBits [dOver, sOver]) ::
        (be16 ic ++ be16 sc ++ be16 cd ++ be16 cs ++ be16 dh ++ be16 sh)

/-- A notice's address (R168). -/
def Source.code : Source → Nat
  | .line l => l.index
  | .part => 7

/-- A NOTICE frame (section 12.3). -/
def Notice.frame (n : Notice) : List Byte :=
  linkFrame n.source.code .notice
    (byte n.body.kind.code :: byte n.body.chars.length :: (be32 n.time.toNat ++ n.body.chars))

/-- The far fields of a RELAY (R163, R177, section 12.3): class, flags, identity, level; bit 7 of the flags marks their absence.
The layout has this one mark for all four. Where a MENU has set the recall-capable flag (R66) and no ANNOUNCE has given the
other three, that the mark says absent and bit 0 carries the flag's value is the model's choice, log 39. -/
def relayFar (far : Option FarFields) (farRecall : Option Bool) : List Byte :=
  match far with
  | some f =>
      byte f.cls.code :: byte (farRecall.getD false).toNat :: (be32 f.identity.toNat ++ [byte f.level])
  | none => byte 0 :: byte ((farRecall.getD false).toNat + 128) :: (be32 0 ++ [byte 0])

/-- Body of RELAY part 1 (section 12.3); `raw` is the far frame without its check. -/
def relayPart1 (tag : Byte) (rule : Nat) (c : Contract) (raw : List Byte) : List Byte :=
  tag :: byte 1 :: byte rule :: (relayFar c.far c.farRecall ++ raw)

/-- Body of RELAY part 2 of a MENU (R163, section 12.3). -/
def relayPart2 (tag : Byte) (pts : List FarPoint) : List Byte :=
  tag :: byte 2 :: byte pts.length ::
    (pts.map fun p => byte p.mark.code :: be16 (if p.mark = .survives then p.capacity else 0)).flatten

/-! ### Entries and records (sections 12.6 and 12.7) -/

/-- The 24 characters of a rule entry (section 12.6). -/
def RuleEntry.chars (e : RuleEntry) : List Byte :=
  byte (e.enabled.toNat * 128 + e.report.toNat * 64 + e.action.code * 8 + e.fallback.code) ::
    byte e.lines.toNat :: byte e.kinds.toNat ::
    byte (flagBits [e.hasVoltage, e.hasPower, e.hasStance, e.hasClass, e.hasIdentity]) :: byte e.classes.toNat ::
    (be32 e.identity.toNat ++ be32 e.mask.toNat ++ be16 e.vMin ++ be16 e.vMax ++ be16 e.pMin ++ be16 e.pMax ++
      e.stance :: be16 e.clamp)

/-- The 9 characters of a preference entry (section 12.6). -/
def Preference.chars (p : Preference) : List Byte :=
  byte p.enabled.toNat :: (be16 p.vMin ++ be16 p.vMax ++ be16 p.wanted ++ be16 p.least)

/-- The 8 characters of a supply entry (section 12.6). -/
def SupplyEntry.chars (e : SupplyEntry) : List Byte := byte e.enabled.toNat :: e.point.chars

/-- The rank character: the first-ranked line in bits 7 to 6 (section 12.5 note 2). -/
def packLines (ls : List Line) : Nat :=
  ((List.range 4).map fun i => ((ls[i]?.map Line.index).getD 0) * 4 ^ (3 - i)).sum

/-- A per-line row of two-bit codes, L0 in bits 1 to 0 (section 12.5 note 1). -/
def packCodes (x : Four Nat) : Nat := x.l0 + x.l1 * 4 + x.l2 * 16 + x.l3 * 64

/-- The budget record, 56 characters (section 12.7). -/
def Budget.chars (b : Budget) : List Byte :=
  be16 b.inputCeiling ++ be16 b.supplyCeiling ++ [byte (packLines b.rank)] ++ be16 b.committedDraw ++
    be16 b.committedSupply ++ be16 b.drawHeadroom ++ be16 b.supplyHeadroom ++
    [byte (flagBits ([b.drawOver, b.supplyOver, false, false] ++
      Line.everyLine.map fun l => (b.alloc.get l).isSome))] ++
    (Line.everyLine.map fun l =>
      be16 (b.drawCommit.get l) ++ be16 (((b.alloc.get l).map Allocation.power).getD 0) ++
        be16 (((b.alloc.get l).map Allocation.current).getD 0)).flatten ++
    [byte b.order.length, byte (packLines (b.order.map GrantEntry.line))] ++
    ((List.range 4).map fun i =>
      be16 ((b.order[i]?.map GrantEntry.commitment).getD 0) ++
        be16 ((b.order[i]?.map GrantEntry.recallVoltage).getD 0)).flatten

/-- A tag in bits 7 to 5 and a point index in bits 2 to 0 (section 12.7). -/
def tagPoint (tag : Tag) (pt : Nat) : Byte := byte (tag.toNat * 32 + pt)

/-- Contract record, part 0, 56 characters (R177, section 12.7). Bit 0 of position 3 is the one mark for the far class, flag,
identity and level. Where a MENU has set the recall-capable flag (R66) and no ANNOUNCE has given the other three, that the mark
says absent and position 6 carries the flag's value is the model's choice, log 39. -/
def Contract.part0 (c : Contract) (st : Straps) : List Byte :=
  [byte c.state.code, byte c.role.code,
    byte (flagBits [c.far.isSome, c.farMenu.isSome, c.offered.isSome, c.agreement.isSome, c.claim.isSome,
      c.grant.isSome, c.recallOut.isSome, c.target.isSome]),
    byte (flagBits [c.leaseDeadline.isSome, c.lineClamp.isSome, c.lastOutcome.isSome, c.paused, c.deferred, c.unmanaged,
      c.lastFrameFault, (c.offered.map OfferedMenu.held).getD false])] ++
  (byte ((c.far.map fun f => f.cls.code).getD 0) :: byte (c.farRecall.getD false).toNat ::
    (be32 ((c.far.map fun f => f.identity.toNat).getD 0) ++ [byte ((c.far.map FarFields.level).getD 0)])) ++
  (match c.agreement with
    | some a => be16 a.voltage ++ be16 a.current ++ [byte a.lease, byte a.point]
    | none => List.replicate 6 0) ++
  (match c.claim with
    | some k => be16 k.fields.voltage ++ be16 k.fields.claimed ++ be16 k.fields.least ++ [tagPoint k.tag k.fields.point]
    | none => List.replicate 7 0) ++
  (match c.grant with
    | some g => be16 g.voltage ++ be16 g.current ++ [byte g.lease, tagPoint g.tag g.point]
    | none => List.replicate 6 0) ++
  [byte (c.cursor.pref * 16 + c.cursor.point),
    byte (c.waitStreak + c.greetingCount * 16 + c.greetingStopped.toNat * 64), byte c.tagCounter.toNat] ++
  be32 ((c.leaseDeadline.map BitVec.toNat).getD 0) ++
  be16 ((c.recallOut.map RecallOut.level).getD 0) ++
  be32 (((c.recallOut.bind RecallOut.deadline).map BitVec.toNat).getD 0) ++
  [byte (((c.recallOut.map fun r => r.cause.code).getD 0) + ((c.target.map fun t => t.cause.code).getD 0) * 16)] ++
  be16 ((c.target.map RecallTarget.level).getD 0) ++ be16 (c.lineClamp.getD 0) ++
  [byte (outcomeCode c.lastOutcome),
    byte (c.options.timeoutIndex + c.options.holdAfterActive.toNat * 4 + c.options.capMode.code * 8 +
      c.options.roles.code * 32),
    byte c.options.lease, byte c.options.baseline] ++
  be24 c.options.allowance ++ [byte st.code]

/-- Contract record, part 1: the far menu with marks and capacities (section 12.7). -/
def Contract.part1 (c : Contract) : List Byte :=
  match c.farMenu with
  | some m =>
      byte m.points.length :: (m.points.map fun p =>
        byte (p.point.kind.code + p.mark.code * 16) ::
          (be16 p.point.v1 ++ be16 p.point.v2 ++ be16 p.point.limit ++ be16 p.capacity)).flatten
  | none => [byte 0]

/-- Contract record, part 2: the offered menu and the held mark (section 12.7). -/
def Contract.part2 (c : Contract) : List Byte :=
  match c.offered with
  | some m => byte m.points.length :: byte m.held.toNat :: (m.points.map Point.chars).flatten
  | none => [byte 0, byte 0]

/-- IDENTIFY's data (section 12.5). -/
def identifyChars (straps : Four Straps) (roles : Four RoleSet) (mode : Mode) (linkError : Bool) (now : Time) :
    List Byte :=
  be16 Config.familyCode ++ be16 Config.revision ++
    [byte (packCodes (straps.map Straps.code)), byte (packCodes (roles.map RoleSet.code)),
      byte (match mode with
        | .running => 0
        | .autonomous => 1),
      byte linkError.toNat] ++ be32 now.toNat

/-- HEALTH_GET's first two characters (section 12.5 note 5); MUTED mirrors the mute flag (R154). -/
def Health.chars (h : Health) (muted : Bool) : List Byte :=
  [byte (flagBits [h.txTimeout, h.loopFail, h.repeatLimit, h.conventionError, false, false, false, muted]),
    byte (flagBits [h.malformed, h.shortFrame, h.strayAnswer, h.answerTimeout])]

end Machine

/-! ### Frames on SRX with their right check (R157, R158) -/

/-- The REQUEST of a code. -/
def Req.framed (code : Byte) (addr : Addr) (num : Byte) (args : List Byte) : Req :=
  ⟨addr, num, args, Machine.crc (Machine.requestRaw addr num code args)⟩

/-- The LINE_CTRL REQUEST of an action, with the characters after the action. -/
def Req.control (action : Byte) (addr : Addr) (num : Byte) (args : List Byte) : Req :=
  ⟨addr, num, args, Machine.crc (Machine.requestRaw addr num 0x31 (action :: args))⟩

/-- The VERDICT of a decision. -/
def VerdictReq.framed (decision : Byte) (addr : Addr) (tag point : Byte) (value : BitVec 16) : VerdictReq :=
  ⟨addr, tag, point, value, Machine.crc (Machine.verdictRaw decision ⟨addr, tag, point, value, 0⟩)⟩

end Sys2Proof
end

