-- ==== Sys2Proof/Machine/Flags.lean ====
section
/-! DEFINITION. Flags and small arithmetic: power and current (spec/00_scope.md section 5), percentage windows (R138),
health flags (R154, R155), the stance word (R38) and the budget's headroom pair with its over flags (R125). -/

namespace Sys2Proof.Machine

/-! ### Power, current and windows -/

/-- Section 5: power = floor(voltage × current / 200). -/
def power (voltage current : Nat) : Nat := voltage * current / 200

/-- Section 5: current = floor(power × 200 / voltage). -/
def current (power voltage : Nat) : Nat := power * 200 / voltage

/-- R138: the voltage lies in the window of k percent about a reference, both bounds included. -/
def inWindow (k reference v : Nat) : Bool :=
  decide (reference - reference * k / 100 ≤ v ∧ v ≤ reference + reference * k / 100)

/-- A power capped where a cap is present. -/
def capBy (p : Nat) : Option Nat → Nat
  | some c => min p c
  | none => p

/-! ### Health flags -/

/-- R155: a frame event clears the four last-frame flags before it sets its own. -/
def Health.newEvent (h : Health) : Health :=
  { h with malformed := false, shortFrame := false, strayAnswer := false, answerTimeout := false }

/-! ### The stance word -/

/-- R38 and the table of section 2.4: bits 0 to 2 are computed, bits 3 to 6 are the programmed ones. A set manual flag
gives the programmed value whole. -/
def LinkUnit.stanceWord (u : LinkUnit) (lastFrameFault recallActive supplyAvailable : Bool) : BitVec 16 :=
  if u.manualStance then u.stance
  else BitVec.ofNat 16 (flagBits [lastFrameFault, recallActive, supplyAvailable, u.stance.getLsbD 3, u.stance.getLsbD 4,
    u.stance.getLsbD 5, u.stance.getLsbD 6])

/-- R41: BUSY is bit 3 of the programmed value in both modes. -/
def LinkUnit.busy (u : LinkUnit) : Bool := u.stance.getLsbD 3

/-- R40, R108: BATTERY_LOW is bit 4 of the programmed value in both modes. -/
def LinkUnit.batteryLow (u : LinkUnit) : Bool := u.stance.getLsbD 4

/-! ### The headroom pair -/

/-- R123, R125: the sums, the headroom pair and the sticky over flags, from the commitments and ceilings as they stand. -/
def Budget.resum (b : Budget) : Budget :=
  let draw := b.drawCommit.l0 + b.drawCommit.l1 + b.drawCommit.l2 + b.drawCommit.l3
  let supply := (b.order.map GrantEntry.commitment).sum
  { b with
    committedDraw := draw
    committedSupply := supply
    drawHeadroom := b.inputCeiling - draw
    supplyHeadroom := b.supplyCeiling - supply
    drawOver := b.drawOver || decide (b.inputCeiling < draw)
    supplyOver := b.supplyOver || decide (b.supplyCeiling < supply) }

/-- R125: the BUDGET notice's content. -/
def Budget.notice (b : Budget) : NoticeBody :=
  .budget b.drawOver b.supplyOver b.inputCeiling b.supplyCeiling b.committedDraw b.committedSupply b.drawHeadroom
    b.supplyHeadroom

end Sys2Proof.Machine
end

