-- ==== Sys2Proof/Machine/Operands.lean ====
section
/-! DEFINITION. The operands of requests (sections 12.5 and 12.6): how argument characters are read, and the ranges in
which each request is accepted. An absent result is BAD_ENTRY. -/

namespace Sys2Proof.Machine

/-- R119, section 12.6: a rule entry of 24 characters, its hit count 0 (R120); masks keep only the bits that name a line,
a kind or a class. -/
def parseRule : List Byte → Option RuleEntry
  | [h, lm, km, pm, cm, i1, i2, i3, i4, m1, m2, m3, m4, v1, v2, v3, v4, p1, p2, p3, p4, st, c1, c2] =>
      match Action.ofCode (h.toNat / 8 % 8), Action.ofCode (h.toNat % 8) with
      | some act, some fb =>
          let e : RuleEntry := {
            enabled := h.getLsbD 7, report := h.getLsbD 6, action := act, fallback := fb
            lines := lm.setWidth 4, kinds := km.setWidth 3
            hasVoltage := pm.getLsbD 0, hasPower := pm.getLsbD 1, hasStance := pm.getLsbD 2
            hasClass := pm.getLsbD 3, hasIdentity := pm.getLsbD 4
            classes := cm.setWidth 4, identity := word32 i1 i2 i3 i4, mask := word32 m1 m2 m3 m4
            vMin := nat16 v1 v2, vMax := nat16 v3 v4, pMin := nat16 p1 p2, pMax := nat16 p3 p4
            stance := st, clamp := nat16 c1 c2, hits := 0 }
          if fb = .forward ∨ (e.enabled = true ∧ e.kinds = 0) ∨
              (e.hasVoltage = true ∧ (e.vMin < 200 ∨ 1300 < e.vMin ∨ e.vMax < 200 ∨ 1300 < e.vMax ∨ e.vMax < e.vMin)) ∨
              (e.hasPower = true ∧ (2500 < e.pMin ∨ 2500 < e.pMax ∨ e.pMax < e.pMin)) ∨
              (e.hasStance = true ∧ 1 < e.stance.toNat) ∨ 2500 < e.clamp ∨
              ((e.action = .clamp ∨ (e.action = .forward ∧ e.fallback = .clamp)) ∧ e.clamp = 0) then none
          else some e
      | _, _ => none
  | _ => none

/-- R70, section 12.6: a preference entry of 9 characters. -/
def parsePref : List Byte → Option Preference
  | [e, a, b, c, d, w1, w2, l1, l2] =>
      let p : Preference := ⟨e.getLsbD 0, nat16 a b, nat16 c d, nat16 w1 w2, nat16 l1 l2⟩
      if 200 ≤ p.vMin ∧ p.vMin ≤ 1300 ∧ 200 ≤ p.vMax ∧ p.vMax ≤ 1300 ∧ p.vMin ≤ p.vMax ∧ 1 ≤ p.wanted ∧ p.wanted ≤ 2500 ∧
          1 ≤ p.least ∧ p.least ≤ 2500 ∧ p.least ≤ p.wanted then some p
      else none
  | _ => none

/-- R87, R88, section 12.6: a supply entry of 8 characters. -/
def parseSupply : List Byte → Option SupplyEntry
  | [e, k, a, b, c, d, m1, m2] =>
      let v1 := nat16 a b
      let v2 := nat16 c d
      let lim := nat16 m1 m2
      if 250 ≤ v1 ∧ v1 ≤ 1000 ∧ 250 ≤ v2 ∧ v2 ≤ 1000 then
        if k = 0 ∧ v1 = v2 ∧ lim ≤ 120 then some ⟨e.getLsbD 0, ⟨.fixed, v1, v2, lim⟩⟩
        else if k = 1 ∧ v1 < v2 ∧ lim ≤ 600 then some ⟨e.getLsbD 0, ⟨.window, v1, v2, lim⟩⟩
        else none
      else none
  | _ => none

/-- R62, section 12.5: the seven option characters of LINE_SET, each in its range. -/
def parseOptions : List Byte → Option Options
  | [t, lease, base, f, a1, a2, a3] =>
      match CapMode.ofCode (f.toNat / 2 % 4) with
      | some mode =>
          if t.toNat ≤ 3 ∧ 1 ≤ lease.toNat ∧ lease.toNat ≤ 120 ∧ 4 ≤ base.toNat ∧ base.toNat ≤ 60 then
            some ⟨t.toNat, lease.toNat, base.toNat, f.getLsbD 0, mode, nat24 a1 a2 a3, ⟨f.getLsbD 4, f.getLsbD 5⟩⟩
          else none
      | none => none
  | _ => none

/-- R60, R62: the roles are among those the straps granted. -/
def RoleSet.within (r granted : RoleSet) : Bool := (!r.draw || granted.draw) && (!r.supply || granted.supply)

/-- Section 12.5 note 2: the rank of a character, the first-ranked line in bits 7 to 6. -/
def parseRank (b : Byte) : List Line :=
  [lineOf (b.toNat / 64), lineOf (b.toNat / 16), lineOf (b.toNat / 4), lineOf b.toNat]

/-- R130: the ceilings and the rank BUDGET_SET carries, in their ranges. -/
def parseBudget : List Byte → Option (Nat × Nat × List Line)
  | [a, b, c, d, r] =>
      if nat16 a b ≤ 2500 ∧ nat16 c d ≤ 1000 ∧ (parseRank r).Nodup then some (nat16 a b, nat16 c d, parseRank r)
      else none
  | _ => none

end Sys2Proof.Machine
end

