-- ==== Sys2Proof/Machine/Ops.lean ====
section
/-! DEFINITION. The shared operations: access to a line's blocks, time, notices, handing frames, tags, the exchange slot,
and path commands. -/

namespace Sys2Proof.Machine

/-- The outcome of a step of this part. -/
abbrev StepOutcome := Host.Outcome State Fault Refusal

/-! ### A line's blocks -/

/-- The line engine of a line. -/
def State.engine (s : State) (l : Line) : LineEngine := s.engines.get l

/-- The contract record of a line. -/
def State.contract (s : State) (l : Line) : Contract := s.contracts.get l

/-- The path channel of a line. -/
def State.channel (s : State) (l : Line) : Channel := s.channels.get l

/-- Changes the line engine of a line. -/
def State.onEngine (s : State) (l : Line) (f : LineEngine → LineEngine) : State :=
  { s with engines := s.engines.set l (f (s.engine l)) }

/-- Changes the contract record of a line. -/
def State.onContract (s : State) (l : Line) (f : Contract → Contract) : State :=
  { s with contracts := s.contracts.set l (f (s.contract l)) }

/-- Changes the path channel of a line. -/
def State.onChannel (s : State) (l : Line) (f : Channel → Channel) : State :=
  { s with channels := s.channels.set l (f (s.channel l)) }

/-- Changes the health record of a line. -/
def State.onHealth (s : State) (l : Line) (f : Health → Health) : State :=
  s.onEngine l fun e => { e with health := f e.health }

/-- Changes the system link unit. -/
def State.onLink (s : State) (f : LinkUnit → LinkUnit) : State := { s with link := f s.link }

/-- Returns the line's link strikes to 0 (R152). -/
def State.clearStrikes (s : State) (l : Line) : State := { s with strikes := s.strikes.set l 0 }

/-- R55: records the last outcome of a line. -/
def State.record (s : State) (l : Line) (o : Outcome) : State := s.onContract l fun c => { c with lastOutcome := some o }

/-! ### Time (spec/00_scope.md section 5) -/

/-- The counter value a number of milliseconds from now. -/
def State.after (s : State) (ms : Nat) : Time := s.now + BitVec.ofNat 32 ms

/-- The counter has taken the deadline's value: it stands at it, or at most 2^31 − 1 steps beyond it (log 2). -/
def reachedAt (now deadline : Time) : Bool := decide ((now - deadline).toNat < 2147483648)

/-- The deadline is reached now. -/
def State.reached (s : State) (deadline : Time) : Bool := reachedAt s.now deadline

/-- A timer that runs and is due. -/
def State.due (s : State) : Option Time → Bool
  | some d => s.reached d
  | none => false

/-! ### Notices (R167, R175) -/

/-- The notice set holds a notice of this source and kind. -/
def Notice.sameKey (a b : Notice) : Bool := a.source == b.source && a.body.kind == b.body.kind

/-- R167: a notice joins at the newest end, or replaces the one of its source and kind in its place. -/
def putNotice (n : Notice) : List Notice → List Notice
  | [] => [n]
  | m :: ms => if m.sameKey n then n :: ms else m :: putNotice n ms

/-- The kind is in the wake set (section 12.4: kind k in bit k − 1). -/
def LinkUnit.wakesOn (u : LinkUnit) (k : NoticeKind) : Bool := u.wakeSet.getLsbD (k.code - 1)

/-- R167, R175: a raising, which asserts WAKE in AUTONOMOUS mode when its kind is in the wake set. -/
def LinkUnit.raise (u : LinkUnit) (n : Notice) : LinkUnit :=
  { u with notices := putNotice n u.notices, wake := u.wake || (u.mode == .autonomous && u.wakesOn n.body.kind) }

/-- Raises a notice stamped with the device time counter. -/
def State.raise (s : State) (src : Source) (body : NoticeBody) : State :=
  s.onLink fun u => u.raise ⟨src, s.now, body⟩

/-- The AGREED notice of a line (section 10.5). -/
def State.raiseAgreed (s : State) (l : Line) : State :=
  let c := s.contract l
  match c.agreement with
  | some a => s.raise (.line l) (.agreed c.role c.state c.lastOutcome a.voltage a.current a.lease a.point)
  | none => s

/-! ### The verdict queue -/

/-- R166: the line's entry leaves without a decision, with its unsent RELAY parts. -/
def State.dropVerdict (s : State) (l : Line) : State :=
  s.onLink fun u => { u with verdicts := u.verdicts.filter fun v => !(v.line == l) }

/-- The line's verdict entry. -/
def State.verdictOf (s : State) (l : Line) : Option VerdictEntry := s.link.verdicts.find? fun v => v.line == l

/-! ### Handing frames (R9, R16, R31) -/

/-- R9, R19: a frame handed now joins the queue. -/
def LineEngine.accepts (e : LineEngine) : Bool :=
  e.present && !e.muted && decide (e.wdCount < 3) && decide (e.txQueue.length < 4)

/-- R16: the line engine can send. -/
def LineEngine.canSend (e : LineEngine) : Bool := e.present && !e.muted && decide (e.wdCount < 3)

/-- R9: a frame is handed; it joins the tail of the queue or is dropped. -/
def LineEngine.hand (e : LineEngine) (chars : List Byte) : LineEngine :=
  if e.accepts then
    { e with
      txQueue := e.txQueue ++ [⟨e.nextId, chars, 0⟩]
      txSide := if e.txSide = .idle then .waiting else e.txSide
      nextId := e.nextId + 1 }
  else { e with nextId := e.nextId + 1 }

/-- Hands an answer, a MENU or an ENDING, whose report changes nothing (R9). -/
def State.hand (s : State) (l : Line) (f : Frame) : State := s.onEngine l fun e => e.hand f.chars

/-- R31: steps the tag counter, from 7 to 0. -/
def State.stepTag (s : State) (l : Line) : State := s.onContract l fun c => { c with tagCounter := c.tagCounter + 1 }

/-- R31: hands a frame with a tag from the counter. -/
def State.handNew (s : State) (l : Line) (b : FrameBody) : State :=
  (s.hand l ⟨(s.contract l).tagCounter, b⟩).stepTag l

/-! ### The exchange slot (R32 to R34) -/

/-- R34: the answer timeout of an index, in milliseconds. -/
def answerMs (index : Nat) : Nat :=
  match index with
  | 0 => 10
  | 1 => 25
  | 2 => 60
  | _ => 150

/-- R34: a line's answer timeout from now. -/
def State.answerDue (s : State) (l : Line) : Time := s.after (answerMs (s.contract l).options.timeoutIndex)

/-- R46, R101: what a SENT or DROPPED report of a request starts beside its answer timer: a RECALL's deadline; for an
ANNOUNCE in an unmanaged BASELINE the slow re-greeting's interval. -/
def Contract.noteReport (c : Contract) (k : ReqKind) (now : Time) : Contract :=
  match k with
  | .recall => { c with recallOut := c.recallOut.map fun r => { r with deadline := some (now + 100) } }
  | .announce =>
      if c.state = .baseline ∧ c.unmanaged = true then
        { c with timers := { c.timers with slowRegreeting := some (now + 5000) } }
      else c
  | .claim | .claimGranted | .renew => c

/-- R34, R46, R101: the SENT or DROPPED report of the outstanding request starts what it is timed by. After the first
GRANT nothing is started: the READY wait times the CLAIM (log 18). -/
def State.startTimer (s : State) (l : Line) : State :=
  s.onContract l fun c =>
    match c.exchange with
    | none => c
    | some x =>
        (if x.kind.answerTimed then
            { c with exchange := some { x with timer := some (s.answerDue l), reportedAt := some s.now } }
          else c).noteReport x.kind s.now

/-- Hands the characters of a request, which becomes outstanding (R32); a dropped one is reported at once. -/
def State.sendRequest (s : State) (l : Line) (r : Request) : State :=
  let e := s.engine l
  let s1 := s.onEngine l fun e => e.hand r.chars
  let s2 := s1.onContract l fun c =>
    { c with exchange := some ⟨r.kind, r.tag, r.chars, e.nextId, r.expiries, none, none⟩ }
  if e.accepts then s2 else s2.startTimer l

/-- R32: a waiting request is handed once no request is outstanding. -/
def State.handWaiting (s : State) (l : Line) : State :=
  match (s.contract l).exchange, (s.contract l).waiting with
  | none, some r => (s.onContract l fun c => { c with waiting := none }).sendRequest l r
  | _, _ => s

/-- R32: a waiting request is displaced by a later one. Its exchange treats it as one whose frame is reported DROPPED now:
its answer timer starts (R34, log 12). -/
def State.displace (s : State) (l : Line) (r : Request) : State :=
  s.onContract l fun c =>
    (if r.kind.answerTimed then
        { c with displaced :=
            c.displaced ++ [⟨r.kind, r.tag, r.chars, 0, r.expiries, some (s.answerDue l), some s.now⟩] }
      else c).noteReport r.kind s.now

/-- R32: a request is to wait; one that waits already is displaced. -/
def State.wait (s : State) (l : Line) (r : Request) : State :=
  (match (s.contract l).waiting with
    | some w => s.displace l w
    | none => s).onContract l fun c => { c with waiting := some r }

/-- R32: originates a request, which waits while another is outstanding. -/
def State.originate (s : State) (l : Line) (r : Request) : State :=
  let s1 := s.handWaiting l
  if (s1.contract l).exchange.isNone then s1.sendRequest l r else s1.wait l r

/-- Originates a request with a tag from the counter (R31). -/
def State.originateNew (s : State) (l : Line) (k : ReqKind) (b : FrameBody) : State :=
  let tag := (s.contract l).tagCounter
  (s.stepTag l).originate l ⟨k, tag, (Frame.mk tag b).chars, 0⟩

/-- The outstanding request is closed. -/
def State.closeExchange (s : State) (l : Line) : State := s.onContract l fun c => { c with exchange := none }

/-- R33: the request outstanding has this kind and this tag. -/
def Contract.fits (c : Contract) (k : ReqKind) (tag : Tag) : Bool :=
  match c.exchange with
  | some x => x.kind == k && x.tag == tag
  | none => false

/-- R33, R35: the frame is stray; it is discarded and STRAY_ANSWER is set. -/
def State.stray (s : State) (l : Line) : State := s.onHealth l fun h => { h with strayAnswer := true }

/-! ### Contract states (section 3.2, section 3.11) -/

/-- Section 3.11: the timers that may run in a state. -/
def Timers.keepFor (t : Timers) (st : CState) : Timers where
  greetingDelay := if st = .greeting then t.greetingDelay else none
  greetingRetry := if st = .greeting then t.greetingRetry else none
  slowRegreeting := if st = .baseline then t.slowRegreeting else none
  readyWait := if st = .switching then t.readyWait else none
  backoff := if st = .backoff then t.backoff else none
  renewal := if st = .active then t.renewal else none
  voltageCheck := if st = .switching then t.voltageCheck else none
  slowFrame := if st = .baseline then t.slowFrame else none

/-- Enters a state: what belongs to other states stops or is cleared (section 3.11, R42, R46, R96). -/
def Contract.enter (c : Contract) (st : CState) : Contract :=
  { c with
    state := st
    timers := c.timers.keepFor st
    leaseDeadline := if st = .active then c.leaseDeadline else none
    greetingStopped := c.greetingStopped && decide (st = .greeting)
    unmanaged := c.unmanaged && decide (st = .baseline) }

/-- Enters a state on a line. -/
def State.enter (s : State) (l : Line) (st : CState) : State := s.onContract l fun c => c.enter st

/-- The role of a state (section 3.2); ACTIVE and FAULTED keep the role held. -/
def roleOf (st : CState) (held : Role) : Role :=
  match st with
  | .detached | .greeting | .blocked => .none
  | .faulted | .active => held
  | .awaitMenu | .choosing | .claiming | .backoff | .switching | .baseline => .draw
  | .offering | .deciding | .powering => .supply

/-! ### Path commands (chapter 8) -/

/-- A DRAW command with the reverse watch. -/
def PathCommand.draw (limit : Nat) (bound : Bool) (hold : Option Nat) : PathCommand :=
  ⟨.draw, 0, limit, bound, ⟨true, false, false, false, hold⟩⟩

/-- A SUPPLY command with the overcurrent watch. -/
def PathCommand.supply (voltage limit : Nat) (settle meter : Bool) (hold : Option Nat) : PathCommand :=
  ⟨.supply, voltage, limit, false, ⟨false, true, settle, meter, hold⟩⟩

/-- Section 8.1: the path command of a contract (log 26 for CHOOSING). -/
def Contract.path (c : Contract) : PathCommand :=
  let base := c.options.baseline
  match c.state with
  | .detached | .greeting | .blocked | .faulted => .opened
  | .awaitMenu | .baseline => .draw base false none
  | .choosing | .claiming | .backoff =>
      match c.agreement with
      | some a => .draw a.current true none
      | none => .draw base false none
  | .switching =>
      match c.agreement with
      | some a => .draw (min base a.current) false none
      | none => .draw base false none
  | .active =>
      match c.agreement, c.role with
      | some a, .draw => .draw a.current true (some a.voltage)
      | some a, .supply => .supply a.voltage a.current false true (some a.voltage)
      | _, _ => .opened
  | .offering | .deciding => .supply 250 base false false none
  | .powering =>
      match c.grant with
      | some g => .supply g.voltage g.current true true none
      | none => .opened

/-- R145: the line's cap mode is END_AT_CAP or RECALL_AT_CAP. -/
def Options.capped (o : Options) : Bool := !(o.capMode == .uncapped)

/-- R140: the settle watch runs, and the counter stands at its timeout or beyond. -/
def Channel.settleExpired (ch : Channel) (now : Time) : Bool :=
  match ch.settleStart with
  | some t => reachedAt now (t + 250)
  | none => false

/-- R136: a command reaches its channel. OPEN clears the trip flag; while the flag is set DRAW and SUPPLY are not stored;
a command equal to the one in force changes nothing. R146: a POWERING command stored on a capped line whose running
allowance is 0 reports the cap event. A fault report that a trip has left pending stays pending (R144, log 9). -/
def Channel.take (ch : Channel) (cmd : PathCommand) (now : Time) (capped : Bool) : Channel :=
  let tripped := ch.tripped && !(cmd.form == .opened)
  if tripped = true ∨ cmd = ch.command then { ch with tripped := tripped }
  else
    { ch with
      command := cmd
      tripped := tripped
      overcurrentRun := 0
      reverseRun := 0
      deviationRun := 0
      settleRun := 0
      settleStart := if cmd.watch.settle then some now else none
      settleReport := if cmd.watch.settle then none else ch.settleReport
      capReport := ch.capReport || (cmd.watch.settle && capped && ch.allowance == 0) }

/-- Commands the line's path channel. -/
def State.command (s : State) (l : Line) (cmd : PathCommand) : State :=
  s.onChannel l fun ch => ch.take cmd s.now (s.contract l).options.capped

/-- R135, R137: what the channel drives; the outputs of OPEN while the trip flag is set. -/
def Channel.output (ch : Channel) : PathOutput :=
  if ch.tripped then ⟨false, 0, 0⟩
  else
    match ch.command.form with
    | .opened => ⟨false, 0, 0⟩
    | .supply => ⟨true, ch.command.voltage, ch.command.limit⟩
    | .draw =>
        match ch.command.bound, ch.allocation with
        | true, some a => ⟨true, 0, min ch.command.limit a⟩
        | _, _ => ⟨true, 0, ch.command.limit⟩

/-- R43: the end of an event of the contract engine sets the role of the state and commands its path. -/
def State.endEvent (s : State) (l : Line) : State :=
  let s1 := s.onContract l fun c => { c with role := roleOf c.state c.role }
  s1.command l (s1.contract l).path

/-! ### Rule queries (chapter 6) -/

/-- R110, R111: the entry is enabled and meets every condition of the query. -/
def RuleEntry.meets (e : RuleEntry) (q : Query) (batteryLow : Bool) : Bool :=
  e.enabled && e.lines.getLsbD q.line.index && e.kinds.getLsbD q.kind.code &&
  (!e.hasClass || (match q.cls with
    | some k => e.classes.getLsbD k.code
    | none => false)) &&
  (!e.hasIdentity || (match q.identity with
    | some i => (i &&& e.mask) == (e.identity &&& e.mask)
    | none => false)) &&
  (!e.hasVoltage || (!(q.kind == .announce) && decide (e.vMin ≤ q.vLow) && decide (q.vHigh ≤ e.vMax))) &&
  (!e.hasPower || (!(q.kind == .announce) && decide (e.pMin ≤ q.power) && decide (q.power ≤ e.pMax))) &&
  (!e.hasStance || (batteryLow == (e.stance == 1)))

/-- R109: the first entry in index order that is enabled and meets the query. -/
def winner (rules : Vector RuleEntry 32) (q : Query) (batteryLow : Bool) : Option (Fin 32) :=
  (List.finRange 32).find? fun i => (rules.get i).meets q batteryLow

/-- R112: steps a hit count, which stops at 65535. -/
def RuleEntry.hit (e : RuleEntry) : RuleEntry := { e with hits := min 65535 (e.hits + 1) }

/-- R109: the table's answer; AUTO when no entry wins. -/
def State.answerOf (s : State) (q : Query) : Answer :=
  match winner s.rules q s.link.batteryLow with
  | none => ⟨.auto, 0, .auto, 0⟩
  | some i => ⟨(s.rules.get i).action, i.val, (s.rules.get i).fallback, (s.rules.get i).clamp⟩

/-- R112, R118: what a query leaves behind: the winner's count stepped, and a REPORT when it reports and does not
forward. -/
def State.afterQuery (s : State) (q : Query) : State :=
  match winner s.rules q s.link.batteryLow with
  | none => s
  | some i =>
      let e := s.rules.get i
      let s1 := { s with rules := s.rules.set i.val e.hit i.isLt }
      if e.report = true ∧ e.action ≠ .forward then
        s1.raise (.line q.line) (.report i.val e.action q.kind q.vLow q.vHigh q.power q.point)
      else s1

/-- R108: the far class and far identity of the record. -/
def Contract.queryBase (c : Contract) (l : Line) (k : QueryKind) : Query where
  line := l
  kind := k
  cls := c.far.map FarFields.cls
  identity := c.far.map FarFields.identity
  vLow := 0
  vHigh := 0
  power := 0
  point := 0

/-- R162, R163: opens a verdict entry for the line and queues its RELAY. An entry of the line that still stood leaves first,
so the queue holds at most one entry per line. -/
def State.openVerdict (s : State) (l : Line) (k : QueryKind) (a : Answer) (relays : List (List Byte)) : State :=
  s.onLink fun u =>
    { u with
      verdicts := (u.verdicts.filter fun v => !(v.line == l)) ++
        [⟨u.verdictTag, l, k, a.rule, a.fallback, a.clamp, s.after 20, relays⟩]
      verdictTag := u.verdictTag + 1 }

/-! ### Responses (R159, R160) -/

/-- Queues a RESPONSE. -/
def State.respond (s : State) (r : Response) : State := s.onLink fun u => { u with responses := u.responses ++ [r] }

/-- R176: the mode ends. -/
def LinkUnit.endAutonomous (u : LinkUnit) : LinkUnit :=
  match u.mode with
  | .running => u
  | .autonomous => { u with mode := .running, wakeSet := 0, wake := false }

end Sys2Proof.Machine
end

