-- ==== Sys2Proof/Machine/Budget.lean ====
section
/-! DEFINITION. The budget unit (chapter 7): claims, the grant order list, allocations, the rise of the supply headroom with
the offered menus it rebuilds (section 5.2), recalls given to supplying lines (section 5.7) and the recall walk. -/

namespace Sys2Proof.Machine

/-! ### Headroom and allocations -/

/-- R125: stores the fields, recomputes sums and headrooms, and raises BUDGET when an over flag passes to set. -/
def State.setBudget (s : State) (b : Budget) : State :=
  let b' := b.resum
  let s' := { s with budget := b' }
  if (b'.drawOver && !b.drawOver) || (b'.supplyOver && !b.supplyOver) then s'.raise .part b'.notice else s'

/-- R128 steps 1 and 2: a line's floor, with its baseline current. -/
def DrawCopy.floor (c : DrawCopy) (base : Nat) : Nat := min (power c.voltage c.current) (power c.voltage base)

/-- R128 steps 4 and 5, down the rank with the remainder left. -/
def Budget.share (b : Budget) (base : Line → Nat) : List Line → Nat → Four (Option Allocation)
  | [], _ => .all none
  | l :: ls, r =>
      match b.drawCopy.get l with
      | none => b.share base ls r
      | some c =>
          let f := c.floor (base l)
          let x := min (power c.voltage c.current - f) r
          (b.share base ls (r - x)).set l (some ⟨f + x, current (f + x) c.voltage⟩)

/-- R128 step 3: the sum of the floors. -/
def Budget.floors (b : Budget) (base : Line → Nat) : Nat :=
  (Line.everyLine.map fun l => ((b.drawCopy.get l).map fun c => c.floor (base l)).getD 0).sum

/-- R128, R129, R137: recomputes every allocation and hands each to its channel. -/
def State.reallocate (s : State) : State :=
  let base := fun l => (s.contract l).options.baseline
  let alloc := s.budget.share base s.budget.rank (s.budget.inputCeiling - s.budget.floors base)
  let give := fun (l : Line) => { s.channel l with allocation := (alloc.get l).map Allocation.current }
  { s with
    budget := { s.budget with alloc := alloc }
    channels := ⟨give .l0, give .l1, give .l2, give .l3⟩ }

/-! ### Offered menus (section 5.2) -/

/-- R86: a drawing line's commitment. -/
def Contract.drawCommitment (c : Contract) : Nat :=
  max ((c.agreement.map fun a => power a.voltage a.current).getD 0)
    ((c.claim.map fun k => power k.fields.voltage k.fields.claimed).getD 0)

/-- R105: a supplying line's commitment. -/
def Contract.supplyCommitment (c : Contract) : Nat :=
  max ((c.agreement.map fun a => power a.voltage a.current).getD 0)
    ((c.grant.map fun g => power g.voltage g.current).getD 0)

/-- R89, R93: the supply headroom plus the line's own supply commitment, capped at the line clamp. -/
def State.supplyRoom (s : State) (l : Line) : Nat :=
  capBy (s.budget.supplyHeadroom + s.budget.supplyCommit.get l) (s.contract l).lineClamp

/-- R89: the point of a list entry under a room H, unless it is disabled or omitted. -/
def SupplyEntry.offer (e : SupplyEntry) (room : Nat) : Option Point :=
  if e.enabled then
    match e.point.kind with
    | .fixed =>
        let lim := min e.point.limit (current room e.point.v1)
        if lim < 4 then none else some { e.point with limit := lim }
    | .window =>
        let lim := min e.point.limit room
        if lim < 5 then none else some { e.point with limit := lim }
  else none

/-- R90: builds the offered menu; sends it, or holds it when no point remains. -/
def State.rebuildMenu (s : State) (l : Line) : State :=
  let pts := s.menu.toList.filterMap fun e => e.offer (s.supplyRoom l)
  if pts.isEmpty then s.onContract l fun c => { c with offered := some ⟨[], true⟩ }
  else (s.handNew l (.menu true pts)).onContract l fun c => { c with offered := some ⟨pts, false⟩ }

/-- R91, R127: the line's contract is in OFFERING, its menu held and its paused flag clear. -/
def Contract.awaitsRise (c : Contract) : Bool :=
  c.state == .offering && !c.paused && (match c.offered with
    | some m => m.held
    | none => false)

/-- R91, R127: rebuilds the held menus, in line rank order. -/
def State.reoffer (s : State) : State :=
  s.budget.rank.foldl (fun t l => if (t.contract l).awaitsRise then t.rebuildMenu l else t) s

/-- R127: passes on a rise of the supply headroom above what it was. -/
def State.passRise (s : State) (before : Nat) : State :=
  if before < s.budget.supplyHeadroom then s.reoffer else s

/-! ### Claims (R123, R126) -/

/-- R123: a draw-side reserve or adjust of the line's contract, or a release when it holds neither agreement nor claim. -/
def State.claimDraw (s : State) (l : Line) : State :=
  let c := s.contract l
  (s.setBudget { s.budget with
    drawCommit := s.budget.drawCommit.set l c.drawCommitment
    drawCopy := s.budget.drawCopy.set l (c.agreement.map fun a => ⟨a.voltage, a.current⟩) }).reallocate

/-- R126: the line's entry is updated in place, or joins at the newest end. -/
def putGrant (e : GrantEntry) : List GrantEntry → List GrantEntry
  | [] => [e]
  | g :: gs => if g.line = e.line then e :: gs else g :: putGrant e gs

/-- R123: the recall voltage: of the grant being powered while one is present, of the agreement otherwise. -/
def Contract.recallVoltage (c : Contract) : Nat :=
  match c.grant with
  | some g => g.voltage
  | none => (c.agreement.map Agreement.voltage).getD 0

/-- R123: a supply-side reserve or adjust of the line's contract, and the rise it may leave (R127). -/
def State.claimSupply (s : State) (l : Line) : State :=
  let c := s.contract l
  (s.setBudget { s.budget with
    supplyCommit := s.budget.supplyCommit.set l c.supplyCommitment
    order := putGrant ⟨l, c.supplyCommitment, c.recallVoltage⟩ s.budget.order }).passRise s.budget.supplyHeadroom

/-- R123: a release naming both sides. -/
def State.releaseBoth (s : State) (l : Line) : State :=
  ((s.setBudget { s.budget with
    drawCommit := s.budget.drawCommit.set l 0
    drawCopy := s.budget.drawCopy.set l none
    supplyCommit := s.budget.supplyCommit.set l 0
    order := s.budget.order.filter fun g => !(g.line == l) }).reallocate).passRise s.budget.supplyHeadroom

/-! ### Recall causes (R100, R101) -/

/-- R101: a RECALL is sent and recorded as outstanding. -/
def State.sendRecall (s : State) (l : Line) (level : Nat) (cause : RecallCause) : State :=
  (s.onContract l fun c => { c with recallOut := some ⟨level, none, cause⟩ }).originateNew l .recall (.recall level 10)

/-- R100: the pending recall target keeps a level not above the new one. -/
def mergeTarget (t : Option RecallTarget) (level : Nat) (cause : RecallCause) : RecallTarget :=
  match t with
  | some old => if old.level ≤ level then old else ⟨level, cause⟩
  | none => ⟨level, cause⟩

/-- R100: a recall cause reaches the contract engine. -/
def State.recallCause (s : State) (l : Line) (asked : Nat) (cause : RecallCause) : State :=
  let c := s.contract l
  let level := max asked c.options.baseline
  let wait := s.onContract l fun c => { c with target := some (mergeTarget c.target level cause) }
  if c.state = .powering then wait
  else if c.state = .active ∧ c.role = .supply then
    if c.recallOut.isSome then wait
    else
      match c.agreement with
      | some a => if level < a.current then s.sendRecall l level cause else s
      | none => s
  else s

/-- R100: a pending recall target is taken up. -/
def State.takeTarget (s : State) (l : Line) : State :=
  let c := s.contract l
  match c.target with
  | none => s
  | some t =>
      let s1 := s.onContract l fun c => { c with target := none }
      match c.agreement with
      | some a => if c.state = .active ∧ t.level < a.current then s1.sendRecall l t.level t.cause else s1
      | none => s1

/-- R131: the walk from the newest entry, while the excess is above 0. -/
def State.recallWalk (s : State) : List GrantEntry → Nat → State
  | [], _ => s
  | g :: gs, excess =>
      if excess = 0 then s
      else
        let b := (s.contract g.line).options.baseline
        let level := max (if excess < g.commitment then current (g.commitment - excess) g.recallVoltage else 0) b
        let cut := g.commitment - power g.recallVoltage level
        State.recallWalk (if 0 < cut then s.recallCause g.line level .budget else s) gs (excess - cut)

end Sys2Proof.Machine
end

