-- ==== Sys2Proof/Machine/Contract.lean ====
section
/-! DEFINITION. The contract life cycle common to both roles (chapter 3) with the fault unit's taking of a fault (chapter 9):
closings, endings, FAULTED, the greeting and superseding. -/

namespace Sys2Proof.Machine

/-! ### Closings (R52) -/

/-- R32, R37, R52: every request of the device and the pending decision are closed. -/
def Contract.dropRequests (c : Contract) : Contract :=
  { c with exchange := none, waiting := none, displaced := [], decision := none }

/-- R52, Requests and Record; section 3.11: the timers stop at every closing. -/
def Contract.close (c : Contract) : Contract :=
  { c.dropRequests with
    agreement := none
    claim := none
    grant := none
    recallOut := none
    target := none
    leaseDeadline := none
    cursor := ⟨0, 0⟩
    waitStreak := 0
    offered := none
    farMenu := none
    deferred := false
    timers := .stopped }

/-- Enters GREETING with count 0; the greeting delay runs to the value given, or is stopped with the greeting (R44, R46,
R48, R52). -/
def Contract.greet (c : Contract) (delay : Option Time) : Contract :=
  { c.enter .greeting with
    role := .none
    greetingCount := 0
    greetingStopped := delay.isNone
    timers := { Timers.stopped with greetingDelay := delay } }

/-- Enters BLOCKED. -/
def Contract.block (c : Contract) : Contract := { c.enter .blocked with role := .none }

/-- R52: a closing whose record change is given: requests, record, budget, energy meter, state, notice. -/
def State.closing (s : State) (l : Line) (change : Contract → Contract) : State :=
  let held := (s.contract l).role
  let s1 := (((s.dropVerdict l).onContract l change).releaseBoth l).onChannel l fun ch => { ch with energy := 0 }
  if held = .none then s1
  else s1.raise (.line l) (.ended held (s1.contract l).state (s1.contract l).lastOutcome)

/-- A closing that re-greets, with the greeting delay started; the outcome given is recorded, or left as it stands. -/
def State.closeToGreeting (s : State) (l : Line) (o : Option Outcome) : State :=
  s.closing l fun c => { c.close.greet (some (s.after 50)) with lastOutcome := o.or c.lastOutcome }

/-- A closing that ends in BLOCKED with an outcome. -/
def State.closeToBlocked (s : State) (l : Line) (o : Outcome) : State :=
  s.closing l fun c => { c.close.block with lastOutcome := some o }

/-- R53: ends the contract with an ENDING and re-greets. -/
def State.endToGreeting (s : State) (l : Line) (r : EndReason) (o : Outcome) : State :=
  (s.handNew l (.ending r)).closeToGreeting l (some o)

/-- R53: ends the contract with an ENDING and blocks it. -/
def State.endToBlocked (s : State) (l : Line) (r : EndReason) (o : Outcome) : State :=
  (s.handNew l (.ending r)).closeToBlocked l o

/-- R46: what the closing of its requests leaves of an unmanaged BASELINE's slow re-greeting: the interval that runs, or
the one an ANNOUNCE starts at its report (log 15). -/
def Contract.slowTimers (c : Contract) : Timers :=
  let kept := { Timers.stopped with slowRegreeting := c.timers.slowRegreeting, slowFrame := c.timers.slowFrame }
  match c.timers.slowRegreeting, c.exchange with
  | none, some x =>
      match x.kind, x.reportedAt with
      | .announce, some t => { Timers.stopped with slowRegreeting := some (t + 5000) }
      | .announce, none => { Timers.stopped with slowFrame := some x.frameId }
      | _, _ => kept
  | _, _ => kept

/-- R52, R53, R72: ends the line with NO_SUITABLE_POINT: the far menu and the role are kept and BASELINE entered. A line
that stays in an unmanaged BASELINE keeps its slow re-greeting (log 15). -/
def State.noSuitablePoint (s : State) (l : Line) : State :=
  (s.handNew l (.ending .noSuitablePoint)).closing l fun c =>
    { c.close.enter .baseline with
      farMenu := c.farMenu
      role := .draw
      lastOutcome := some .noSuitablePoint
      timers := if c.state = .baseline ∧ c.unmanaged = true then c.slowTimers else .stopped
      unmanaged := c.unmanaged && decide (c.state = .baseline) }

/-! ### Faults (R57, R148 to R152) -/

/-- R57: FAULTED entry, from every state but DETACHED and FAULTED. -/
def State.enterFaulted (s : State) (l : Line) : State :=
  let st := (s.contract l).state
  if st = .detached ∨ st = .faulted then s
  else
    let s1 := s.command l .opened
    let s2 := if (s1.engine l).canSend then s1.handNew l (.ending .fault) else s1
    s2.closing l fun c => c.close.enter .faulted

/-- R150: the record after a fault, and whether the FAULT notice is raised. -/
def Capture.take (c : Capture) (cause : Cause) (st : CState) (kind : Option FrameKind) (now : Time) : Capture × Bool :=
  if c.held then
    let n := min 255 (c.count + 1)
    if cause.cls.code < ((c.cause.map fun x => x.cls.code).getD 0) then (⟨true, some cause, st, kind, now, true, n⟩, true)
    else ({ c with overlap := true, count := n }, false)
  else (⟨true, some cause, st, kind, now, false, 0⟩, true)

/-- R150: the capture step, with its notice; the fault is stamped with the time it comes with. -/
def State.capture (s : State) (l : Line) (cause : Cause) (kind : Option FrameKind) (stamp : Time) : State :=
  let r := (s.captures.get l).take cause (s.contract l).state kind stamp
  let s1 := { s with captures := s.captures.set l r.1 }
  if r.2 then s1.raise (.line l) (.fault r.1) else s1

/-- R152: a LINK fault steps the strike count; the fourth strike sends the contract to FAULTED. -/
def State.strike (s : State) (l : Line) : State :=
  let n := min 255 (s.strikes.get l + 1)
  let s1 := { s with strikes := s.strikes.set l n }
  if s.strikes.get l + 1 = 4 then s1.enterFaulted l else s1

/-- R150, R151: the fault unit takes a fault that happened at a given time. -/
def State.takeFaultOf (s : State) (l : Line) (cause : Cause) (kind : Option FrameKind) (stamp : Time) : State :=
  let s1 := s.capture l cause kind stamp
  match cause.cls with
  | .severe => s1.enterFaulted l
  | .link => s1.strike l
  | .protocol => s1

/-- R150, R151: the fault unit takes a fault that happens now. -/
def State.takeFault (s : State) (l : Line) (cause : Cause) (kind : Option FrameKind) : State := s.takeFaultOf l cause kind s.now

/-! ### The greeting (R44 to R50) -/

/-- R45: the class of every ANNOUNCE the device sends. -/
def announceClass (r : RoleSet) (supplyCeiling : Nat) : FarClass :=
  match r.draw, r.supply with
  | true, true => if supplyCeiling = 0 then .consumer else .both
  | true, false => .consumer
  | false, true => .supplier
  | false, false => .none

/-- R24: an ANNOUNCE of the device. -/
def State.announce (s : State) (l : Line) (answer : Bool) : FrameBody :=
  .announce (announceClass (s.contract l).options.roles s.budget.supplyCeiling) true answer
    (BitVec.ofNat 32 (Config.familyCode * 65536 + Config.revision)) 1

/-- R45: an initiating ANNOUNCE becomes the outstanding request; its tag is 1 and the counter is left (R31). -/
def State.sendAnnounce (s : State) (l : Line) : State :=
  s.originate l ⟨.announce, 1, (Frame.mk 1 (s.announce l false)).chars, 0⟩

/-- R50: the role decision. -/
def State.decideRole (s : State) (l : Line) : State :=
  let c := s.contract l
  let cls := (c.far.map FarFields.cls).getD .none
  if (cls = .supplier ∨ cls = .both) ∧ c.options.roles.draw = true then
    s.onContract l fun c => { c.enter .awaitMenu with role := .draw, cursor := ⟨0, 0⟩, waitStreak := 0 }
  else if (cls = .consumer ∨ cls = .both) ∧ c.options.roles.supply = true then
    (s.onContract l fun c => { c.enter .offering with role := .supply, cursor := ⟨0, 0⟩, waitStreak := 0 }).rebuildMenu l
  else s.endToBlocked l .role .noRole

/-- R49 step 3: an action applied to a far ANNOUNCE; also a verdict's or a fallback's (R117). -/
def State.applyAnnounce (s : State) (l : Line) (answering : Bool) (a : Action) (clamp : Nat) : State :=
  let accept := fun (t : State) =>
    (if answering then t else t.hand l ⟨1, t.announce l true⟩).decideRole l
  match a with
  | .auto => accept s
  | .clamp => accept (s.onContract l fun c => { c with lineClamp := some clamp })
  | .refuse => s.endToBlocked l .refused .refused
  | .wait | .forward => s

/-- R37: the decision slot takes a far request. -/
def State.holdDecision (s : State) (l : Line) (what : Forwarded) (tag : Tag) (began : CState) : State :=
  s.onContract l fun c => { c with decision := some ⟨what, tag, s.now, began⟩ }

/-- R49: processes a far ANNOUNCE in GREETING; `raw` is its header, length and body. -/
def State.processAnnounce (s : State) (l : Line) (answering : Bool) (far : FarFields) (canRecall : Bool) (raw : List Byte) :
    State :=
  let s1 := s.onContract l fun c => { c with far := some far, farRecall := some canRecall, lineClamp := none }
  let q := (s1.contract l).queryBase l .announce
  let a := s1.answerOf q
  let s2 := s1.afterQuery q
  match a.action with
  | .forward =>
      match s2.link.mode with
      | .running =>
          let r := fun (t : State) => relayPart1 t.link.verdictTag a.rule (t.contract l) raw
          (s2.holdDecision l (.announce answering) 1 .greeting).openVerdict l .announce a [r s2]
      | .autonomous => s2.applyAnnounce l answering a.fallback a.clamp
  | act => s2.applyAnnounce l answering act a.clamp

/-- R48: a far-end restart closes the contract without an ENDING and without the greeting delay. -/
def State.farRestart (s : State) (l : Line) : State :=
  s.closing l fun c =>
    { c.close.greet none with lastOutcome := if c.role = .none then c.lastOutcome else some .endedByFar }

/-- R37: a newer far request supersedes the one being decided; the contract returns to the state the decision began in,
which, where that is ACTIVE, is an entry to ACTIVE: the line renews one lease interval from now (R81), and is paused when
hold-after-active is on (R59). What R80 and R98 do at their entries beside this is not done here: the link strikes are kept
(R152), and no AGREED notice is raised (R167, section 10.5). Both are the model's choice, log 36. -/
def State.supersede (s : State) (l : Line) : State :=
  match (s.contract l).decision with
  | none => s
  | some d =>
      (s.dropVerdict l).onContract l fun c =>
        let c1 := { c.enter d.began with
          decision := none, lastOutcome := some .superseded }
        if c.state ≠ .active ∧ d.began = .active then
          { c1 with
            paused := c.paused || c.options.holdAfterActive
            timers := { c1.timers with renewal := c.agreement.map fun a => s.after (500 * a.lease) } }
        else c1

end Sys2Proof.Machine
end

