-- ==== Sys2Proof/Machine/Requests.lean ====
section
/-! DEFINITION. Taking a REQUEST or a VERDICT (R158 to R160, R176, R178), and the requests that the filtering of a
MENU may find between two of its queries: TABLE_PUT, TABLE_GET and STANCE_SET (R40, R109, R121). -/

namespace Sys2Proof.Machine

/-- What the block that owns a request answers: the state after it, the result, and the data of an OK. -/
structure Reply where
  state : State
  result : Result
  data : List Byte

/-- A request that changes nothing further and is answered with a result and no data. -/
def State.answer (s : State) (r : Result) : Reply := ⟨s, r, []⟩

/-- R158 to R160, R178: a REQUEST or VERDICT completes, and the receiver compares the check computed over `raw` with the one
received. A frame whose check differs is malformed, and one that finds the response queue full is dropped, each with the link
error flag. Any other ends AUTONOMOUS mode, acts, and its one RESPONSE is queued. The receiver must be RECEIVING (log 22). -/
def State.taken (s : State) (raw : List Byte) (check : Byte) (addr : Addr) (num code : Byte) (act : State → Reply) : State :=
  if s.link.receiver = .receiving then
    let s1 := s.onLink fun u => { u with receiver := .idle }
    if crc raw ≠ check ∨ 4 ≤ s1.link.responses.length then s1.onLink fun u => { u with linkError := true }
    else
      let rep := act (s1.onLink LinkUnit.endAutonomous)
      rep.state.respond ⟨addr, num, code, rep.result, rep.data⟩
  else s

/-- R159: a REQUEST of a code. -/
def State.request (s : State) (code : Byte) (r : Req) (act : State → Reply) : State :=
  s.taken (requestRaw r.addr r.num code r.args) r.check r.addr r.num code act

/-- R159 steps 3 and 4: a request addressed to the device, with its argument length. -/
def deviceReply (len : Nat) (r : Req) (act : State → Reply) (t : State) : Reply :=
  match r.addr with
  | .device => if r.args.length = len then act t else t.answer .badRequest
  | .line _ => t.answer .badRequest

/-- R159 steps 3 and 4: a request addressed to a line, with its argument length. -/
def lineReply (len : Nat) (r : Req) (act : Line → State → Reply) (t : State) : Reply :=
  match r.addr with
  | .line l => if r.args.length = len then act l t else t.answer .badRequest
  | .device => t.answer .badRequest

/-- R159: a request of the device. -/
def State.deviceRequest (s : State) (code : Byte) (len : Nat) (r : Req) (act : State → Reply) : StepOutcome :=
  .next (s.request code r (deviceReply len r act))

/-- R159: a request of a line. -/
def State.lineRequest (s : State) (code : Byte) (len : Nat) (r : Req) (act : Line → State → Reply) : StepOutcome :=
  .next (s.request code r (lineReply len r act))

/-- R63, R159: a LINE_CTRL action, whose character stands before the other two (log 24). -/
def State.lineControl (s : State) (action : Byte) (r : Req) (act : Line → State → Reply) : StepOutcome :=
  .next (s.taken (requestRaw r.addr r.num 0x31 (action :: r.args)) r.check r.addr r.num 0x31 (lineReply 2 r act))

/-- R119, R120: the rule table takes an entry. -/
def putEntry (args : List Byte) (t : State) : Reply :=
  match args with
  | i :: e =>
      if h : i.toNat < 32 then
        match parseRule e with
        | some entry => State.answer { t with rules := t.rules.set i.toNat entry h } .ok
        | none => t.answer .badEntry
      else t.answer .badIndex
  | [] => t.answer .badRequest

/-- R119, R159: a TABLE_PUT. -/
def State.tablePut (s : State) (r : Req) : State := s.request 0x10 r (deviceReply 25 r (putEntry r.args))

/-- R121: the rule table shows an entry and its hit count; bit 0 of the second character is the zero option. -/
def getEntry (args : List Byte) (t : State) : Reply :=
  match args with
  | [i, z] =>
      if h : i.toNat < 32 then
        let e := t.rules[i.toNat]
        ⟨if z.getLsbD 0 then { t with rules := t.rules.set i.toNat { e with hits := 0 } h } else t, .ok,
          e.chars ++ be16 e.hits⟩
      else t.answer .badIndex
  | _ => t.answer .badRequest

/-- R121, R159: a TABLE_GET. -/
def State.tableGet (s : State) (r : Req) : State := s.request 0x11 r (deviceReply 2 r (getEntry r.args))

/-- R40: the programmed value and its mode; a mode that is neither automatic nor manual is refused (log 27). -/
def setStance (args : List Byte) (t : State) : Reply :=
  match args with
  | [m, a, b] =>
      if m.toNat ≤ 1 then (t.onLink fun u => { u with stance := a ++ b, manualStance := m == 1 }).answer .ok
      else t.answer .badEntry
  | _ => t.answer .badRequest

/-- R40, R159: a STANCE_SET. -/
def State.stanceSet (s : State) (r : Req) : State := s.request 0x04 r (deviceReply 3 r (setStance r.args))

/-- R109: the request that falls between two queries of a line's filtering, at the query of a point (log 29). -/
def State.midRequest (s : State) (mid : Option MidRequest) (l : Line) (point : Nat) : State :=
  match mid with
  | some m =>
      if m.line = l ∧ m.point = point then
        match m.kind with
        | .tablePut => s.tablePut m.req
        | .tableGet => s.tableGet m.req
        | .stanceSet => s.stanceSet m.req
      else s
  | none => s

end Sys2Proof.Machine
end

