-- ==== Sys2Proof/Machine/Draw.lean ====
section
/-! DEFINITION. The draw role (chapter 4): filtering, selection, claims, the entry to ACTIVE. -/

namespace Sys2Proof.Machine

/-! ### Filtering (R67 to R69) -/

/-- Section 4.1: a point's raw capacity. -/
def Point.rawCapacity (p : Point) : Nat :=
  match p.kind with
  | .fixed => power p.v1 p.limit
  | .window => p.limit

/-- R67, R69: a point marked by an action, its capacity capped at the clamp (for CLAMP) and at the line clamp. -/
def Point.mark (p : Point) (a : Action) (clamp : Nat) (lineClamp : Option Nat) : FarPoint :=
  match a with
  | .auto => ⟨p, .survives, capBy p.rawCapacity lineClamp⟩
  | .clamp => ⟨p, .survives, capBy (min p.rawCapacity clamp) lineClamp⟩
  | .refuse | .wait | .forward => ⟨p, .struck, 0⟩

/-- R108: the query of a point. -/
def Contract.pointQuery (c : Contract) (l : Line) (p : Point) (i : Nat) : Query :=
  { c.queryBase l .menuPoint with vLow := p.v1, vHigh := p.v2, power := p.rawCapacity, point := i }

/-- R67, R68: queries the points in menu order and marks them, up to the first FORWARD; gives the marked points and that
FORWARD's answer. Each query is an event of its own at the table: a request may come between two of them (R109, log 29). The
point answered FORWARD stays UNQUERIED as those after it do, and so survives a CHOOSE and reads UNQUERIED in the RELAY: R68
states the marks of the points before and after it only, so this is the model's choice, log 38. -/
def State.filter (l : Line) (mid : Option MidRequest) : State → Nat → List FarPoint → State × List FarPoint × Option Answer
  | s, _, [] => (s, [], none)
  | s, i, p :: ps =>
      let s0 := s.midRequest mid l i
      let c := s0.contract l
      let q := c.pointQuery l p.point i
      let a := s0.answerOf q
      let s1 := s0.afterQuery q
      match a.action with
      | .forward => (s1, p :: ps, some a)
      | act =>
          let r := State.filter l mid s1 (i + 1) ps
          (r.1, p.point.mark act a.clamp c.lineClamp :: r.2.1, r.2.2)

/-! ### Selection (R71, R72) -/

/-- R71: the chosen voltage when the point suits the preference. -/
def Preference.suits (pr : Preference) (p : Point) : Option Nat :=
  match p.kind with
  | .fixed => if pr.vMin ≤ p.v1 ∧ p.v1 ≤ pr.vMax then some p.v1 else none
  | .window => if p.v1 ≤ pr.vMax ∧ pr.vMin ≤ p.v2 then some (min p.v2 pr.vMax) else none

/-- R71: the claim of a point under a preference with a claim power, when its conditions hold. -/
def Preference.claim (pr : Preference) (p : Point) (i claimPower : Nat) : Option ClaimFields :=
  match pr.suits p with
  | none => none
  | some v =>
      let claimed := min 320 (current claimPower v)
      let least := min 320 (max 1 (current pr.least v))
      if pr.least ≤ claimPower ∧ 1 ≤ claimed ∧ least ≤ claimed then some ⟨i, v, claimed, least⟩ else none

/-- R71: the draw headroom plus the line's own draw commitment. -/
def State.drawRoom (s : State) (l : Line) : Nat := s.budget.drawHeadroom + (s.contract l).drawCommitment

/-- R71: the claim of the candidate at a cursor, if it can be claimed. A point still UNQUERIED, which a CHOOSE may have
claimed (R69), is no candidate when a backoff ends (R76 leaves that open; log 31). -/
def State.candidate (s : State) (l : Line) (k : Cursor) : Option ClaimFields :=
  match s.prefs.toList[k.pref]?, ((s.contract l).farMenu.bind fun m => m.points[k.point]?) with
  | some pr, some fp =>
      if pr.enabled = true ∧ fp.mark = .survives then
        pr.claim fp.point k.point (min pr.wanted (min fp.capacity (s.drawRoom l)))
      else none
  | _, _ => none

/-- R72: the cursors from a given one on, in the order they are tried. -/
def cursorsFrom (k : Cursor) (points : Nat) : List Cursor :=
  ((List.range 8).flatMap fun i => (List.range points).map fun j => ⟨i, j⟩).filter fun c =>
    decide (k.pref < c.pref) || (c.pref == k.pref && decide (k.point ≤ c.point))

/-- R73: a candidate is claimed. -/
def State.sendClaim (s : State) (l : Line) (k : Cursor) (f : ClaimFields) : State :=
  let tag := (s.contract l).tagCounter
  let s1 := s.onContract l fun c => { c.enter .claiming with cursor := k, claim := some ⟨f, tag⟩ }
  (s1.claimDraw l).originateNew l .claim (.claim f)

/-- R71, R72: selection from a cursor: the first candidate that can be claimed, or NO_SUITABLE_POINT. -/
def State.select (s : State) (l : Line) (k : Cursor) : State :=
  let n := (((s.contract l).farMenu.map fun m => m.points.length).getD 0)
  match (cursorsFrom k n).findSome? fun c => (s.candidate l c).map fun f => (c, f) with
  | some (c, f) => s.sendClaim l c f
  | none => s.noSuitablePoint l

/-- R72: the cursor moves forward and selection goes on. -/
def State.advance (s : State) (l : Line) : State :=
  let k := (s.contract l).cursor
  s.select l ⟨k.pref, k.point + 1⟩

/-- R69: an action applied to every point of the far menu; selection follows. -/
def State.applyMenu (s : State) (l : Line) (a : Action) (clamp : Nat) : State :=
  (s.onContract l fun c =>
    { c with farMenu := c.farMenu.map fun m =>
        { m with points := m.points.map fun p => p.point.mark a clamp c.lineClamp } }).select l ⟨0, 0⟩

/-- The tag of a frame's header character. -/
def tagOf (raw : List Byte) : Tag :=
  match raw with
  | h :: _ => h.extractLsb' 5 3
  | [] => 0

/-- R66, R72, R84: the processing of the far menu begins: cursor and wait streak at their start, no point marked. -/
def Contract.beginMenu (c : Contract) : Contract :=
  { c with
    cursor := ⟨0, 0⟩
    waitStreak := 0
    deferred := false
    farMenu := c.farMenu.map fun m => { m with points := m.points.map fun p => ⟨p.point, .unqueried, 0⟩ } }

/-- R66, R67, R68, R84: processes the stored far menu from the start: filtering, then selection, or the choice forwarded
(RUNNING), or its fallback (AUTONOMOUS). -/
def State.processMenu (s : State) (l : Line) (mid : Option MidRequest) : State :=
  let s1 := s.onContract l Contract.beginMenu
  match (s1.contract l).farMenu with
  | none => s1
  | some m =>
      let r := State.filter l mid s1 0 m.points
      let s2 := r.1.onContract l fun c => { c with farMenu := some { m with points := r.2.1 } }
      match r.2.2 with
      | none => s2.select l ⟨0, 0⟩
      | some a =>
          match s2.link.mode with
          | .autonomous => s2.applyMenu l a.fallback a.clamp
          | .running =>
              let c := s2.contract l
              let tag := s2.link.verdictTag
              ((s2.holdDecision l .menu (tagOf m.raw) c.state).openVerdict l .menuPoint a
                [relayPart1 tag a.rule c m.raw, relayPart2 tag r.2.1]).enter l .choosing

/-- R84: re-selection, on a drawing line whose far menu is present and whose paused flag is clear. -/
def State.reselect (s : State) (l : Line) (mid : Option MidRequest) : State :=
  let c := s.contract l
  if c.role = .draw ∧ c.farMenu.isSome = true ∧ c.paused = false then s.processMenu l mid else s

/-- R75, R76, R66: the outstanding claim becomes absent and the reservation is returned. -/
def State.dropClaim (s : State) (l : Line) : State :=
  (s.onContract l fun c => { c with claim := none }).claimDraw l

/-- R66: MENU intake in CLAIMING abandons the outstanding claim, waiting or handed. -/
def State.abandonClaim (s : State) (l : Line) : State :=
  (s.onContract l fun c =>
    { c with
      exchange := c.exchange.filter fun x => !(x.kind == .claim)
      waiting := c.waiting.filter fun r => !(r.kind == .claim)
      displaced := c.displaced.filter fun x => !(x.kind == .claim)
      lastOutcome := some .superseded }).dropClaim l

/-! ### Entry to ACTIVE (R80, R81) -/

/-- R80, R98: what both entries to ACTIVE do: outcome DONE, the AGREED notice, strikes to 0, and the paused flag when
hold-after-active is on. -/
def State.nowActive (s : State) (l : Line) : State :=
  (((s.record l .done).raiseAgreed l).clearStrikes l).onContract l fun c =>
    { c with paused := c.paused || c.options.holdAfterActive }

/-- R80: the entry to ACTIVE from SWITCHING; `ready` is the arrival of the READY that led to it. -/
def State.enterActiveDraw (s : State) (l : Line) (ready : Time) (mid : Option MidRequest) : State :=
  let s1 := s.onContract l fun c =>
    let c1 := c.enter .active
    { c1 with timers := { c1.timers with
        renewal := c.agreement.map fun a => ready + BitVec.ofNat 32 (500 * a.lease) } }
  let s2 := (s1.command l (s1.contract l).path).nowActive l
  let c := s2.contract l
  if c.deferred = true ∧ c.paused = false then s2.reselect l mid else s2

end Sys2Proof.Machine
end

