-- ==== Sys2Proof/Machine/Supply.lean ====
section
/-! DEFINITION. The supply role (chapter 5): taking a CLAIM, admission, granting, settling, recalls' ends, and the decisions a
verdict or a fallback applies (R49, R69, R95, R117). -/

namespace Sys2Proof.Machine

/-! ### Answers to a CLAIM (R92 to R96) -/

/-- R27: every WAIT of the device carries 50. -/
def State.answerWait (s : State) (l : Line) (tag : Tag) : State := s.hand l ⟨tag, .wait 50⟩

/-- R27: a DENY. -/
def State.deny (s : State) (l : Line) (tag : Tag) (r : DenyReason) : State := s.hand l ⟨tag, .deny r⟩

/-- R92: the point's current limit at a voltage that lies on it. -/
def Point.limitAt (p : Point) (v : Nat) : Option Nat :=
  match p.kind with
  | .fixed => if v = p.v1 then some p.limit else none
  | .window => if p.v1 ≤ v ∧ v ≤ p.v2 then some (current p.limit v) else none

/-- R92: the CLAIM fits the offered points. -/
def ClaimFields.fitsMenu (f : ClaimFields) (pts : List Point) : Bool :=
  match pts[f.point]?.bind fun p => p.limitAt f.voltage with
  | some lim => decide (f.claimed ≠ 0 ∧ f.claimed ≤ lim ∧ f.least ≤ f.claimed)
  | none => false

/-- R96: carries out a GRANT: reservation, GRANT, POWERING. -/
def State.grantClaim (s : State) (l : Line) (tag : Tag) (f : ClaimFields) (granted : Nat) : State :=
  let lease := (s.contract l).options.lease
  let s1 := s.onContract l fun c => { c with grant := some ⟨f.voltage, granted, lease, f.point, tag⟩ }
  ((s1.claimSupply l).hand l ⟨tag, .grant granted lease⟩).enter l .powering

/-- R93: the current a room H admits. -/
def ClaimFields.admitted (f : ClaimFields) (room : Nat) : Nat := min f.claimed (current room f.voltage)

/-- R93: admission under AUTO, or under CLAMP with its clamp power. -/
def State.admission (s : State) (l : Line) (tag : Tag) (f : ClaimFields) (clamp : Option Nat) : State :=
  let g := f.admitted (capBy (s.supplyRoom l) clamp)
  if 1 ≤ g ∧ f.least ≤ g then s.grantClaim l tag f g else s.answerWait l tag

/-- R93: an action applied to a CLAIM. -/
def State.applyClaim (s : State) (l : Line) (tag : Tag) (f : ClaimFields) (a : Action) (clamp : Nat) : State :=
  match a with
  | .auto => s.admission l tag f none
  | .clamp => s.admission l tag f (some clamp)
  | .refuse => s.deny l tag .policy
  | .wait | .forward => s.answerWait l tag

/-- R92, R95: a recall is outstanding or a pending recall target is present. -/
def Contract.recalling (c : Contract) : Bool := c.recallOut.isSome || c.target.isSome

/-- R108: the query of a CLAIM. -/
def Contract.claimQuery (c : Contract) (l : Line) (f : ClaimFields) : Query :=
  { c.queryBase l .claim with vLow := f.voltage, vHigh := f.voltage, power := power f.voltage f.claimed }

/-- R93, R94: the rule query of a CLAIM that passed its checks. -/
def State.queryClaim (s : State) (l : Line) (tag : Tag) (f : ClaimFields) (raw : List Byte) : State :=
  let q := (s.contract l).claimQuery l f
  let a := s.answerOf q
  let s1 := s.afterQuery q
  match a.action with
  | .forward =>
      match s1.link.mode with
      | .running =>
          let c := s1.contract l
          let s2 := (s1.holdDecision l (.claim f) tag c.state).openVerdict l .claim a
            [relayPart1 s1.link.verdictTag a.rule c raw]
          if c.state = .offering then s2.enter l .deciding else s2
      | .autonomous => s1.applyClaim l tag f a.fallback a.clamp
  | act => s1.applyClaim l tag f act a.clamp

/-- R92: the checks of a CLAIM taken on a supplying line, in order. -/
def State.takeClaim (s : State) (l : Line) (tag : Tag) (f : ClaimFields) (raw : List Byte) : State :=
  let c := s.contract l
  match c.offered with
  | none => s.deny l tag .noMenu
  | some m =>
      if m.held then s.deny l tag .noMenu
      else if f.fitsMenu m.points = false then
        (s.deny l tag .badPoint).onContract l fun c => { c with lastFrameFault := true }
      else if s.link.busy = true ∨ c.paused = true ∨ c.recalling = true then s.answerWait l tag
      else s.queryClaim l tag f raw

/-! ### Recalls' ends (R102, R103) -/

/-- R102, R103: the agreed current is lowered, the path and the commitment follow, and the recall ends. -/
def State.lowerSupply (s : State) (l : Line) (limit : Nat) : State :=
  let s1 := s.onContract l fun c =>
    { c with
      agreement := c.agreement.map fun a => { a with current := limit }
      recallOut := none
      exchange := c.exchange.filter fun x => !(x.kind == .recall)
      waiting := c.waiting.filter fun r => !(r.kind == .recall) }
  (s1.command l (s1.contract l).path).claimSupply l

/-- R103: a recall is forced to its level. -/
def State.forceRecall (s : State) (l : Line) : State :=
  match (s.contract l).recallOut with
  | none => s
  | some r =>
      let s1 := (s.lowerSupply l r.level).record l .recallForced
      ((s1.takeFault l .recallIgnored (some .recall)).raiseAgreed l).takeTarget l

/-! ### Settling (R98) -/

/-- R98: the settle event, with the voltage of the sample that completed settling. -/
def State.settled (s : State) (l : Line) (voltage : Nat) : State :=
  match (s.contract l).grant with
  | none => s
  | some g =>
      let s1 := s.hand l ⟨g.tag, .ready voltage g.current⟩
      let s2 := s1.onContract l fun c =>
        { c with agreement := some ⟨g.voltage, g.current, g.lease, g.point⟩, grant := none }
      let s3 := (s2.claimSupply l).onContract l fun c =>
        { c.enter .active with leaseDeadline := some (s.after (1000 * g.lease)) }
      ((s3.command l (s3.contract l).path).nowActive l).takeTarget l

/-! ### Decisions applied (R49, R69, R95, R117) -/

/-- R95: the decision slot is emptied and the contract is back in the state the decision on a CLAIM began in. -/
def State.leaveDeciding (s : State) (l : Line) : State :=
  s.onContract l fun c => { (if c.state = .deciding then c.enter .offering else c) with decision := none }

/-- R37: the decision slot is emptied. -/
def State.emptyDecision (s : State) (l : Line) : State := s.onContract l fun c => { c with decision := none }

/-- A decision is applied as the action of the same name: a fallback (R117), or a verdict AUTO, REFUSE, DENY or WAIT
(R49, R69, R95). The entry has left the verdict queue. -/
def State.applyDecision (s : State) (l : Line) (a : Action) (clamp : Nat) : State :=
  match (s.contract l).decision with
  | none => s
  | some d =>
      (match d.what with
        | .announce answering => (s.emptyDecision l).applyAnnounce l answering a clamp
        | .menu => (s.emptyDecision l).applyMenu l a clamp
        | .claim f =>
            let t := s.leaveDeciding l
            if (a = Action.auto ∨ a = Action.clamp) ∧ (t.contract l).recalling = true then t.answerWait l d.tag
            else t.applyClaim l d.tag f a clamp).endEvent l

/-- R165, R169, R173: an entry leaves and its fallback is applied with its clamp. -/
def State.fallback (s : State) (v : VerdictEntry) : State := (s.dropVerdict v.line).applyDecision v.line v.fallback v.clamp

/-- An order of a list that a number picks. -/
def permute {α : Type} (k : Nat) : List α → List α
  | [] => []
  | [x] => [x]
  | x :: xs => (permute (k / (xs.length + 1)) xs).insertIdx (k % (xs.length + 1)) x

/-- R165: every standing entry leaves the queue and is resolved by its fallback; the lines have no order among themselves,
so the order is a free value (log 3). The link unit is changed in the same event, before the fallbacks (R169, R173). -/
def State.resolveAll (s : State) (change : LinkUnit → LinkUnit) : State :=
  (permute (Config.freeOrder s.freeCount) s.link.verdicts).foldl State.fallback
    { s with freeCount := s.freeCount + 1, link := { change s.link with verdicts := [] } }

end Sys2Proof.Machine
end

