-- ==== Sys2Proof/Machine/Exchange.lean ====
section
/-! DEFINITION. What becomes of the outstanding request when its answer timer expires or its frame fails (R34, R46, R77, R81,
R103), and the reports of frames to the contract engine (R9). -/

namespace Sys2Proof.Machine

/-- R46: an unanswered ANNOUNCE, closed, is given up; the next intervals run from `base`, its report. The far fields of an
earlier ANNOUNCE stay in the record (R24, R52), and the queries of this BASELINE's MENUs carry them, where R108 says that such a
line has none: the model's choice, log 35. -/
def State.giveUpAnnounce (s : State) (l : Line) (base : Time) (failed : Bool) : State :=
  s.onContract l fun c =>
    if c.state = .greeting then
      if c.greetingCount + 1 < 3 then
        { c with
          greetingCount := c.greetingCount + 1
          timers := { c.timers with greetingRetry := some (base + 200) } }
      else if c.options.roles.draw then
        { c.enter .baseline with
          role := .draw
          greetingCount := 3
          unmanaged := true
          lastOutcome := some .noAnswer
          timers := { Timers.stopped with slowRegreeting := some (base + 5000) } }
      else { c.block with greetingCount := 3, lastOutcome := some .noAnswer }
    else if c.state = .baseline ∧ c.unmanaged = true ∧ failed = true then
      { c with timers := { c.timers with slowRegreeting := some (base + 5000) } }
    else c

/-- R34: the exchange is taken on after an expiry, or after a FAILED report, which counts as one. A CLAIM or a RENEW is
handed once more with its tag; a second expiry re-greets, and the LINE_ERROR of a failed last send stands. -/
def State.expire (s : State) (l : Line) (x : Exchange) (failed : Bool) : State :=
  match x.kind with
  | .announce => (s.closeExchange l).giveUpAnnounce l (if failed then s.now else x.reportedAt.getD s.now) failed
  | .claim | .renew =>
      if x.expiries = 0 then s.sendRequest l ⟨x.kind, x.tag, x.chars, 1⟩
      else s.closeToGreeting l (if failed then none else some .noAnswer)
  | .claimGranted => s
  | .recall => s.forceRecall l

/-- R32, R34: the exchange of a displaced request is taken on after its expiry. A CLAIM or a RENEW is originated once more
with its tag; a second expiry re-greets (log 12). -/
def State.expireDisplaced (s : State) (l : Line) (x : Exchange) : State :=
  match x.kind with
  | .announce => s.giveUpAnnounce l (x.reportedAt.getD s.now) false
  | .claim | .renew =>
      if x.expiries = 0 then s.originate l ⟨x.kind, x.tag, x.chars, 1⟩ else s.closeToGreeting l (some .noAnswer)
  | .claimGranted | .recall => s

/-- R46: a report of the ANNOUNCE that was closed before it starts the slow re-greeting's interval (log 15). -/
def State.slowReport (s : State) (l : Line) (id : Nat) : State :=
  if (s.contract l).timers.slowFrame = some id then
    s.onContract l fun c =>
      { c with timers := { c.timers with slowFrame := none, slowRegreeting := some (s.after 5000) } }
  else s

/-- R9, R34: a SENT or DROPPED report of a frame: it concerns the contract when it is the outstanding request's. -/
def State.reported (s : State) (l : Line) (id : Nat) : State :=
  match (s.contract l).exchange with
  | some x => if x.frameId = id then s.startTimer l else s.slowReport l id
  | none => s.slowReport l id

/-- R9, R34: a FAILED report of a frame. -/
def State.reportFailed (s : State) (l : Line) (id : Nat) : State :=
  match (s.contract l).exchange with
  | some x => if x.frameId = id then (s.record l .lineError).expire l x true else s.slowReport l id
  | none => s.slowReport l id

/-- R9: the head frame's report is made, so it leaves the queue; R20 counts the drain. -/
def LineEngine.finishHead (e : LineEngine) : LineEngine :=
  { e with
    txQueue := e.txQueue.tail
    txSide := if e.txQueue.tail.isEmpty then .idle else .waiting
    txLevels := []
    txIndex := 0
    txSends := 0
    watchdog := none
    drain := e.drain.map fun n => n - 1 }

/-- The receive side takes a state with nothing collected and the frame gap timer stopped. -/
def LineEngine.clearRx (e : LineEngine) (side : RxSide) : LineEngine :=
  { e with
    rxSide := side
    rxChars := []
    rxExpected := none
    rxSlot := false
    rxLosing := false
    refusing := false
    gapTimer := false }

/-- R8, R13, R15: the head frame is abandoned: a health flag, a LINK fault with the frame's kind, and FAILED (log 17). -/
def State.failHead (s : State) (l : Line) (flag : Health → Health) (cause : Cause) : State :=
  match (s.engine l).txQueue with
  | [] => s
  | f :: _ =>
      let s1 := (s.onHealth l flag).takeFault l cause (kindOfChars f.chars)
      (s1.onEngine l LineEngine.finishHead).reportFailed l f.id

end Sys2Proof.Machine
end

