-- ==== Sys2Proof/Machine/Receive.lean ====
section
/-! DEFINITION. Meanings of the receive rows of a contract line (sections 1.1 to 1.3): START_EDGE, CHARACTER_ACCEPTED,
ERROR_PULSE, CONVENTION_ERROR, OVER_LENGTH_FRAME, FRAME_GAP_EXPIRY, DISCARDING_END, MALFORMED_FRAME. -/

namespace Sys2Proof.Machine

/-- R5: a length character above 48 has been collected as the second character. -/
def LineEngine.overLength (e : LineEngine) : Bool :=
  match e.rxChars with
  | [_, n] => decide (48 < n.toNat)
  | _ => false

/-- R5: the number of collected characters has reached the expected count. -/
def LineEngine.complete (e : LineEngine) : Bool := e.rxExpected == some e.rxChars.length

/-- R4: a character is awaited in an open slot of a frame being received. -/
def LineEngine.awaitsChar (e : LineEngine) : Bool :=
  e.present && e.rxSide == .receiving && e.rxSlot && !e.overLength && !e.complete

/-- R45: a frame handed to the contract engine restarts a running greeting delay. -/
def State.restartDelay (s : State) (l : Line) : State :=
  s.onContract l fun c =>
    { c with timers := { c.timers with greetingDelay := c.timers.greetingDelay.map fun _ => s.after 50 } }

/-- R155: a frame event: the last-frame flags are cleared, then one may be set. -/
def State.frameEvent (s : State) (l : Line) (set : Health → Health) : State := s.onHealth l fun h => set h.newEvent

/-- R23: a malformed frame is discarded; the fault names its kind when it passed tests 1 to 3. -/
def State.takeMalformed (s : State) (l : Line) (kind : Option FrameKind) : State :=
  let s1 := (s.frameEvent l fun h => { h with malformed := true }).restartDelay l
  (s1.onContract l fun c => { c with lastFrameFault := true }).takeFault l .malformed kind

/-- R8: a convention error. -/
def State.conventionError (s : State) (l : Line) : State :=
  let s1 := s.onEngine l fun e => e.clearRx .discarding
  (s1.frameEvent l fun h => { h with conventionError := true }).takeFault l .convention none

/-- R3: a start edge begins a frame while the receive side is IDLE, and inside a frame restarts the frame gap timer; it is
not taken while DISCARDING, while absent, or while the device sends. -/
def execStartEdge (l : Line) (s : State) : StepOutcome :=
  let e := s.engine l
  if e.present = true ∧ e.txSide ≠ .sending then
    match e.rxSide with
    | .idle => .next (s.onEngine l fun e => { e.clearRx .receiving with rxSlot := true, gapTimer := true })
    | .receiving =>
        if e.overLength || e.complete then .next s
        else .next (s.onEngine l fun e => { e with rxSlot := true, refusing := false, gapTimer := true })
    | .discarding => .next s
  else .next s

/-- R3, R7: an accepted character appended to the frame. The first goes through convention learning; the second sets the
expected count. -/
def LineEngine.append (e : LineEngine) (data : Byte) : LineEngine :=
  let conv := if e.rxChars.isEmpty then learn e.convention data else e.convention
  let value := conv.read data
  { e with
    convention := conv
    rxChars := e.rxChars ++ [value]
    rxExpected := if e.rxChars.length = 1 then some (value.toNat + 3) else e.rxExpected
    rxSlot := false
    rxLosing := false
    refusing := false }

/-- R4: a character whose parity holds is accepted. A first character that is a convention error has the effect of
CONVENTION_ERROR (R8, log 23). -/
def execCharacterAccepted (l : Line) (w : WireChar) (s : State) : StepOutcome :=
  let e := s.engine l
  if e.awaitsChar && w.parityOk then
    if e.rxChars.isEmpty && isConventionError e.convention w.data then .next ((s.conventionError l).endEvent l)
    else .next (s.onEngine l fun e => e.append w.data)
  else .next s

/-- R4: a character whose parity fails is refused on the wire and discarded; in the slot in which arbitration was lost it is
discarded without a refusal (log 8). -/
def execErrorPulse (l : Line) (w : WireChar) (s : State) : StepOutcome :=
  let e := s.engine l
  if e.awaitsChar && !w.parityOk then
    .next (s.onEngine l fun e => { e with rxSlot := false, rxLosing := false, refusing := !e.rxLosing })
  else .next s

/-- R8: an accepted first character that is not the initial character while the convention is UNKNOWN. -/
def execConventionError (l : Line) (w : WireChar) (s : State) : StepOutcome :=
  let e := s.engine l
  if e.awaitsChar && w.parityOk && e.rxChars.isEmpty && isConventionError e.convention w.data then
    .next ((s.conventionError l).endEvent l)
  else .next s

/-- R5, R22, R23: the two characters of an over-length frame are handed as malformed; the rest is ignored. -/
def execOverLengthFrame (l : Line) (s : State) : StepOutcome :=
  let e := s.engine l
  if e.present && e.rxSide == .receiving && e.overLength then
    .next (((s.onEngine l fun e => e.clearRx .discarding).takeMalformed l none).endEvent l)
  else .next s

/-- R6: the frame gap timer expires: the partial frame is discarded and SHORT_FRAME is set. -/
def execFrameGapExpiry (l : Line) (s : State) : StepOutcome :=
  let e := s.engine l
  if e.present && e.rxSide == .receiving && e.gapTimer && !e.overLength && !e.complete then
    .next ((s.onEngine l fun e => e.clearRx .idle).frameEvent l fun h => { h with shortFrame := true })
  else .next s

/-- R6: the line has been high for 40 bit times while DISCARDING. -/
def execDiscardingEnd (l : Line) (s : State) : StepOutcome :=
  if (s.engine l).rxSide = .discarding then .next (s.onEngine l fun e => e.clearRx .idle) else .next s

/-- R5: a complete frame stands in the receive side, to be handed to the contract engine. -/
def LineEngine.frameReady (e : LineEngine) : Bool := e.present && e.rxSide == .receiving && !e.overLength && e.complete

/-- R22, R23: a complete frame that fails validation. -/
def execMalformedFrame (l : Line) (s : State) : StepOutcome :=
  let e := s.engine l
  if e.frameReady then
    match validate e.rxChars with
    | .malformed kind => .next (((s.onEngine l fun e => e.clearRx .idle).takeMalformed l kind).endEvent l)
    | .wellFormed _ => .next s
  else .next s

end Sys2Proof.Machine
end

