-- ==== Sys2Proof/Machine/FarFrames.lean ====
section
/-! DEFINITION. Meanings of the rows of a well-formed contract frame received: pairing (R33), the far requests a state takes
(R35), and what the rule that takes the frame does. -/

namespace Sys2Proof.Machine

/-- R5, R45, R155: the complete, well-formed frame of a kind is handed to the contract engine: the receive side returns to
IDLE, the last-frame flags are cleared, a running greeting delay restarts; then `act` takes the frame, with its header,
length and body, and the event ends (R43). A row whose frame does not stand there changes nothing (log 11). -/
def State.deliver (s : State) (l : Line) (kind : FrameKind) (act : Frame → List Byte → State → State) : State :=
  let e := s.engine l
  if e.frameReady then
    match validate e.rxChars with
    | .wellFormed f =>
        if f.body.kind = kind ∧ (s.contract l).state ≠ .detached then
          let s1 := ((s.onEngine l fun e => e.clearRx .idle).frameEvent l id).restartDelay l
          (act f e.rxChars.dropLast s1).endEvent l
        else s
    | .malformed _ => s
  else s

/-- R37: an initiating ANNOUNCE, a MENU or a CLAIM supersedes a pending decision, then is taken in the state that leaves. -/
def takeAnnounce (l : Line) (f : Frame) (raw : List Byte) (s : State) : State :=
  match f.body with
  | .announce cls canRecall answering idn lvl =>
      let far : FarFields := ⟨cls, idn, lvl⟩
      if answering then
        if (s.contract l).fits .announce f.tag then
          let s1 := s.closeExchange l
          let c := s1.contract l
          if c.state = .greeting then
            (s1.onContract l fun c => { c with
                greetingStopped := true
                timers := { c.timers with greetingDelay := none, greetingRetry := none } }).processAnnounce l true far
              canRecall raw
          else if c.state = .baseline ∧ c.unmanaged = true then (s1.farRestart l).processAnnounce l true far canRecall raw
          else s1
        else s.stray l
      else if (s.contract l).state = .faulted then (s.supersede l).stray l
      else
        let s1 := s.supersede l
        let c := s1.contract l
        if c.state = .blocked ∧ s1.straps.get l = .disabled then
          ((s1.onContract l fun c => { c with far := some far, farRecall := some canRecall }).handNew l
            (.ending .role)).record l .noRole
        else if c.state = .greeting then
          (s1.onContract l fun c => { c with
              exchange := none
              greetingStopped := true
              timers := { c.timers with greetingDelay := none, greetingRetry := none } }).processAnnounce l false far
            canRecall raw
        else (s1.farRestart l).processAnnounce l false far canRecall raw
  | _ => s

/-- R47 to R50: ANNOUNCE_RECEIVED. -/
def execAnnounceReceived (l : Line) (s : State) : StepOutcome := .next (s.deliver l .announce (takeAnnounce l))

/-- R35: the states that take a MENU or a RECALL: a drawing line's. -/
def Contract.drawing (c : Contract) : Bool :=
  match c.state with
  | .awaitMenu | .choosing | .claiming | .backoff | .switching | .baseline => true
  | .active => c.role == .draw
  | _ => false

/-- R66, R72: MENU intake, after a pending decision has been superseded; the cursor returns to its start at each MENU
taken. -/
def takeMenu (l : Line) (mid : Option MidRequest) (f : Frame) (raw : List Byte) (s : State) : State :=
  match f.body with
  | .menu canRecall pts =>
      let s1 := s.supersede l
      if (s1.contract l).drawing then
        let s2 := if (s1.contract l).state = .claiming then s1.abandonClaim l else s1
        let s3 := s2.onContract l fun c => { c with
          farRecall := some canRecall
          farMenu := some ⟨raw, pts.map fun p => ⟨p, .unqueried, 0⟩⟩
          timers := { c.timers with backoff := none } }
        let c := s3.contract l
        if c.state = .switching then s3.onContract l fun c => { c with cursor := ⟨0, 0⟩, deferred := true }
        else if c.paused then
          s3.onContract l fun c => { c with cursor := ⟨0, 0⟩, waitStreak := 0, deferred := true }
        else s3.processMenu l mid
      else s1.stray l
  | _ => s

/-- R66: MENU_RECEIVED. -/
def execMenuReceived (m : MenuTaking) (s : State) : StepOutcome := .next (s.deliver m.line .menu (takeMenu m.line m.mid))

/-- R35, R92: a CLAIM is taken in OFFERING and in ACTIVE with role SUPPLY, answered DENY ROLE or DENY NOT_OFFERED, or
stray. -/
def takeFarClaim (l : Line) (f : Frame) (raw : List Byte) (s : State) : State :=
  match f.body with
  | .claim fields =>
      let s1 := s.supersede l
      let c := s1.contract l
      if c.state = .offering ∨ (c.state = .active ∧ c.role = .supply) then s1.takeClaim l f.tag fields raw
      else if c.role = .draw ∧ c.state ≠ .faulted then s1.deny l f.tag .role
      else if c.state = .powering then s1.deny l f.tag .notOffered
      else s1.stray l
  | _ => s

/-- R92: CLAIM_RECEIVED. -/
def execClaimReceived (l : Line) (s : State) : StepOutcome := .next (s.deliver l .claim (takeFarClaim l))

/-- R74: a GRANT judged against the outstanding claim. A GRANT refused ends the contract, and the fault unit takes its PROTOCOL
fault after that ending, as R151 has it (log 33). -/
def takeGrant (l : Line) (f : Frame) (_raw : List Byte) (s : State) : State :=
  match f.body, (s.contract l).claim with
  | .grant granted lease, some k =>
      if (s.contract l).fits .claim f.tag then
        if k.fields.least ≤ granted ∧ granted ≤ k.fields.claimed then
          let ready := s.after 300
          (s.onContract l fun c =>
            let c1 := c.enter .switching
            { c1 with
              agreement := some ⟨k.fields.voltage, granted, lease, k.fields.point⟩
              claim := none
              waitStreak := 0
              exchange := c.exchange.map fun x => { x with kind := .claimGranted, timer := none }
              timers := { c1.timers with readyWait := some ready } }).claimDraw l
        else (s.endToGreeting l .policy .malformedAnswer).takeFault l .malformedAnswer (some .grant)
      else s.stray l
  | _, _ => s.stray l

/-- R74: GRANT_RECEIVED. -/
def execGrantReceived (l : Line) (s : State) : StepOutcome := .next (s.deliver l .grant (takeGrant l))

/-- R75: a DENY closes the CLAIM, whatever its reason, and selection goes on. -/
def takeDeny (l : Line) (f : Frame) (_raw : List Byte) (s : State) : State :=
  if (s.contract l).fits .claim f.tag then
    ((((s.closeExchange l).dropClaim l).record l .denied).onContract l fun c => { c with waitStreak := 0 }).advance l
  else s.stray l

/-- R75: DENY_RECEIVED. -/
def execDenyReceived (l : Line) (s : State) : StepOutcome := .next (s.deliver l .deny (takeDeny l))

/-- R76: a WAIT closes the CLAIM; the third in a row advances selection, an earlier one backs off. -/
def takeWait (l : Line) (f : Frame) (_raw : List Byte) (s : State) : State :=
  match f.body with
  | .wait retry =>
      if (s.contract l).fits .claim f.tag then
        let s1 := (s.closeExchange l).dropClaim l
        let c := s1.contract l
        if c.waitStreak < 2 then
          s1.onContract l fun c =>
            let c1 := c.enter .backoff
            { c1 with
              waitStreak := c.waitStreak + 1
              timers := { c1.timers with backoff := some (s.after (10 * retry)) } }
        else ((s1.record l .waitLimit).onContract l fun c => { c with waitStreak := 0 }).advance l
      else s.stray l
  | _ => s

/-- R76: WAIT_RECEIVED. -/
def execWaitReceived (l : Line) (s : State) : StepOutcome := .next (s.deliver l .wait (takeWait l))

/-- R78, R79: a READY closes the CLAIM after its GRANT; the voltage check starts. -/
def takeReady (l : Line) (f : Frame) (_raw : List Byte) (s : State) : State :=
  if (s.contract l).fits .claimGranted f.tag then
    (s.closeExchange l).onContract l fun c =>
      { c with timers := { c.timers with readyWait := none, voltageCheck := some s.now } }
  else s.stray l

/-- R78: READY_RECEIVED. -/
def execReadyReceived (l : Line) (s : State) : StepOutcome := .next (s.deliver l .ready (takeReady l))

/-- R38: the stance word of a line at this instant. -/
def State.stanceOf (s : State) (l : Line) (lastFrameFault : Bool) : BitVec 16 :=
  let c := s.contract l
  s.link.stanceWord lastFrameFault c.recallOut.isSome (c.options.roles.supply && decide (0 < s.budget.supplyHeadroom))

/-- R39, R97, R99: a RENEW on a supplying line is answered KEEP, whose bit 0 is 0 in automatic mode; in ACTIVE the lease
deadline is set anew. -/
def takeRenew (l : Line) (f : Frame) (_raw : List Byte) (s : State) : State :=
  let c := s.contract l
  let keep := fun (t : State) => t.hand l ⟨f.tag, .keep (s.stanceOf l false)⟩
  if c.state = .active ∧ c.role = .supply then
    (keep s).onContract l fun c =>
      { c with leaseDeadline := c.agreement.map fun a => s.after (1000 * a.lease) }
  else if c.state = .powering then keep s
  else s.stray l

/-- R99: RENEW_RECEIVED. -/
def execRenewReceived (l : Line) (s : State) : StepOutcome := .next (s.deliver l .renew (takeRenew l))

/-- R81: a KEEP closes the RENEW and in ACTIVE restarts the renewal timer. -/
def takeKeep (l : Line) (f : Frame) (_raw : List Byte) (s : State) : State :=
  if (s.contract l).fits .renew f.tag then
    (s.closeExchange l).onContract l fun c =>
      if c.state = .active then
        { c with timers := { c.timers with renewal := c.agreement.map fun a => s.after (500 * a.lease) } }
      else c
  else s.stray l

/-- R81: KEEP_RECEIVED. -/
def execKeepReceived (l : Line) (s : State) : StepOutcome := .next (s.deliver l .keep (takeKeep l))

/-- R28: a YIELD carries the limit the path now holds. -/
def State.sendYield (s : State) (l : Line) (tag : Tag) : State := s.hand l ⟨tag, .yield (s.channel l).output.current⟩

/-- R82: a RECALL honoured: agreement, path, YIELD, commitment, notice, in this order. -/
def State.honourRecall (s : State) (l : Line) (tag : Tag) (ceiling : Nat) : State :=
  let s1 := s.onContract l fun c =>
    { c with agreement := c.agreement.map fun a => { a with current := min a.current ceiling } }
  (((s1.command l (s1.contract l).path).sendYield l tag).claimDraw l).raiseAgreed l

/-- R82, R83: a RECALL on a drawing line. -/
def takeRecall (l : Line) (f : Frame) (_raw : List Byte) (s : State) : State :=
  match f.body with
  | .recall ceiling _ =>
      let c := s.contract l
      if c.drawing then
        if c.state = .active ∨ c.state = .switching then s.honourRecall l f.tag ceiling
        else s.sendYield l f.tag
      else s.stray l
  | _ => s

/-- R82: RECALL_RECEIVED. -/
def execRecallReceived (l : Line) (s : State) : StepOutcome := .next (s.deliver l .recall (takeRecall l))

/-- R102, R103: a YIELD that fits the RECALL lowers the agreement to its limit, or forces the recall. -/
def takeYield (l : Line) (f : Frame) (_raw : List Byte) (s : State) : State :=
  match f.body, (s.contract l).recallOut with
  | .yield limit, some r =>
      if (s.contract l).fits .recall f.tag then
        if limit ≤ r.level then ((s.lowerSupply l limit).raiseAgreed l).takeTarget l
        else s.forceRecall l
      else s.stray l
  | _, _ => s.stray l

/-- R102: YIELD_RECEIVED. -/
def execYieldReceived (l : Line) (s : State) : StepOutcome := .next (s.deliver l .yield (takeYield l))

/-- R29, R35, R39: a STATUS_Q is answered by a STATUS; one built in automatic mode clears the last-frame-fault flag. -/
def takeStatusQ (l : Line) (f : Frame) (_raw : List Byte) (s : State) : State :=
  let c := s.contract l
  let a := c.agreement
  (s.hand l ⟨f.tag, .status (s.stanceOf l c.lastFrameFault) c.role c.state ((a.map Agreement.voltage).getD 0)
    ((a.map Agreement.current).getD 0)⟩).onContract l fun c =>
      { c with lastFrameFault := c.lastFrameFault && s.link.manualStance }

/-- R35: STATUS_Q_RECEIVED. -/
def execStatusQReceived (l : Line) (s : State) : StepOutcome := .next (s.deliver l .statusQ (takeStatusQ l))

/-- R33: STATUS_RECEIVED: always stray. -/
def execStatusReceived (l : Line) (s : State) : StepOutcome := .next (s.deliver l .status fun _ _ t => t.stray l)

/-- R54: a far ENDING, by the state in which it is taken. -/
def takeEnding (l : Line) (f : Frame) (_raw : List Byte) (s : State) : State :=
  match f.body with
  | .ending reason =>
      let requests := fun (t : State) => ((t.dropVerdict l).onContract l Contract.dropRequests).record l .endedByFar
      match (s.contract l).state with
      | .detached => s
      | .blocked | .faulted => requests s
      | .greeting =>
          (requests s).onContract l fun c => if reason = .final then c.block else c.greet (some (s.after 50))
      | _ => if reason = .final then s.closeToBlocked l .endedByFar else s.closeToGreeting l (some .endedByFar)
  | _ => s

/-- R54: ENDING_RECEIVED. -/
def execEndingReceived (l : Line) (s : State) : StepOutcome := .next (s.deliver l .ending (takeEnding l))

end Sys2Proof.Machine
end

