-- ==== Sys2Proof/Machine/DeviceRequests.lean ====
section
/-! DEFINITION. The meanings of the requests addressed to the device. -/

namespace Sys2Proof.Machine

/-- R159 step 2: the codes of the table of section 10.2. -/
def requestCodes : List Byte :=
  [0x01, 0x02, 0x03, 0x04, 0x10, 0x11, 0x12, 0x13, 0x14, 0x15, 0x20, 0x21, 0x22, 0x30, 0x31, 0x32, 0x33, 0x34, 0x35,
    0x36]

/-- R159: REQUEST_UNASSIGNED: a code outside the table. -/
def execRequestUnassigned (code : Byte) (r : Req) (s : State) : StepOutcome :=
  if code ∈ requestCodes then .next s else .next (s.request code r fun t => t.answer .badRequest)

/-! ### The part as a whole -/

/-- R170: IDENTIFY. -/
def execIdentify (r : Req) (s : State) : StepOutcome :=
  s.deviceRequest 0x01 0 r fun t =>
    ⟨t.onLink fun u => { u with linkError := false }, .ok,
      identifyChars t.straps (t.contracts.map fun c => c.options.roles) t.link.mode t.link.linkError t.now⟩

/-- R30, R65: the contract states with codes 4 to 13. -/
def CState.contracted (st : CState) : Bool :=
  match st with
  | .detached | .greeting | .blocked | .faulted => false
  | _ => true

/-- R20, R65: one line at RESET_PART: mute, watchdog count and health cleared, ENDING RESET handed where the contract is in
a state with code 4 to 13, and the frames of the queue counted for the drain. -/
def State.resetLine (s : State) (l : Line) : State :=
  let s1 := s.onEngine l fun e => { e with muted := false, wdCount := 0, health := .clear }
  let s2 := if (s1.contract l).state.contracted then s1.handNew l (.ending .reset) else s1
  s2.onEngine l fun e => { e with drain := some e.txQueue.length }

/-- R65: the record after RESET_PART: fresh, and greeting or BLOCKED where the line is PRESENT. The counter is 0, so the
greeting delay ends at 50. -/
def resetContract (st : Straps) (present : Bool) : Contract :=
  let c := Contract.fresh (.default st)
  if present then if st = .disabled then c.block else c.greet (some 50) else c

/-- R65, R171: every block but the line engines takes its values after RESET_PART; the straps are not latched again. -/
def State.resetBlocks (s : State) : State :=
  let record := fun l => resetContract (s.straps.get l) (s.engine l).present
  { s with
    now := 0
    contracts := ⟨record .l0, record .l1, record .l2, record .l3⟩
    rules := Vector.replicate 32 .blank
    prefs := Preference.initial
    menu := SupplyEntry.initial
    budget := .initial
    channels := .all .powerOn
    captures := .all .clear
    strikes := .all 0
    link := { LinkUnit.powerOn with receiver := s.link.receiver, stx := s.link.stx } }

/-- R171: the part after RESET_PART, but for the RESPONSE. -/
def State.resetPart (s : State) : State := (Line.everyLine.foldl State.resetLine s).resetBlocks

/-- R171: RESET_PART. -/
def execResetPart (r : Req) (s : State) : StepOutcome :=
  s.deviceRequest 0x02 0 r fun t => t.resetPart.answer .ok

/-- R173 step 4: the notice set holds a notice whose kind is in the wake set. -/
def LinkUnit.wakeWaiting (u : LinkUnit) : Bool := u.notices.any fun n => u.wakesOn n.body.kind

/-- R173: steps 2 to 4 of QUIET. -/
def State.goQuiet (s : State) (wakeSet : BitVec 7) : State :=
  (s.resolveAll fun u => { u with mode := .autonomous, wakeSet := wakeSet }).onLink fun u =>
    { u with wake := u.wake || u.wakeWaiting }

/-- R173: QUIET; bits that name no kind are ignored. -/
def execQuiet (r : Req) (s : State) : StepOutcome :=
  s.deviceRequest 0x03 1 r fun t =>
    match r.args with
    | [w] => (t.goQuiet (w.setWidth 7)).answer .ok
    | _ => t.answer .badRequest

/-- R40: STANCE_SET. -/
def execStanceSet (r : Req) (s : State) : StepOutcome := .next (s.stanceSet r)

/-! ### The tables -/

/-- R119, R120: TABLE_PUT. -/
def execTablePut (r : Req) (s : State) : StepOutcome := .next (s.tablePut r)

/-- R121: TABLE_GET. -/
def execTableGet (r : Req) (s : State) : StepOutcome := .next (s.tableGet r)

/-- R70: PREF_PUT. Of an index of 8 or above beside an entry out of range the index is judged first: R70 gives both refusals and
no order of the two checks, so the BAD_INDEX is the model's choice, log 40. -/
def execPrefPut (r : Req) (s : State) : StepOutcome :=
  s.deviceRequest 0x12 10 r fun t =>
    match r.args with
    | i :: e =>
        if h : i.toNat < 8 then
          match parsePref e with
          | some entry => State.answer { t with prefs := t.prefs.set i.toNat entry h } .ok
          | none => t.answer .badEntry
        else t.answer .badIndex
    | [] => t.answer .badRequest

/-- R70: PREF_GET. -/
def execPrefGet (r : Req) (s : State) : StepOutcome :=
  s.deviceRequest 0x13 1 r fun t =>
    match r.args with
    | [i] => if h : i.toNat < 8 then ⟨t, .ok, t.prefs[i.toNat].chars⟩ else t.answer .badIndex
    | _ => t.answer .badRequest

/-- R88, R91: MENU_PUT; a changed entry leads to the re-offer of held menus. -/
def execMenuPut (r : Req) (s : State) : StepOutcome :=
  s.deviceRequest 0x14 9 r fun t =>
    match r.args with
    | i :: e =>
        if h : i.toNat < 4 then
          match parseSupply e with
          | some entry =>
              let t1 := { t with menu := t.menu.set i.toNat entry h }
              (if entry = t.menu[i.toNat] then t1 else t1.reoffer).answer .ok
          | none => t.answer .badEntry
        else t.answer .badIndex
    | [] => t.answer .badRequest

/-- R88: MENU_GET. -/
def execMenuGet (r : Req) (s : State) : StepOutcome :=
  s.deviceRequest 0x15 1 r fun t =>
    match r.args with
    | [i] => if h : i.toNat < 4 then ⟨t, .ok, t.menu[i.toNat].chars⟩ else t.answer .badIndex
    | _ => t.answer .badRequest

/-! ### The budget -/

/-- R132: re-selection is passed to a BASELINE line. -/
def State.passReselect (s : State) (l : Line) : State :=
  if (s.contract l).state = .baseline then (s.reselect l none).endEvent l else s

/-- R130: BUDGET_SET accepted, in the order of its steps. -/
def State.setCeilings (s : State) (input supply : Nat) (rank : List Line) : State :=
  let s1 := (s.setBudget { s.budget with inputCeiling := input, supplyCeiling := supply, rank := rank }).reallocate
  let s2 := s1.recallWalk s1.budget.order.reverse (s1.budget.committedSupply - s1.budget.supplyCeiling)
  let s3 := s2.passRise s.budget.supplyHeadroom
  if s.budget.inputCeiling < input then rank.foldl State.passReselect s3 else s3

/-- R130: BUDGET_SET. -/
def execBudgetSet (r : Req) (s : State) : StepOutcome :=
  s.deviceRequest 0x20 5 r fun t =>
    match parseBudget r.args with
    | some (input, supply, rank) => (t.setCeilings input supply rank).answer .ok
    | none => t.answer .badEntry

/-- R133: BUDGET_GET. -/
def execBudgetGet (r : Req) (s : State) : StepOutcome := s.deviceRequest 0x21 0 r fun t => ⟨t, .ok, t.budget.chars⟩

/-- R134: BUDGET_CLEAR. -/
def execBudgetClear (r : Req) (s : State) : StepOutcome :=
  s.deviceRequest 0x22 0 r fun t => (t.setBudget { t.budget with drawOver := false, supplyOver := false }).answer .ok

end Sys2Proof.Machine
end

