-- ==== Sys2Proof/Machine/LineRequests.lean ====
section
/-! DEFINITION. Meanings of the requests addressed to a line: LINE_SET, the LINE_CTRL actions, CONTRACT_GET, FAULT_GET,
FAULT_ACK, HEALTH_GET, HEALTH_CLEAR (R17, R58 to R64, R100, R153, R156). -/

namespace Sys2Proof.Machine

/-! ### LINE_SET -/

/-- R62, R104, R146: the options stored, the running allowance loaded, and the cap event of a LINE_SET that leaves a capped
line in POWERING or ACTIVE with an allowance of 0. -/
def State.storeOptions (s : State) (l : Line) (o : Options) : State :=
  let c := s.contract l
  let supplying := c.state = .powering ∨ (c.state = .active ∧ c.role = .supply)
  (s.onContract l fun c => { c with options := o }).onChannel l fun ch =>
    { ch with
      allowance := o.allowance
      capReport := ch.capReport ||
        (decide supplying && ch.command.form == .supply && o.capped && o.allowance == 0) }

/-- R61: the role is in the set. -/
def RoleSet.permits (r : RoleSet) (role : Role) : Bool :=
  match role with
  | .none => true
  | .draw => r.draw
  | .supply => r.supply

/-- R61, R62, R129: an accepted LINE_SET. -/
def State.setOptions (s : State) (l : Line) (o : Options) : State :=
  let s1 := s.storeOptions l o
  let s2 := if (s.contract l).options.baseline ≠ o.baseline ∧ (s.budget.drawCopy.get l).isSome = true then s1.reallocate
    else s1
  let c := s2.contract l
  (if c.state.contracted = true ∧ o.roles.permits c.role = false then s2.endToGreeting l .policy .noRole
    else s2).endEvent l

/-- R62: LINE_SET. -/
def execLineSet (r : Req) (s : State) : StepOutcome :=
  s.lineRequest 0x30 7 r fun l t =>
    match parseOptions r.args with
    | some o => if o.roles.within (t.straps.get l).roles then (t.setOptions l o).answer .ok else t.answer .refusedStrap
    | none => t.answer .badEntry

/-! ### LINE_CTRL (R63) -/

/-- R59, R63: PAUSE. -/
def execPause (r : Req) (s : State) : StepOutcome :=
  s.lineControl 0x01 r fun l t =>
    if (t.contract l).state = .detached then t.answer .wrongState
    else (t.onContract l fun c => { c with paused := true }).answer .ok

/-- R59, R84: a paused line is released, and a MENU deferred while it was paused is processed at once. The marker stays
for SWITCHING's end (R80) and while a choice is pending (log 14). -/
def State.releaseLine (s : State) (l : Line) : State :=
  let c := s.contract l
  if c.paused then
    let s1 := s.onContract l fun c => { c with paused := false }
    if c.deferred = true ∧ c.state ≠ .switching ∧ c.state ≠ .choosing then (s1.reselect l none).endEvent l else s1
  else s

/-- R59, R63: RELEASE. -/
def execRelease (r : Req) (s : State) : StepOutcome :=
  s.lineControl 0x02 r fun l t =>
    if (t.contract l).state = .detached then t.answer .wrongState else (t.releaseLine l).answer .ok

/-- R17, R34: MUTE sets the flag and removes every frame as DROPPED, each with its report. -/
def State.mute (s : State) (l : Line) : State :=
  let q := (s.engine l).txQueue
  let s1 := s.onEngine l fun e =>
    { e with
      muted := true
      txQueue := []
      txSide := .idle
      txLevels := []
      txIndex := 0
      txSends := 0
      watchdog := none
      drain := e.drain.map fun n => n - q.length }
  q.foldl (fun t f => t.reported l f.id) s1

/-- R17: MUTE. -/
def execMute (r : Req) (s : State) : StepOutcome := s.lineControl 0x03 r fun l t => (t.mute l).answer .ok

/-- R17: UNMUTE. -/
def execUnmute (r : Req) (s : State) : StepOutcome :=
  s.lineControl 0x04 r fun l t => (t.onEngine l fun e => { e with muted := false }).answer .ok

/-- R53, R63: END. -/
def execEndLine (r : Req) (s : State) : StepOutcome :=
  s.lineControl 0x05 r fun l t =>
    if (t.contract l).state.contracted then
      ((t.endToGreeting l .normal .endedByController).endEvent l).answer .ok
    else t.answer .wrongState

/-- R16, R58, R63, R152: an accepted RESTART. -/
def State.restartLine (s : State) (l : Line) : State :=
  let s1 := ((s.dropVerdict l).onEngine l fun e => { e with wdCount := 0 }).clearStrikes l
  (s1.onContract l fun c =>
    if s.straps.get l = .disabled then c.dropRequests.block else c.dropRequests.greet (some (s.after 50))).endEvent l

/-- R58, R63: RESTART. -/
def execRestart (r : Req) (s : State) : StepOutcome :=
  s.lineControl 0x06 r fun l t =>
    match (t.contract l).state with
    | .greeting => (t.restartLine l).answer .ok
    | .blocked => if t.straps.get l = .disabled then t.answer .refusedStrap else (t.restartLine l).answer .ok
    | .faulted => if (t.captures.get l).held then t.answer .held else (t.restartLine l).answer .ok
    | _ => t.answer .wrongState

/-- R63: RENEGOTIATE on a drawing line. -/
def Contract.mayReselect (c : Contract) : Bool :=
  !c.paused && c.role == .draw && (c.state == .active || (c.state == .baseline && c.farMenu.isSome))

/-- R63: RENEGOTIATE on a supplying line. -/
def Contract.mayReoffer (c : Contract) : Bool :=
  !c.paused && c.role == .supply && (c.state == .offering || c.state == .active)

/-- R63, R84, R91: RENEGOTIATE. -/
def execRenegotiate (r : Req) (s : State) : StepOutcome :=
  s.lineControl 0x07 r fun l t =>
    if (t.contract l).mayReselect then ((t.reselect l none).endEvent l).answer .ok
    else if (t.contract l).mayReoffer then (t.rebuildMenu l).answer .ok
    else t.answer .wrongState

/-- R63, R100: RECALL, with its level. -/
def execRecallRequest (r : Req) (s : State) : StepOutcome :=
  s.lineControl 0x08 r fun l t =>
    match r.args with
    | [a, b] =>
        let c := t.contract l
        if 320 < nat16 a b then t.answer .badEntry
        else if c.role = .supply ∧ (c.state = .active ∨ c.state = .powering) then
          (t.recallCause l (nat16 a b) .controller).answer .ok
        else t.answer .wrongState
    | _ => t.answer .badRequest

/-- The LINE_CTRL arguments carry an action of the table, with a level (section 12.5 note 4). -/
def actionAssigned (args : List Byte) : Bool :=
  match args with
  | [a, _, _] => decide (1 ≤ a.toNat ∧ a.toNat ≤ 8)
  | _ => false

/-- R63: an action code outside the table is refused; here the arguments are all three (log 24). -/
def execLineCtrlUnassigned (r : Req) (s : State) : StepOutcome :=
  if actionAssigned r.args then .next s else .next (s.request 0x31 r fun t => t.answer .badRequest)

/-! ### Reading a line's records -/

/-- R64, R179: CONTRACT_GET. -/
def execContractGet (r : Req) (s : State) : StepOutcome :=
  s.lineRequest 0x32 1 r fun l t =>
    let c := t.contract l
    match r.args with
    | [p] =>
        match p.toNat with
        | 0 => ⟨t, .ok, c.part0 (t.straps.get l)⟩
        | 1 => ⟨t, .ok, c.part1⟩
        | 2 => ⟨t, .ok, c.part2⟩
        | _ => t.answer .badIndex
    | _ => t.answer .badRequest

/-- R153: FAULT_GET. -/
def execFaultGet (r : Req) (s : State) : StepOutcome :=
  s.lineRequest 0x33 0 r fun l t => ⟨t, .ok, (t.captures.get l).chars ++ [byte (t.strikes.get l)]⟩

/-- R153: FAULT_ACK. -/
def execFaultAck (r : Req) (s : State) : StepOutcome :=
  s.lineRequest 0x34 0 r fun l t =>
    if (t.captures.get l).held then
      State.answer { t with captures := t.captures.set l { t.captures.get l with held := false } } .ok
    else t.answer .notHeld

/-- R156: HEALTH_GET. -/
def execHealthGet (r : Req) (s : State) : StepOutcome :=
  s.lineRequest 0x35 0 r fun l t =>
    let e := t.engine l
    ⟨t, .ok, e.health.chars e.muted ++ [byte e.wdCount]⟩

/-- R156: HEALTH_CLEAR. -/
def execHealthClear (r : Req) (s : State) : StepOutcome :=
  s.lineRequest 0x36 0 r fun l t => (t.onHealth l fun _ => .clear).answer .ok

end Sys2Proof.Machine
end

