-- ==== Sys2Proof/Machine/Link.lean ====
section
/-! DEFINITION. Meanings of the rows of the system link's receiver and transmitter (R157, R158, R161, R168) and of
LINK_RESTART (R169). -/

namespace Sys2Proof.Machine

/-- R157: a start bit in IDLE begins a frame after 2 character times of high level, and is an error before. -/
def execLinkStartBit (quiet : Bool) (s : State) : StepOutcome :=
  if s.link.receiver = .idle then
    if quiet then .next (s.onLink fun u => { u with receiver := .receiving })
    else .next (s.onLink fun u => { u with receiver := .skipping, linkError := true })
  else .next s

/-- R158, R178: the frame is found malformed by its character just received, after those before it: it is discarded and the link
error flag set; the rest of one found malformed before its end is skipped. -/
def execLinkFrameMalformed (before : List LinkChar) (last : LinkChar) (s : State) : StepOutcome :=
  match s.link.receiver, judgeLink (before ++ [last]) with
  | .receiving, some atEnd =>
      .next (s.onLink fun u => { u with receiver := if atEnd then .idle else .skipping, linkError := true })
  | _, _ => .next s

/-- R157, R158: a gap longer than 2 character times ends the frame as truncated. -/
def execLinkFrameTruncated (s : State) : StepOutcome :=
  if s.link.receiver = .receiving then .next (s.onLink fun u => { u with receiver := .idle, linkError := true })
  else .next s

/-- R157: SRX has been high for 2 character times while SKIPPING. -/
def execSkippingEnd (s : State) : StepOutcome :=
  if s.link.receiver = .skipping then .next (s.onLink fun u => { u with receiver := .idle }) else .next s

/-- R169: the link restart, in the order of its steps. -/
def execLinkRestart (s : State) : StepOutcome :=
  let s1 := s.resolveAll fun u => { u with receiver := .skipping, responses := [], notices := [] }
  .next (s1.onLink fun u => { u with mode := .running, wakeSet := 0, wake := false })

/-- R161: the oldest unsent RELAY frame, in the order of forwarding, with the queue it leaves. -/
def takeRelay : List VerdictEntry → Option (List Byte × List VerdictEntry)
  | [] => none
  | v :: vs =>
      match v.relays with
      | b :: bs => some (linkFrame v.line.index .relay b, { v with relays := bs } :: vs)
      | [] => (takeRelay vs).map fun r => (r.1, v :: r.2)

/-- R157, R161: the transmitter begins to send a frame. -/
def LinkUnit.send (u : LinkUnit) (frame : List Byte) : LinkUnit := { u with stx := some (frame.map linkChar) }

/-- R161, R168: the free transmitter's choice: RESPONSE, RELAY, then a notice in RUNNING mode. -/
def LinkUnit.choose (u : LinkUnit) : LinkUnit :=
  match u.responses with
  | r :: rs => { u with responses := rs }.send r.frame
  | [] =>
      match takeRelay u.verdicts with
      | some (f, vs) => { u with verdicts := vs }.send f
      | none =>
          match u.mode, u.notices with
          | .running, n :: ns => { u with notices := ns }.send n.frame
          | _, _ => u

/-- R161: TRANSMIT_CHOICE. -/
def execTransmitChoice (s : State) : StepOutcome := if s.link.stx.isNone then .next (s.onLink LinkUnit.choose) else .next s

/-- R161: the transmitter is free again. -/
def execTransmitEnd (s : State) : StepOutcome := .next (s.onLink fun u => { u with stx := none })

end Sys2Proof.Machine
end

