-- ==== Sys2Proof/Machine/Sense.lean ====
section
/-! DEFINITION. Meanings of the path and sense rows (chapter 8): SAMPLE, SETTLE_EVENT, SETTLE_TIMEOUT, the trips, CAP_EVENT. -/

namespace Sys2Proof.Machine

/-! ### One sample (R138 to R145) -/

/-- R138: a reading held to the sample's ranges and stamped. -/
def Reading.sample (r : Reading) (now : Time) : Sample :=
  ⟨min 1500 r.voltage.toNat, max (-320) (min 320 r.current), now⟩

/-- R138: the current out of the laptop. -/
def Sample.out (x : Sample) : Nat := (-x.current).toNat

/-- R139: the settle watch judges a sample stamped 20 ms or more after its start; at a count of 3 it reports and stops. -/
def Channel.judgeSettle (ch : Channel) (x : Sample) : Channel :=
  match ch.settleStart with
  | none => ch
  | some t =>
      if (x.time - t).toNat < 20 then ch
      else if inWindow 5 ch.command.voltage x.voltage then
        if ch.settleRun + 1 = 3 then { ch with settleRun := 0, settleStart := none, settleReport := some x.voltage }
        else { ch with settleRun := ch.settleRun + 1 }
      else { ch with settleRun := 0 }

/-- R141: the overcurrent watch. -/
def Channel.judgeOvercurrent (ch : Channel) (x : Sample) : Channel :=
  if ch.command.watch.overcurrent then
    { ch with
      overcurrentRun := if ch.command.limit + ch.command.limit * 10 / 100 < x.out then ch.overcurrentRun + 1 else 0 }
  else ch

/-- R142: the reverse watch. -/
def Channel.judgeReverse (ch : Channel) (x : Sample) : Channel :=
  if ch.command.watch.reverse then { ch with reverseRun := if x.current < -10 then ch.reverseRun + 1 else 0 } else ch

/-- R143: the hold watch. -/
def Channel.judgeHold (ch : Channel) (x : Sample) : Channel :=
  match ch.command.watch.hold with
  | some ref => { ch with deviationRun := if inWindow 8 ref x.voltage then 0 else ch.deviationRun + 1 }
  | none => ch

/-- R145, R146: the energy meter; the sample that brings the running allowance from 1 to 0 reports the cap event. -/
def Channel.meterSample (ch : Channel) (x : Sample) (capped : Bool) : Channel :=
  if ch.command.watch.meter && capped then
    let total := ch.energy + power x.voltage x.out
    if 100000 ≤ total then
      { ch with
        energy := total - 100000
        allowance := ch.allowance - 1
        capReport := ch.capReport || ch.allowance == 1 }
    else { ch with energy := total }
  else ch

/-- A trip's fault report is pending. -/
def TripsDue.any (d : TripsDue) : Bool := d.overcurrent || d.reverse || d.hold || d.settle

/-- The causes of both. -/
def TripsDue.join (d e : TripsDue) : TripsDue :=
  ⟨d.overcurrent || e.overcurrent, d.reverse || e.reverse, d.hold || e.hold, d.settle || e.settle⟩

/-- R144: the causes to trip for, now that the sample has been judged: a run completed under a watch of the command in force,
or the settle timeout, which the sample stamped at the expiry has come before (R140). -/
def Channel.tripCauses (ch : Channel) (now : Time) : TripsDue where
  overcurrent := ch.command.watch.overcurrent && decide (5 ≤ ch.overcurrentRun)
  reverse := ch.command.watch.reverse && decide (3 ≤ ch.reverseRun)
  hold := ch.command.watch.hold.isSome && decide (20 ≤ ch.deviationRun)
  settle := ch.settleExpired now

/-- R144, steps 1 and 2: the flag is set, which opens the outputs (`Channel.output`), and every watch and run stops. The
fault of step 3, stamped with the time of the sample or expiry, is pending until the row of its cause reports it (log 9). -/
def Channel.trip (ch : Channel) (causes : TripsDue) (stamp : Time) : Channel :=
  { ch with
    tripped := true
    overcurrentRun := 0
    reverseRun := 0
    deviationRun := 0
    settleRun := 0
    settleStart := none
    due := ch.due.join causes
    tripStamp := stamp }

/-- R144: the channel trips when there is a cause. -/
def Channel.tripFor (ch : Channel) (causes : TripsDue) (stamp : Time) : Channel :=
  if causes.any then ch.trip causes stamp else ch

/-- R140, R144: the settle timeout trips the channel, at its own time. -/
def Channel.tripSettle (ch : Channel) : Channel := ch.trip ⟨false, false, false, true⟩ (ch.settleStart.getD 0 + 250)

/-- R140: a settle timeout that has expired by now trips the channel. -/
def Channel.expire (ch : Channel) (now : Time) : Channel := if ch.settleExpired now then ch.tripSettle else ch

/-- R138: the sample is judged by every watch of the command in force, and metered. -/
def Channel.judge (ch : Channel) (x : Sample) (capped : Bool) : Channel :=
  ((((ch.judgeSettle x).judgeOvercurrent x).judgeReverse x).judgeHold x).meterSample x capped

/-- R138, R144: the sample becomes the latest. No watch of a channel that has tripped judges it; a settle timeout that
expired before the sample trips the channel first (R140); a run that the sample completes trips it then. -/
def Channel.sample (ch : Channel) (x : Sample) (capped : Bool) : Channel :=
  let c1 := { ch with latest := x }
  if ch.tripped then c1
  else if ch.settleExpired (x.time - 1) then c1.tripSettle
  else (c1.judge x capped).tripFor ((c1.judge x capped).tripCauses x.time) x.time

/-- R18: the run timer of the presence input, in milliseconds as the samples count them (log 10). -/
def LineEngine.watchPresence (e : LineEngine) (high : Bool) : LineEngine :=
  if e.presenceLevel = high then { e with presenceRun := e.presenceRun + 1 }
  else { e with presenceLevel := high, presenceRun := 0 }

/-- R79: the voltage check judges a sample handed to the contract engine. -/
def State.checkVoltage (s : State) (l : Line) (x : Sample) (mid : Option MidRequest) : State :=
  let c := s.contract l
  match c.timers.voltageCheck, c.agreement with
  | some ready, some a =>
      if c.state = .switching ∧ inWindow 5 a.voltage x.voltage = true then (s.enterActiveDraw l ready mid).endEvent l else s
  | _, _ => s

/-- R138: one line's sample. -/
def State.sampleLine (mid : Option MidRequest) (s : State) (r : Reading) : State :=
  let x := Reading.sample r s.now
  let s1 := s.onChannel r.line fun ch => ch.sample x (s.contract r.line).options.capped
  (s1.onEngine r.line fun e => e.watchPresence r.presenceHigh).checkVoltage r.line x mid

/-- Section 5, R15: a step of the device time counter, with the watchdogs that run. -/
def State.tick (s : State) : State :=
  { s with
    now := s.now + 1
    engines := s.engines.map fun e => { e with watchdog := e.watchdog.map fun n => n + 1 } }

/-- R138: SAMPLE. The readings are taken in their order; `tick` steps the counter first (log 2). -/
def execSample (tick : Bool) (x : Sampling) (s : State) : StepOutcome :=
  .next (x.readings.foldl (State.sampleLine x.mid) (if tick then s.tick else s))

/-! ### Reports of a channel -/

/-- R97, R98, R139: the settle event reaches the contract engine; outside POWERING it is dropped. -/
def execSettleEvent (l : Line) (s : State) : StepOutcome :=
  match (s.channel l).settleReport with
  | some v =>
      let s1 := s.onChannel l fun ch => { ch with settleReport := none }
      if (s.contract l).state = .powering then .next ((s1.settled l v).endEvent l) else .next s1
  | none => .next s

/-- R144, step 3: the pending fault of a trip is reported to the fault unit with its stamp, and FAULTED entry commands OPEN,
which clears the trip flag (R57, R136). An OPEN taken between the trip and this report has cleared the flag already (log 20).
The other causes that were pending go with this one: of two runs that one sample completes one fault is reported (log 32). -/
def State.reportTrip (s : State) (l : Line) (cause : Cause) : State :=
  ((s.onChannel l fun ch => { ch with due := .none }).takeFaultOf l cause none (s.channel l).tripStamp).endEvent l

/-- R140, R144: the settle timeout: the report of one that a sample has found expired, or the expiry itself, 250 ms after the
settle start, before a sample has (log 21). -/
def execSettleTimeout (l : Line) (s : State) : StepOutcome :=
  if (s.channel l).due.settle then .next (s.reportTrip l .settle)
  else if (s.channel l).settleExpired s.now then
    .next ((s.onChannel l fun ch => ch.tripSettle).reportTrip l .settle)
  else .next s

/-- R141: the overcurrent run is completed. -/
def execOvercurrentTrip (l : Line) (s : State) : StepOutcome :=
  if (s.channel l).due.overcurrent then .next (s.reportTrip l .overcurrent) else .next s

/-- R142: the reverse run is completed. -/
def execReverseTrip (l : Line) (s : State) : StepOutcome :=
  if (s.channel l).due.reverse then .next (s.reportTrip l .reverse) else .next s

/-- R143: the deviation run is completed. -/
def execHoldTrip (l : Line) (s : State) : StepOutcome :=
  if (s.channel l).due.hold then .next (s.reportTrip l .voltage) else .next s

/-- R104: the contract engine takes the cap event by the cap mode. -/
def State.takeCap (s : State) (l : Line) : State :=
  let c := s.contract l
  if c.state = .powering ∨ (c.state = .active ∧ c.role = .supply) then
    match c.options.capMode with
    | .uncapped => s
    | .endAtCap => s.endToGreeting l .capReached .capReached
    | .recallAtCap => s.recallCause l c.options.baseline .cap
  else s

/-- R104, R146: CAP_EVENT. -/
def execCapEvent (l : Line) (s : State) : StepOutcome :=
  if (s.channel l).capReport then
    .next (((s.onChannel l fun ch => { ch with capReport := false }).takeCap l).endEvent l)
  else .next s

end Sys2Proof.Machine
end

