-- ==== Sys2Proof/Machine/Presence.lean ====
section
/-! DEFINITION. Meanings of ATTACH, DETACH (R18, R19, R44, R56) and POWER_ON_RESET (R172). -/

namespace Sys2Proof.Machine

/-- R18, R44: the line becomes PRESENT: the watchdog count and the strikes return to 0, the contract greets or is BLOCKED,
and ATTACH is raised. -/
def State.attach (s : State) (l : Line) : State :=
  let s1 := s.onEngine l fun e => { e with present := true, wdCount := 0 }
  let s2 := (s1.clearStrikes l).onContract l fun c =>
    if s.straps.get l = .disabled then c.block else c.greet (some (s.after 50))
  (s2.raise (.line l) (.attach (s2.contract l).state)).endEvent l

/-- R18, R19: the presence input has held a level for a number of milliseconds. -/
def LineEngine.held (e : LineEngine) (level : Bool) (ms : Nat) : Bool := e.presenceLevel == level && decide (ms ≤ e.presenceRun)

/-- R18: ATTACH, in ABSENT, once the presence input has been high for 20 ms. -/
def execAttach (l : Line) (s : State) : StepOutcome :=
  if (s.engine l).present = false ∧ (s.engine l).held true 20 = true then .next (s.attach l) else .next s

/-- R19, R56: a line engine at detach: both sides IDLE, the queue emptied without reports, the last-frame flags cleared, the
convention UNKNOWN. -/
def LineEngine.leave (e : LineEngine) : LineEngine :=
  { e.clearRx .idle with
    convention := .unknown
    txQueue := []
    txSide := .idle
    txLevels := []
    txIndex := 0
    txSends := 0
    watchdog := none
    present := false
    health := e.health.newEvent
    drain := none }

/-- R56: teardown. A settle timeout that expires at the same instant, or has expired, trips the channel before OPEN reaches it;
its fault then finds the contract DETACHED, and the capture record keeps it (R144, log 20). -/
def State.teardown (s : State) (l : Line) : State :=
  let s0 := s.onChannel l fun ch => ch.expire s.now
  let s1 := ((s0.command l .opened).dropVerdict l).onContract l fun c =>
    { Contract.fresh c.options with lastOutcome := some .detached }
  let s2 := (s1.releaseBoth l).onChannel l fun ch => { ch with energy := 0 }
  (s2.raise (.line l) (.detach .detached (some .detached))).endEvent l

/-- R19: DETACH, in PRESENT, once the presence input has been low for 2 ms. -/
def execDetach (l : Line) (s : State) : StepOutcome :=
  if (s.engine l).present = true ∧ (s.engine l).held false 2 = true then
    .next ((s.onEngine l LineEngine.leave).teardown l)
  else .next s

/-- R18, R60, R172: every block takes its power-on values, with the straps just latched. The commands that wait, and the count
of free values used, are the model's own and stay. -/
def execPowerOnReset (pins : Four ResetPins) (s : State) : StepOutcome :=
  .next { State.powerOn (pins.map Straps.latch) (pins.map ResetPins.presence) with pending := s.pending, freeCount := s.freeCount }

end Sys2Proof.Machine
end

