-- ==== Sys2Proof/Machine/Timers.lean ====
section
/-! DEFINITION. Meanings of the rows of contract timers and waiting requests (section 3.11): each acts once the time counter
has reached its deadline, and changes nothing before (logs 1 and 2). -/

namespace Sys2Proof.Machine

/-- R32: WAITING_REQUEST_HANDED. -/
def execWaitingRequestHanded (l : Line) (s : State) : StepOutcome := .next (s.handWaiting l)

/-- R45: the greeting delay expires in GREETING. -/
def execGreetingDelayExpiry (l : Line) (s : State) : StepOutcome :=
  let c := s.contract l
  if c.state = .greeting ∧ s.due c.timers.greetingDelay = true then
    .next (((s.onContract l fun c => { c with timers := { c.timers with greetingDelay := none } }).sendAnnounce l).endEvent l)
  else .next s

/-- R46: 200 ms after the report of the previous unanswered ANNOUNCE. -/
def execGreetingRetry (l : Line) (s : State) : StepOutcome :=
  let c := s.contract l
  if c.state = .greeting ∧ s.due c.timers.greetingRetry = true then
    .next (((s.onContract l fun c => { c with timers := { c.timers with greetingRetry := none } }).sendAnnounce l).endEvent l)
  else .next s

/-- R46: 5 s after the report of the previous ANNOUNCE, in BASELINE with the unmanaged marker. -/
def execSlowRegreeting (l : Line) (s : State) : StepOutcome :=
  let c := s.contract l
  if c.state = .baseline ∧ c.unmanaged = true ∧ s.due c.timers.slowRegreeting = true then
    .next (((s.onContract l fun c => { c with timers := { c.timers with slowRegreeting := none } }).sendAnnounce l).endEvent l)
  else .next s

/-- R34: the answer timer of the outstanding request is due. -/
def State.answerLate (s : State) (l : Line) : Option Exchange :=
  (s.contract l).exchange.filter fun x => s.due x.timer

/-- R32, R34: the first displaced request whose answer timer is due leaves, and its exchange is taken on. -/
def State.takeDisplaced (s : State) (l : Line) (x : Exchange) : State :=
  (s.onContract l fun c => { c with displaced := c.displaced.erase x }).expireDisplaced l x

/-- R34, R155: an answer timer expires: the last-frame flags show ANSWER_TIMEOUT and the exchange is taken on. The
outstanding request comes before those displaced (log 12). -/
def execAnswerTimeout (l : Line) (s : State) : StepOutcome :=
  let s1 := s.onHealth l fun h => { h.newEvent with answerTimeout := true }
  match s.answerLate l, (s.contract l).displaced.find? fun x => s.due x.timer with
  | some x, _ => .next ((s1.expire l x false).endEvent l)
  | none, some x => .next ((s1.takeDisplaced l x).endEvent l)
  | none, none => .next s

/-- R78: no READY within 300 ms of the GRANT. -/
def execReadyWaitExpiry (l : Line) (s : State) : StepOutcome :=
  let c := s.contract l
  if c.state = .switching ∧ s.due c.timers.readyWait = true then
    .next ((s.closeToGreeting l (some .noAnswer)).endEvent l)
  else .next s

/-- R76: after the backoff the same candidate is tried again, or the cursor moves forward (log 31). -/
def State.retryCandidate (s : State) (l : Line) : State :=
  let k := (s.contract l).cursor
  match s.candidate l k with
  | some f => s.sendClaim l k f
  | none => (s.onContract l fun c => { c with waitStreak := 0 }).advance l

/-- R76: the backoff timer expires. -/
def execBackoffExpiry (l : Line) (s : State) : StepOutcome :=
  let c := s.contract l
  if c.state = .backoff ∧ s.due c.timers.backoff = true then
    .next (((s.onContract l fun c => { c with timers := { c.timers with backoff := none } }).retryCandidate l).endEvent l)
  else .next s

/-- R28: the current a RENEW carries. -/
def Sample.measured (x : Sample) : Nat := min 320 x.current.toNat

/-- R81: the renewal timer expires in ACTIVE on a drawing line. -/
def execRenewalExpiry (l : Line) (s : State) : StepOutcome :=
  let c := s.contract l
  if c.state = .active ∧ c.role = .draw ∧ s.due c.timers.renewal = true then
    .next (((s.onContract l fun c => { c with timers := { c.timers with renewal := none } }).originateNew l .renew
      (.renew (s.channel l).latest.measured)).endEvent l)
  else .next s

/-- R79: 50 ms after READY with no sample in the window: OPEN, SEVERE VOLTAGE, FAULTED. -/
def execVoltageCheckExpiry (l : Line) (s : State) : StepOutcome :=
  let c := s.contract l
  match c.timers.voltageCheck with
  | some ready =>
      if c.state = .switching ∧ s.reached (ready + 50) = true then
        .next (((s.command l .opened).takeFault l .voltage none).endEvent l)
      else .next s
  | none => .next s

/-- R99: the lease deadline passes in ACTIVE without a RENEW. -/
def execLeaseDeadline (l : Line) (s : State) : StepOutcome :=
  let c := s.contract l
  if c.state = .active ∧ c.role = .supply ∧ s.due c.leaseDeadline = true then
    .next ((s.endToGreeting l .leaseLost .leaseLost).endEvent l)
  else .next s

/-- R103: the deadline of the recall outstanding passes. -/
def execRecallDeadline (l : Line) (s : State) : StepOutcome :=
  if s.due ((s.contract l).recallOut.bind RecallOut.deadline) then .next ((s.forceRecall l).endEvent l) else .next s

/-- R165: a verdict entry's deadline passes, so the entry leaves and its fallback is applied. -/
def execVerdictDeadline (l : Line) (s : State) : StepOutcome :=
  match s.verdictOf l with
  | some v => if s.reached v.deadline then .next (s.fallback v) else .next s
  | none => .next s

end Sys2Proof.Machine
end

