-- ==== Sys2Proof/Machine/Transmit.lean ====
section
/-! DEFINITION. Meanings of the transmit rows of a contract line (sections 1.4 to 1.6, 1.9): SEND_START, NEXT_CHARACTER_START,
ARBITRATION_LOST, FRAME_SENT, REPEAT_LIMIT, LOOP_FAILURE, TX_TIMEOUT, QUEUE_DRAINED. -/

namespace Sys2Proof.Machine

/-- The send of the present frame starts: the levels in the convention in force, the watchdog running (R2, R9, R10, R12,
R15). The first character is at its first send, or at the send in which the frame lost arbitration (R11, log 34). -/
def LineEngine.startSend (e : LineEngine) (f : TxFrame) : LineEngine :=
  { e with
    txSide := .sending
    txLevels := f.chars.map (wireChar e.convention)
    txIndex := 0
    txSends := max 1 e.txSends
    watchdog := some 0 }

/-- R10, R14: a frame in WAITING or RETRY_WAIT begins to be sent. While the watchdog expiry count stands at three no frame
leaves the line (R16, log 28). -/
def execSendStart (l : Line) (s : State) : StepOutcome :=
  let e := s.engine l
  match e.txQueue with
  | f :: _ =>
      if e.present = true ∧ e.wdCount < 3 ∧ e.rxSide = .idle ∧ (e.txSide = .waiting ∨ e.txSide = .retryWait) then
        .next (s.onEngine l fun e => e.startSend f)
      else .next s
  | [] => .next s

/-- R12, R13: the next character of the send, or the repeat of a refused one while it has been sent fewer than four
times. -/
def execNextCharacterStart (l : Line) (refused : Bool) (s : State) : StepOutcome :=
  let e := s.engine l
  if e.txSide = .sending then
    if refused then
      if e.txSends < 4 then .next (s.onEngine l fun e => { e with txSends := e.txSends + 1 }) else .next s
    else if e.txIndex + 1 < e.txLevels.length then
      .next (s.onEngine l fun e => { e with txIndex := e.txIndex + 1, txSends := 1 })
    else .next s
  else .next s

/-- R3, R11: arbitration lost during the first character: the frame waits at the head of the queue with its send count, the
watchdog stops, and the far end's character in this slot is received. -/
def execArbitrationLost (l : Line) (s : State) : StepOutcome :=
  let e := s.engine l
  if e.txSide = .sending ∧ e.txIndex = 0 then
    .next (s.onEngine l fun e =>
      { e.clearRx .receiving with
        txSide := .waiting
        txLevels := []
        txIndex := 0
        watchdog := none
        rxSlot := true
        rxLosing := true
        gapTimer := true })
  else .next s

/-- R9: the last character is accepted, so the frame is reported SENT and leaves the queue. -/
def execFrameSent (l : Line) (s : State) : StepOutcome :=
  let e := s.engine l
  match e.txQueue with
  | f :: _ =>
      if e.txSide = .sending ∧ e.txIndex + 1 = e.txLevels.length then
        .next (((s.onEngine l LineEngine.finishHead).reported l f.id).endEvent l)
      else .next s
  | [] => .next s

/-- R13: the fourth send of a character is refused. -/
def execRepeatLimit (l : Line) (s : State) : StepOutcome :=
  let e := s.engine l
  if e.txSide = .sending ∧ e.txSends = 4 then
    .next ((s.failHead l (fun h => { h with repeatLimit := true }) .repeatLimit).endEvent l)
  else .next s

/-- R14: the first loop failure of a frame: LOOP_FAIL, the fault, DISCARDING, and RETRY_WAIT. -/
def State.retryHead (s : State) (l : Line) (f : TxFrame) : State :=
  let s1 := s.onEngine l fun e =>
    { e.clearRx .discarding with
      txQueue := { f with loopFailures := 1 } :: e.txQueue.tail
      txSide := .retryWait
      txLevels := []
      txIndex := 0
      txSends := 0
      watchdog := none }
  (s1.onHealth l fun h => { h with loopFail := true }).takeFault l .loop (kindOfChars f.chars)

/-- R14: read-back does not match a driven level; the first time the frame is sent once more, the second time it fails. -/
def execLoopFailure (l : Line) (s : State) : StepOutcome :=
  let e := s.engine l
  match e.txQueue with
  | f :: _ =>
      if e.txSide = .sending then
        if f.loopFailures = 0 then .next ((s.retryHead l f).endEvent l)
        else
          .next (((s.onEngine l fun e => e.clearRx .discarding).failHead l (fun h => { h with loopFail := true })
            .loop).endEvent l)
      else .next s
  | [] => .next s

/-- R15, R16, R57, R152: the transmit watchdog expires 40 ms into a send; the third expiry of the attachment leads to
FAULTED. The FAILED report is taken on before FAULTED is entered (log 30). -/
def execTxTimeout (l : Line) (s : State) : StepOutcome :=
  let e := s.engine l
  match e.watchdog with
  | some n =>
      if e.txSide = .sending ∧ 40 ≤ n then
        let s1 := s.onEngine l fun e => { e with wdCount := e.wdCount + 1 }
        let s2 := s1.failHead l (fun h => { h with txTimeout := true }) .txTimeout
        .next ((if e.wdCount + 1 = 3 then s2.enterFaulted l else s2).endEvent l)
      else .next s
  | none => .next s

/-- R20: the queue RESET_PART left has drained, so the convention becomes UNKNOWN (log 25). -/
def execQueueDrained (l : Line) (s : State) : StepOutcome :=
  if (s.engine l).drain = some 0 then
    .next (s.onEngine l fun e => { e with convention := .unknown, drain := none })
  else .next s

end Sys2Proof.Machine
end

