-- ==== Sys2Proof/Machine/Verdicts.lean ====
section
/-! DEFINITION. Meanings of the VERDICT rows (R164, with R49, R69 and R95). -/

namespace Sys2Proof.Machine

/-- R164: a VERDICT of a decision completes: the check, the full queue, the end of AUTONOMOUS mode, the address, the entry and its tag;
then `judge` checks that the decision fits the entry and applies it. Its RESPONSE carries the tag and code 0x00. R164 gives it the
line's address; that the RESPONSE to a VERDICT of address 7, which names no line, carries address 7 is the model's choice, log
41. -/
def State.verdict (s : State) (decision : Byte) (v : VerdictReq) (judge : Line → VerdictEntry → State → State × Result) : State :=
  s.taken (verdictRaw decision v) v.check v.addr v.tag 0x00 fun t =>
    match v.addr with
    | .device => t.answer .badRequest
    | .line l =>
        match t.verdictOf l with
        | some e =>
            if e.tag = v.tag then
              let r := judge l e t
              r.1.answer r.2
            else t.answer .unknownTag
        | none => t.answer .unknownTag

/-- R164: a decision applied as the action of the same name, when the kind of the entry takes it; otherwise the entry
stands. -/
def applyAs (a : Action) (kinds : List QueryKind) (l : Line) (e : VerdictEntry) (t : State) : State × Result :=
  if e.kind ∈ kinds then ((t.dropVerdict l).applyDecision l a e.clamp, .accepted) else (t, .badRequest)

/-- R49, R69, R95: VERDICT_AUTO fits every kind. -/
def execVerdictAuto (v : VerdictReq) (s : State) : StepOutcome :=
  .next (s.verdict 0x00 v (applyAs .auto [.announce, .menuPoint, .claim]))

/-- R49, R69: VERDICT_REFUSE fits an ANNOUNCE and a MENU. -/
def execVerdictRefuse (v : VerdictReq) (s : State) : StepOutcome :=
  .next (s.verdict 0x01 v (applyAs .refuse [.announce, .menuPoint]))

/-- R95: VERDICT_DENY fits a CLAIM and sends DENY POLICY. -/
def execVerdictDeny (v : VerdictReq) (s : State) : StepOutcome := .next (s.verdict 0x04 v (applyAs .refuse [.claim]))

/-- R95: VERDICT_WAIT fits a CLAIM and sends WAIT 50. -/
def execVerdictWait (v : VerdictReq) (s : State) : StepOutcome := .next (s.verdict 0x05 v (applyAs .wait [.claim]))

/-- R69: the capacity a CHOOSE reads; absent for a STRUCK point. -/
def FarPoint.chooseCapacity (p : FarPoint) (lineClamp : Option Nat) : Option Nat :=
  match p.mark with
  | .survives => some p.capacity
  | .unqueried => some (capBy p.point.rawCapacity lineClamp)
  | .struck => none

/-- R69: the first enabled preference, in index order, that a point suits. -/
def firstSuiting (prefs : List Preference) (p : Point) : Option (Nat × Preference) :=
  ((List.range prefs.length).zip prefs).find? fun x => x.2.enabled && (x.2.suits p).isSome

/-- R69: what a fitting CHOOSE claims: cursor, claim, and its claim power; absent when the line ends (log 16). -/
def State.choice (s : State) (l : Line) (point value : Nat) : Option (Cursor × ClaimFields × Nat) :=
  let c := s.contract l
  match c.farMenu.bind fun m => m.points[point]? with
  | none => none
  | some fp =>
      match fp.chooseCapacity c.lineClamp, firstSuiting s.prefs.toList fp.point with
      | some cap, some (i, pr) =>
          let p := min value (min cap (s.drawRoom l))
          (pr.claim fp.point point p).map fun f => (⟨i, point⟩, f, p)
      | _, _ => none

/-- R69, R164: a CHOOSE fits a MENU when its point is on it and its power is at most 2500. -/
def judgeChoose (v : VerdictReq) (l : Line) (e : VerdictEntry) (t : State) : State × Result :=
  let n := ((t.contract l).farMenu.map fun m => m.points.length).getD 0
  if e.kind = .menuPoint ∧ v.point.toNat < n ∧ v.value.toNat ≤ 2500 then
    let t1 := (t.dropVerdict l).emptyDecision l
    match t1.choice l v.point.toNat v.value.toNat with
    | some (k, f, p) => ((t1.sendClaim l k f).endEvent l, if p < v.value.toNat then .adjusted else .accepted)
    | none => ((t1.noSuitablePoint l).endEvent l, .adjusted)
  else (t, .badRequest)

/-- R69: VERDICT_CHOOSE. -/
def execVerdictChoose (v : VerdictReq) (s : State) : StepOutcome := .next (s.verdict 0x02 v (judgeChoose v))

/-- R95: a GRANT verdict fits a CLAIM when its current is at most 320; the current is capped, and WAIT is sent where no
grant may follow. -/
def judgeGrant (v : VerdictReq) (l : Line) (e : VerdictEntry) (t : State) : State × Result :=
  if e.kind = .claim ∧ v.value.toNat ≤ 320 then
    match (t.contract l).decision with
    | some ⟨.claim f, tag, _, _⟩ =>
        let t1 := (t.dropVerdict l).leaveDeciding l
        let g := min v.value.toNat (f.admitted (t1.supplyRoom l))
        if (t1.contract l).recalling = true ∨ g < f.least ∨ g < 1 then
          ((t1.answerWait l tag).endEvent l, .adjusted)
        else ((t1.grantClaim l tag f g).endEvent l, if g = v.value.toNat then .accepted else .adjusted)
    | _ => (t.dropVerdict l, .accepted)
  else (t, .badRequest)

/-- R95: VERDICT_GRANT. -/
def execVerdictGrant (v : VerdictReq) (s : State) : StepOutcome := .next (s.verdict 0x03 v (judgeGrant v))

/-- R164: VERDICT_UNASSIGNED: a decision code that names no decision leaves the entry standing. -/
def execVerdictUnassigned (code : Byte) (v : VerdictReq) (s : State) : StepOutcome :=
  if code.toNat ≤ 5 then .next s else .next (s.verdict code v fun _ _ t => (t, .badRequest))

end Sys2Proof.Machine
end

