-- ==== Sys2Proof/Machine/Dispatch.lean ====
section
/-! DEFINITION. The meaning of every command: one arm per constructor, in the order of spec/opcode_table.json. -/

namespace Sys2Proof.Machine

/-- The effect of a command on everything but the queue. -/
def exec (i : Instr) (s : State) : Host.Outcome State Fault Refusal :=
  match i with
  | .powerOnReset pins => Sys2Proof.Machine.execPowerOnReset pins s
  | .attach l => Sys2Proof.Machine.execAttach l s
  | .detach l => Sys2Proof.Machine.execDetach l s
  | .conventionError l w => Sys2Proof.Machine.execConventionError l w s
  | .overLengthFrame l => Sys2Proof.Machine.execOverLengthFrame l s
  | .frameGapExpiry l => Sys2Proof.Machine.execFrameGapExpiry l s
  | .discardingEnd l => Sys2Proof.Machine.execDiscardingEnd l s
  | .malformedFrame l => Sys2Proof.Machine.execMalformedFrame l s
  | .announceReceived l => Sys2Proof.Machine.execAnnounceReceived l s
  | .menuReceived m => Sys2Proof.Machine.execMenuReceived m s
  | .claimReceived l => Sys2Proof.Machine.execClaimReceived l s
  | .grantReceived l => Sys2Proof.Machine.execGrantReceived l s
  | .denyReceived l => Sys2Proof.Machine.execDenyReceived l s
  | .waitReceived l => Sys2Proof.Machine.execWaitReceived l s
  | .readyReceived l => Sys2Proof.Machine.execReadyReceived l s
  | .renewReceived l => Sys2Proof.Machine.execRenewReceived l s
  | .keepReceived l => Sys2Proof.Machine.execKeepReceived l s
  | .recallReceived l => Sys2Proof.Machine.execRecallReceived l s
  | .yieldReceived l => Sys2Proof.Machine.execYieldReceived l s
  | .statusQReceived l => Sys2Proof.Machine.execStatusQReceived l s
  | .statusReceived l => Sys2Proof.Machine.execStatusReceived l s
  | .endingReceived l => Sys2Proof.Machine.execEndingReceived l s
  | .sendStart l => Sys2Proof.Machine.execSendStart l s
  | .arbitrationLost l => Sys2Proof.Machine.execArbitrationLost l s
  | .frameSent l => Sys2Proof.Machine.execFrameSent l s
  | .repeatLimit l => Sys2Proof.Machine.execRepeatLimit l s
  | .loopFailure l => Sys2Proof.Machine.execLoopFailure l s
  | .txTimeout l => Sys2Proof.Machine.execTxTimeout l s
  | .queueDrained l => Sys2Proof.Machine.execQueueDrained l s
  | .waitingRequestHanded l => Sys2Proof.Machine.execWaitingRequestHanded l s
  | .greetingDelayExpiry l => Sys2Proof.Machine.execGreetingDelayExpiry l s
  | .greetingRetry l => Sys2Proof.Machine.execGreetingRetry l s
  | .slowRegreeting l => Sys2Proof.Machine.execSlowRegreeting l s
  | .answerTimeout l => Sys2Proof.Machine.execAnswerTimeout l s
  | .readyWaitExpiry l => Sys2Proof.Machine.execReadyWaitExpiry l s
  | .backoffExpiry l => Sys2Proof.Machine.execBackoffExpiry l s
  | .renewalExpiry l => Sys2Proof.Machine.execRenewalExpiry l s
  | .voltageCheckExpiry l => Sys2Proof.Machine.execVoltageCheckExpiry l s
  | .leaseDeadline l => Sys2Proof.Machine.execLeaseDeadline l s
  | .recallDeadline l => Sys2Proof.Machine.execRecallDeadline l s
  | .sample tick x => Sys2Proof.Machine.execSample tick x s
  | .settleEvent l => Sys2Proof.Machine.execSettleEvent l s
  | .settleTimeout l => Sys2Proof.Machine.execSettleTimeout l s
  | .overcurrentTrip l => Sys2Proof.Machine.execOvercurrentTrip l s
  | .reverseTrip l => Sys2Proof.Machine.execReverseTrip l s
  | .holdTrip l => Sys2Proof.Machine.execHoldTrip l s
  | .capEvent l => Sys2Proof.Machine.execCapEvent l s
  | .identify r => Sys2Proof.Machine.execIdentify r s
  | .resetPart r => Sys2Proof.Machine.execResetPart r s
  | .quiet r => Sys2Proof.Machine.execQuiet r s
  | .stanceSet r => Sys2Proof.Machine.execStanceSet r s
  | .tablePut r => Sys2Proof.Machine.execTablePut r s
  | .tableGet r => Sys2Proof.Machine.execTableGet r s
  | .prefPut r => Sys2Proof.Machine.execPrefPut r s
  | .prefGet r => Sys2Proof.Machine.execPrefGet r s
  | .menuPut r => Sys2Proof.Machine.execMenuPut r s
  | .menuGet r => Sys2Proof.Machine.execMenuGet r s
  | .budgetSet r => Sys2Proof.Machine.execBudgetSet r s
  | .budgetGet r => Sys2Proof.Machine.execBudgetGet r s
  | .budgetClear r => Sys2Proof.Machine.execBudgetClear r s
  | .lineSet r => Sys2Proof.Machine.execLineSet r s
  | .pause r => Sys2Proof.Machine.execPause r s
  | .release r => Sys2Proof.Machine.execRelease r s
  | .mute r => Sys2Proof.Machine.execMute r s
  | .unmute r => Sys2Proof.Machine.execUnmute r s
  | .endLine r => Sys2Proof.Machine.execEndLine r s
  | .restart r => Sys2Proof.Machine.execRestart r s
  | .renegotiate r => Sys2Proof.Machine.execRenegotiate r s
  | .recallRequest r => Sys2Proof.Machine.execRecallRequest r s
  | .contractGet r => Sys2Proof.Machine.execContractGet r s
  | .faultGet r => Sys2Proof.Machine.execFaultGet r s
  | .faultAck r => Sys2Proof.Machine.execFaultAck r s
  | .healthGet r => Sys2Proof.Machine.execHealthGet r s
  | .healthClear r => Sys2Proof.Machine.execHealthClear r s
  | .requestUnassigned code r => Sys2Proof.Machine.execRequestUnassigned code r s
  | .verdictAuto v => Sys2Proof.Machine.execVerdictAuto v s
  | .verdictRefuse v => Sys2Proof.Machine.execVerdictRefuse v s
  | .verdictChoose v => Sys2Proof.Machine.execVerdictChoose v s
  | .verdictGrant v => Sys2Proof.Machine.execVerdictGrant v s
  | .verdictDeny v => Sys2Proof.Machine.execVerdictDeny v s
  | .verdictWait v => Sys2Proof.Machine.execVerdictWait v s
  | .verdictDeadline l => Sys2Proof.Machine.execVerdictDeadline l s
  | .linkFrameMalformed before last => Sys2Proof.Machine.execLinkFrameMalformed before last s
  | .linkFrameTruncated => Sys2Proof.Machine.execLinkFrameTruncated s
  | .skippingEnd => Sys2Proof.Machine.execSkippingEnd s
  | .linkRestart => Sys2Proof.Machine.execLinkRestart s
  | .transmitChoice => Sys2Proof.Machine.execTransmitChoice s
  | .transmitEnd => Sys2Proof.Machine.execTransmitEnd s
  | .startEdge l => Sys2Proof.Machine.execStartEdge l s
  | .characterAccepted l w => Sys2Proof.Machine.execCharacterAccepted l w s
  | .errorPulse l w => Sys2Proof.Machine.execErrorPulse l w s
  | .nextCharacterStart l refused => Sys2Proof.Machine.execNextCharacterStart l refused s
  | .linkStartBit quiet => Sys2Proof.Machine.execLinkStartBit quiet s
  | .lineCtrlUnassigned r => Sys2Proof.Machine.execLineCtrlUnassigned r s
  | .verdictUnassigned code v => Sys2Proof.Machine.execVerdictUnassigned code v s

end Sys2Proof.Machine
end

