-- ==== Sys2Proof/WellFormed.lean ====
section
/-! DEFINITION. Well-formed commands: what the surroundings may send as each row. `exec` is total on ill-formed ones as well;
it refuses none and lets each have no more than the row's own effect (log 1). -/

namespace Sys2Proof

/-- R158: the arguments of a REQUEST: a body of at most 60 characters less number and code. -/
def Req.wellFormed (r : Req) : Bool := decide (r.args.length ≤ 58)

/-- A LINE_CTRL row's arguments follow the action character, so one more character is gone. -/
def Req.wellFormedAction (r : Req) : Bool := decide (r.args.length ≤ 57)

/-- R138: one SAMPLE brings each line at most once, and a step of the counter brings all four unless the instant's samples
are split (log 2). -/
def readingsDistinct (rs : List Reading) : Bool := decide (rs.map Reading.line).Nodup

/-- R109: a TABLE_PUT between two queries of a filtering: after that of point 0, and before one of at most 6 points (R25). -/
def MidRequest.between (m : MidRequest) : Bool := decide (1 ≤ m.point ∧ m.point ≤ 5) && m.req.wellFormed

/-- The check of a command. -/
def Instr.wellFormed : Instr → Bool
  | .conventionError _ w => w.parityOk && !(w.data == 0x3A) && !(w.data == 0xA3)
  | .characterAccepted _ w => w.parityOk
  | .errorPulse _ w => !w.parityOk
  | .menuReceived m => m.mid.all fun p => p.line == m.line && p.between
  | .sample _ x => readingsDistinct x.readings && x.mid.all MidRequest.between
  | .identify r | .resetPart r | .quiet r | .stanceSet r | .tablePut r | .tableGet r | .prefPut r | .prefGet r
  | .menuPut r | .menuGet r | .budgetSet r | .budgetGet r | .budgetClear r | .lineSet r | .contractGet r | .faultGet r
  | .faultAck r | .healthGet r | .healthClear r => r.wellFormed
  | .pause r | .release r | .mute r | .unmute r | .endLine r | .restart r | .renegotiate r | .recallRequest r =>
      r.wellFormedAction
  | .lineCtrlUnassigned r => r.wellFormed && !Machine.actionAssigned r.args
  | .requestUnassigned code r => r.wellFormed && decide (code ∉ Machine.requestCodes)
  | .verdictUnassigned code _ => decide (5 < code.toNat)
  | .linkFrameMalformed before last => (Machine.judgeLink (before ++ [last])).isSome
  | _ => true

end Sys2Proof
end

