-- ==== Sys2Proof/Safety.lean ====
section
/-! DEFINITION. What the statements speak of: the properties that every command keeps, the line a command is about, and what
such a command leaves to the other lines. -/

namespace Sys2Proof

namespace Machine

/-! ### The system link unit -/

/-- R167: no two notices with the same source and kind. -/
abbrev NoticesDistinct (ns : List Notice) : Prop := (ns.map fun n => (n.source, n.body.kind)).Nodup

/-- R162: at most one verdict entry per line. -/
abbrev VerdictsDistinct (vs : List VerdictEntry) : Prop := (vs.map VerdictEntry.line).Nodup

/-- R174: the verdict queue is empty whenever the mode is AUTONOMOUS. -/
abbrev LinkUnit.quietEmpty (u : LinkUnit) : Prop := u.mode = .autonomous → u.verdicts = []

/-- R172, R175, R176: in RUNNING mode the wake set is empty and WAKE deasserted. -/
abbrev LinkUnit.wakeRests (u : LinkUnit) : Prop := u.mode = .running → u.wake = false ∧ u.wakeSet = 0

/-! ### The budget unit -/

/-- R123, R126: the grant order list names a line at most once, and each line's supply commitment is its entry's, or 0. -/
def Budget.OrderOk (b : Budget) : Prop :=
  (b.order.map GrantEntry.line).Nodup ∧
    ∀ l, b.supplyCommit.get l = ((b.order.find? fun g => g.line == l).map GrantEntry.commitment).getD 0

/-- R122: the line rank names each line once. -/
abbrev Budget.RankOk (b : Budget) : Prop := b.rank.Nodup ∧ b.rank.length = 4

/-- R123, R125: the committed sums are the sums of the commitments, each headroom is its ceiling less its sum and never below
0, and a sum above its ceiling has its over flag set. -/
abbrev Budget.SumsOk (b : Budget) : Prop :=
  b.committedDraw = b.drawCommit.l0 + b.drawCommit.l1 + b.drawCommit.l2 + b.drawCommit.l3 ∧
    b.committedSupply = (b.order.map GrantEntry.commitment).sum ∧
    b.drawHeadroom = b.inputCeiling - b.committedDraw ∧ b.supplyHeadroom = b.supplyCeiling - b.committedSupply ∧
    (b.inputCeiling < b.committedDraw → b.drawOver = true) ∧ (b.supplyCeiling < b.committedSupply → b.supplyOver = true)

/-- A line's baseline current (R62). -/
def State.baseOf (s : State) (l : Line) : Nat := (s.contract l).options.baseline

/-- R128, R129, R137: the allocations are those of the copies, the rank, the ceiling and the baseline currents as they stand,
and each channel holds the current of its line's. -/
def State.AllocationsCurrent (s : State) : Prop :=
  s.budget.alloc = s.budget.share s.baseOf s.budget.rank (s.budget.inputCeiling - s.budget.floors s.baseOf) ∧
    ∀ l, (s.channel l).allocation = (s.budget.alloc.get l).map Allocation.current

/-! ### Counts and options -/

/-- R112, R149, R152: the counts that stop at their greatest value. -/
def State.CountsBounded (s : State) : Prop :=
  (∀ i : Fin 32, (s.rules.get i).hits ≤ 65535) ∧ ∀ l, (s.captures.get l).count ≤ 255 ∧ s.strikes.get l ≤ 255

/-- R60, R62: every line's permitted roles are among those its latched straps grant. -/
def State.RolesStrapped (s : State) : Prop := ∀ l, (s.contract l).options.roles.within (s.straps.get l).roles = true

/-- R9: no transmit queue holds more than 4 frames. -/
def State.QueuesBounded (s : State) : Prop := ∀ l, (s.engine l).txQueue.length ≤ 4

/-! ### The path and the contract state -/

/-- R144: a channel whose trip flag is set has a fault report pending. -/
abbrev Channel.TripPends (ch : Channel) : Prop := ch.tripped = true → ch.due.any = true

/-- R43, section 8.1, R136, R144: the role is a role of the contract's state; and the command in force is that state's, unless
the channel has tripped and the fault of the trip is still to be reported. -/
abbrev State.LineSound (s : State) (l : Line) : Prop :=
  roleOf (s.contract l).state (s.contract l).role = (s.contract l).role ∧ (s.channel l).TripPends ∧
    ((s.channel l).tripped = true ∨ (s.channel l).command = (s.contract l).path)

/-- R43, section 8.1, R144: the line's channel has not tripped, its command in force is the one of the contract's state, and
the role is a role of that state. -/
abbrev State.LineSettled (s : State) (l : Line) : Prop :=
  (s.channel l).tripped = false ∧ (s.channel l).command = (s.contract l).path ∧
    roleOf (s.contract l).state (s.contract l).role = (s.contract l).role

/-! ### The line of a command -/

end Machine

/-- The line an address names. -/
def Addr.line? : Addr → Option Line
  | .line l => some l
  | .device => none

/-- The one line a command is about; absent for a command of the part as a whole, of the system link, or of all lines, and
for a MENU within whose filtering a TABLE_PUT falls. -/
def Instr.line? : Instr → Option Line
  | .attach l | .detach l | .conventionError l _ | .overLengthFrame l | .frameGapExpiry l | .discardingEnd l
  | .malformedFrame l | .announceReceived l | .menuReceived ⟨l, none⟩ | .claimReceived l | .grantReceived l | .denyReceived l
  | .waitReceived l | .readyReceived l | .renewReceived l | .keepReceived l | .recallReceived l | .yieldReceived l
  | .statusQReceived l | .statusReceived l | .endingReceived l | .sendStart l | .arbitrationLost l | .frameSent l
  | .repeatLimit l | .loopFailure l | .txTimeout l | .queueDrained l | .waitingRequestHanded l | .greetingDelayExpiry l
  | .greetingRetry l | .slowRegreeting l | .answerTimeout l | .readyWaitExpiry l | .backoffExpiry l | .renewalExpiry l
  | .voltageCheckExpiry l | .leaseDeadline l | .recallDeadline l | .settleEvent l | .settleTimeout l | .overcurrentTrip l
  | .reverseTrip l | .holdTrip l | .capEvent l | .verdictDeadline l | .startEdge l | .characterAccepted l _
  | .errorPulse l _ | .nextCharacterStart l _ => some l
  | .lineSet r | .pause r | .release r | .mute r | .unmute r | .endLine r | .restart r | .renegotiate r
  | .recallRequest r | .lineCtrlUnassigned r | .contractGet r | .faultGet r | .faultAck r | .healthGet r
  | .healthClear r => r.addr.line?
  | .verdictAuto v | .verdictRefuse v | .verdictChoose v | .verdictGrant v | .verdictDeny v | .verdictWait v
  | .verdictUnassigned _ v => v.addr.line?
  | _ => none

/-- The commands that are a REQUEST or a VERDICT of the system controller (sections 10.2 and 10.4). -/
def Instr.asks : Instr → Bool
  | .identify _ | .resetPart _ | .quiet _ | .stanceSet _ | .tablePut _ | .tableGet _ | .prefPut _ | .prefGet _ | .menuPut _
  | .menuGet _ | .budgetSet _ | .budgetGet _ | .budgetClear _ | .lineSet _ | .pause _ | .release _ | .mute _ | .unmute _
  | .endLine _ | .restart _ | .renegotiate _ | .recallRequest _ | .contractGet _ | .faultGet _ | .faultAck _
  | .healthGet _ | .healthClear _ | .requestUnassigned _ _ | .lineCtrlUnassigned _ | .verdictAuto _ | .verdictRefuse _
  | .verdictChoose _ | .verdictGrant _ | .verdictDeny _ | .verdictWait _ | .verdictUnassigned _ _ => true
  | _ => false

namespace Machine

/-- R157: what the check of a REQUEST or VERDICT command is computed over, and the check it brings. -/
def linkCheck? : Instr → Option (List Byte × Byte)
  | .identify r => some (requestRaw r.addr r.num 0x01 r.args, r.check)
  | .resetPart r => some (requestRaw r.addr r.num 0x02 r.args, r.check)
  | .quiet r => some (requestRaw r.addr r.num 0x03 r.args, r.check)
  | .stanceSet r => some (requestRaw r.addr r.num 0x04 r.args, r.check)
  | .tablePut r => some (requestRaw r.addr r.num 0x10 r.args, r.check)
  | .tableGet r => some (requestRaw r.addr r.num 0x11 r.args, r.check)
  | .prefPut r => some (requestRaw r.addr r.num 0x12 r.args, r.check)
  | .prefGet r => some (requestRaw r.addr r.num 0x13 r.args, r.check)
  | .menuPut r => some (requestRaw r.addr r.num 0x14 r.args, r.check)
  | .menuGet r => some (requestRaw r.addr r.num 0x15 r.args, r.check)
  | .budgetSet r => some (requestRaw r.addr r.num 0x20 r.args, r.check)
  | .budgetGet r => some (requestRaw r.addr r.num 0x21 r.args, r.check)
  | .budgetClear r => some (requestRaw r.addr r.num 0x22 r.args, r.check)
  | .lineSet r => some (requestRaw r.addr r.num 0x30 r.args, r.check)
  | .pause r => some (requestRaw r.addr r.num 0x31 (1 :: r.args), r.check)
  | .release r => some (requestRaw r.addr r.num 0x31 (2 :: r.args), r.check)
  | .mute r => some (requestRaw r.addr r.num 0x31 (3 :: r.args), r.check)
  | .unmute r => some (requestRaw r.addr r.num 0x31 (4 :: r.args), r.check)
  | .endLine r => some (requestRaw r.addr r.num 0x31 (5 :: r.args), r.check)
  | .restart r => some (requestRaw r.addr r.num 0x31 (6 :: r.args), r.check)
  | .renegotiate r => some (requestRaw r.addr r.num 0x31 (7 :: r.args), r.check)
  | .recallRequest r => some (requestRaw r.addr r.num 0x31 (8 :: r.args), r.check)
  | .lineCtrlUnassigned r => some (requestRaw r.addr r.num 0x31 r.args, r.check)
  | .contractGet r => some (requestRaw r.addr r.num 0x32 r.args, r.check)
  | .faultGet r => some (requestRaw r.addr r.num 0x33 r.args, r.check)
  | .faultAck r => some (requestRaw r.addr r.num 0x34 r.args, r.check)
  | .healthGet r => some (requestRaw r.addr r.num 0x35 r.args, r.check)
  | .healthClear r => some (requestRaw r.addr r.num 0x36 r.args, r.check)
  | .requestUnassigned code r => some (requestRaw r.addr r.num code r.args, r.check)
  | .verdictAuto v => some (verdictRaw 0 v, v.check)
  | .verdictRefuse v => some (verdictRaw 1 v, v.check)
  | .verdictChoose v => some (verdictRaw 2 v, v.check)
  | .verdictGrant v => some (verdictRaw 3 v, v.check)
  | .verdictDeny v => some (verdictRaw 4 v, v.check)
  | .verdictWait v => some (verdictRaw 5 v, v.check)
  | .verdictUnassigned code v => some (verdictRaw code v, v.check)
  | _ => none

/-! ### What a command about one line leaves alone -/

/-- The contract records are the same but for the offered menu and the tag counter. -/
def Contract.SameButOffer (c d : Contract) : Prop :=
  { c with offered := none, tagCounter := 0 } = { d with offered := none, tagCounter := 0 }

/-- The line engines are the same but for frames handed. -/
def LineEngine.SameButQueue (e d : LineEngine) : Prop :=
  { e with txQueue := [], txSide := .idle, nextId := 0 } = { d with txQueue := [], txSide := .idle, nextId := 0 }

/-- Section 00 section 2, R91, R127, R129: what an event of line `l` leaves alone. Another line keeps its whole contract
record and line engine, unless its menu is held in OFFERING: then a rise of the supply headroom may send it a MENU, and no
more. Its channel keeps everything but its allocation. The rule entries keep all but their hit counts. -/
structure LineFrame (l : Line) (s t : State) : Prop where
  now : t.now = s.now
  straps : t.straps = s.straps
  prefs : t.prefs = s.prefs
  menu : t.menu = s.menu
  rules : ∀ i : Fin 32, { t.rules.get i with hits := 0 } = { s.rules.get i with hits := 0 }
  ceilings : t.budget.inputCeiling = s.budget.inputCeiling ∧ t.budget.supplyCeiling = s.budget.supplyCeiling ∧
    t.budget.rank = s.budget.rank
  commitments : ∀ m, m ≠ l → t.budget.drawCommit.get m = s.budget.drawCommit.get m ∧
    t.budget.drawCopy.get m = s.budget.drawCopy.get m ∧ t.budget.supplyCommit.get m = s.budget.supplyCommit.get m
  captures : ∀ m, m ≠ l → t.captures.get m = s.captures.get m
  strikes : ∀ m, m ≠ l → t.strikes.get m = s.strikes.get m
  channels : ∀ m, m ≠ l → { t.channel m with allocation := none } = { s.channel m with allocation := none }
  lines : ∀ m, m ≠ l → (s.contract m).awaitsRise = false →
    t.contract m = s.contract m ∧ t.engine m = s.engine m
  waiting : ∀ m, m ≠ l → (t.contract m).SameButOffer (s.contract m) ∧ (t.engine m).SameButQueue (s.engine m)
  verdicts : ∀ m, m ≠ l → t.verdictOf m = s.verdictOf m
  notices : ∀ m, m ≠ l → (t.link.notices.filter fun n => n.source == .line m) =
    s.link.notices.filter fun n => n.source == .line m

/-! ### Where a command finds the part -/

/-- R157, R160: a REQUEST or VERDICT that completes now is taken: the receiver is RECEIVING it, and the response queue has
room. -/
abbrev State.Takes (s : State) : Prop := s.link.receiver = .receiving ∧ s.link.responses.length < 4

/-- R157, R176: the state a request or verdict acts on: the receiver is IDLE, and AUTONOMOUS mode has ended. -/
def State.acting (s : State) : State :=
  (s.onLink fun u => { u with receiver := .idle }).onLink LinkUnit.endAutonomous

/-- R5, R22: the complete, well-formed frame `f` stands in the line's receive side, and the line has a contract. -/
abbrev State.Arrives (s : State) (l : Line) (f : Frame) : Prop :=
  (s.engine l).frameReady = true ∧ validate (s.engine l).rxChars = .wellFormed f ∧ (s.contract l).state ≠ .detached

/-- R5, R45, R155: the state in which an arriving frame is taken: the receive side is IDLE, the last-frame flags are clear,
and a running greeting delay has been restarted. -/
def State.arrived (s : State) (l : Line) : State :=
  (s.onEngine l fun e =>
    { e with
      rxSide := .idle
      rxChars := []
      rxExpected := none
      rxSlot := false
      rxLosing := false
      refusing := false
      gapTimer := false
      health := { e.health with malformed := false, shortFrame := false, strayAnswer := false, answerTimeout := false } }
  ).onContract l fun c =>
    { c with timers := { c.timers with greetingDelay := c.timers.greetingDelay.map fun _ => s.now + 50 } }

/-- R9: the transmit side can take one more frame, no request is outstanding and none waits. -/
abbrev State.MaySend (s : State) (l : Line) : Prop :=
  (s.engine l).accepts = true ∧ (s.contract l).exchange = none ∧ (s.contract l).waiting = none

/-- The notice set holds this notice. -/
def State.Told (s : State) (l : Line) (time : Time) (body : NoticeBody) : Prop :=
  (⟨.line l, time, body⟩ : Notice) ∈ s.link.notices

/-- R52: what a closing leaves on its line: nothing asked, agreed or offered, nothing committed, no verdict entry, the energy
accumulator at 0, the new state with its role and outcome, the path OPEN, and an ENDED notice where a role was held. -/
structure ClosedTo (l : Line) (s t : State) (st : CState) (r : Role) (o : Option Outcome) : Prop where
  state : (t.contract l).state = st
  role : (t.contract l).role = r
  outcome : (t.contract l).lastOutcome = o
  requests : (t.contract l).exchange = none ∧ (t.contract l).waiting = none ∧ (t.contract l).displaced = [] ∧
    (t.contract l).decision = none
  record : (t.contract l).agreement = none ∧ (t.contract l).claim = none ∧ (t.contract l).grant = none ∧
    (t.contract l).recallOut = none ∧ (t.contract l).target = none ∧ (t.contract l).leaseDeadline = none ∧
    (t.contract l).offered = none ∧ (t.contract l).farMenu = none ∧ (t.contract l).cursor = ⟨0, 0⟩ ∧
    (t.contract l).waitStreak = 0 ∧ (t.contract l).deferred = false
  budget : t.budget.drawCommit.get l = 0 ∧ t.budget.drawCopy.get l = none ∧ t.budget.supplyCommit.get l = 0 ∧
    ∀ g ∈ t.budget.order, g.line ≠ l
  verdict : t.verdictOf l = none
  path : (t.channel l).command = .opened ∧ (t.channel l).energy = 0
  told : (s.contract l).role ≠ .none → t.Told l s.now (.ended (s.contract l).role st o)

/-- R34: where an answer timer that starts now ends, by the line's timeout index. -/
def State.answerEnd (s : State) (l : Line) : Time :=
  s.now + (match (s.contract l).options.timeoutIndex with
    | 0 => 10
    | 1 => 25
    | 2 => 60
    | _ => 150)

/-- R34: the requests that the answer timeout times. -/
abbrev Request.Timed (r : Request) : Prop := r.kind = .announce ∨ r.kind = .claim ∨ r.kind = .renew

/-- R9, R32, R34: a request has been handed and is the outstanding one: its frame has joined the tail of the transmit queue; where
the transmit side takes no frame it is dropped, and the answer timer runs from now. -/
structure RequestHanded (l : Line) (s t : State) (r : Request) : Prop where
  outstanding :
    let dropped := (s.engine l).accepts = false ∧ r.Timed
    (t.contract l).exchange = some ⟨r.kind, r.tag, r.chars, (s.engine l).nextId, r.expiries,
      if dropped then some (s.answerEnd l) else none, if dropped then some s.now else none⟩
  queue : (t.engine l).txQueue =
    (s.engine l).txQueue ++ (if (s.engine l).accepts then [⟨(s.engine l).nextId, r.chars, 0⟩] else [])

/-- R32: what the originating of a request leaves on its line: it is handed at once where no request is outstanding and none
waits; where one waits that one is handed first; behind an outstanding one the new request waits, unhanded, in the place of one
that waits already, which is then timed as one reported DROPPED now (log 12). -/
structure Requested (l : Line) (s t : State) (r : Request) : Prop where
  atOnce : (s.contract l).exchange = none → (s.contract l).waiting = none →
    RequestHanded l s t r ∧ (t.contract l).waiting = none ∧ (t.contract l).displaced = (s.contract l).displaced
  afterWaiting : ∀ w, (s.contract l).exchange = none → (s.contract l).waiting = some w →
    RequestHanded l s t w ∧ (t.contract l).waiting = some r ∧ (t.contract l).displaced = (s.contract l).displaced
  behind : ∀ x, (s.contract l).exchange = some x →
    (t.contract l).exchange = some x ∧ (t.contract l).waiting = some r ∧ (t.engine l).txQueue = (s.engine l).txQueue ∧
    ((s.contract l).waiting = none → (t.contract l).displaced = (s.contract l).displaced) ∧
    ∀ w, (s.contract l).waiting = some w → (t.contract l).displaced = (s.contract l).displaced ++
      (if w.Timed then [⟨w.kind, w.tag, w.chars, 0, w.expiries, some (s.answerEnd l), some s.now⟩] else [])

/-- R32, R73: what the claiming of a candidate leaves on its line: the CLAIM with a new tag is handed, or waits behind the
request outstanding, such as a RENEW; in both cases its power is reserved. -/
structure ClaimSent (l : Line) (s t : State) (k : Cursor) (f : ClaimFields) : Prop where
  state : (t.contract l).state = .claiming
  cursor : (t.contract l).cursor = k
  claim : (t.contract l).claim = some ⟨f, (s.contract l).tagCounter⟩
  tag : (t.contract l).tagCounter = (s.contract l).tagCounter + 1
  request : Requested l s t
    ⟨.claim, (s.contract l).tagCounter, (Frame.mk (s.contract l).tagCounter (.claim f)).chars, 0⟩
  reserved : t.budget.drawCommit.get l =
    max (((s.contract l).agreement.map fun a => a.voltage * a.current / 200).getD 0) (f.voltage * f.claimed / 200)
  agreement : (t.contract l).agreement = (s.contract l).agreement

/-- R9: a frame has joined the tail of the line's transmit queue, and nothing else of the queue has changed. -/
def Handed (l : Line) (s t : State) (f : Frame) : Prop :=
  (t.engine l).txQueue = (s.engine l).txQueue ++ [⟨(s.engine l).nextId, f.chars, 0⟩]

/-- R9: a frame has been handed: it has joined the tail of the line's transmit queue, or is dropped where the transmit side takes
no frame; nothing else of the queue has changed. -/
def HandedOrDropped (l : Line) (s t : State) (f : Frame) : Prop :=
  (t.engine l).txQueue =
    (s.engine l).txQueue ++ (if (s.engine l).accepts then [⟨(s.engine l).nextId, f.chars, 0⟩] else [])

/-- R9: two frames have joined the tail of the line's transmit queue, one after the other. -/
def HandedBoth (l : Line) (s t : State) (f g : Frame) : Prop :=
  (t.engine l).txQueue = (s.engine l).txQueue ++ [⟨(s.engine l).nextId, f.chars, 0⟩, ⟨(s.engine l).nextId + 1, g.chars, 0⟩]

/-- R150, R152: what the taking of a fault that happened at a given time, with the contract in a state, leaves in the fault
unit, with its notice. -/
structure FaultTakenIn (l : Line) (s t : State) (st : CState) (cause : Cause) (kind : Option FrameKind) (stamp : Time) :
    Prop where
  capture : t.captures.get l = ((s.captures.get l).take cause st kind stamp).1
  told : ((s.captures.get l).take cause st kind stamp).2 = true →
    t.Told l s.now (.fault ((s.captures.get l).take cause st kind stamp).1)
  strikes : t.strikes.get l =
    if cause.cls = .link then min 255 (s.strikes.get l + 1) else s.strikes.get l

/-- The fault happens now, and is taken with the contract in the state it had. -/
abbrev FaultTaken (l : Line) (s t : State) (cause : Cause) (kind : Option FrameKind) : Prop :=
  FaultTakenIn l s t (s.contract l).state cause kind s.now

/-- The action that a query's answer comes to: a FORWARD in AUTONOMOUS mode is its fallback at once (R116). -/
def State.actionOf (s : State) (q : Query) : Action :=
  let a := s.answerOf q
  if a.action = .forward ∧ s.link.mode = .autonomous then a.fallback else a.action

/-- R108: the query of a point of a MENU. -/
def State.pointAnswer (s : State) (l : Line) (p : Point) (i : Nat) : Answer :=
  s.answerOf ⟨l, .menuPoint, (s.contract l).far.map FarFields.cls, (s.contract l).far.map FarFields.identity, p.v1, p.v2,
    p.rawCapacity, i⟩

/-- R67: no point of a MENU is answered FORWARD. -/
abbrev State.NoForward (s : State) (l : Line) (pts : List Point) : Prop :=
  ∀ (i : Nat) (p : Point), pts[i]? = some p → (s.pointAnswer l p i).action ≠ .forward

/-- R67, R69: a point as an action marks it: its capacity under AUTO and CLAMP, capped by the line clamp. -/
def markedBy (act : Action) (clamp : Nat) (lineClamp : Option Nat) (p : Point) : FarPoint :=
  match act with
  | .auto => ⟨p, .survives, capBy p.rawCapacity lineClamp⟩
  | .clamp => ⟨p, .survives, capBy (min p.rawCapacity clamp) lineClamp⟩
  | .refuse | .wait | .forward => ⟨p, .struck, 0⟩

/-- R67: a point of a MENU as its own query marks it. -/
def State.markOf (s : State) (l : Line) (i : Nat) (p : Point) : FarPoint :=
  markedBy (s.pointAnswer l p i).action (s.pointAnswer l p i).clamp (s.contract l).lineClamp p

/-- R67, R109: the points of a MENU within whose filtering a request falls: those before point `n` as the table judged them
before it, the others as the table of `u`, the state after it, does. -/
def State.marksUpTo (s u : State) (l : Line) (n : Nat) (pts : List Point) : List FarPoint :=
  pts.mapIdx fun i p => if i < n then s.markOf l i p else u.markOf l i p

/-- R67, R109: no point of such a MENU is answered FORWARD. -/
abbrev State.NoForwardUpTo (s u : State) (l : Line) (n : Nat) (pts : List Point) : Prop :=
  ∀ (i : Nat) (p : Point), pts[i]? = some p → ((if i < n then s else u).pointAnswer l p i).action ≠ .forward

/-- R71: the claim of a filtered point under a preference. -/
def State.claimOf (s : State) (l : Line) (pts : List FarPoint) (k : Cursor) : Option ClaimFields :=
  match s.prefs.toList[k.pref]?, pts[k.point]? with
  | some pr, some p =>
      if pr.enabled = true ∧ p.mark = .survives then
        pr.claim p.point k.point (min pr.wanted (min p.capacity (s.drawRoom l)))
      else none
  | _, _ => none

/-- R72: the candidate at one cursor is tried before that at another: preference by preference, and point by point in each. -/
abbrev Cursor.before (j k : Cursor) : Prop := j.pref < k.pref ∨ (j.pref = k.pref ∧ j.point < k.point)

/-- R72: the first candidate, preference by preference and point by point, that can be claimed. -/
def State.firstClaim (s : State) (l : Line) (pts : List FarPoint) : Option (Cursor × ClaimFields) :=
  (cursorsFrom ⟨0, 0⟩ pts.length).findSome? fun k => (s.claimOf l pts k).map fun f => (k, f)

/-- R45, R49, R50: what the accepting of a far ANNOUNCE of a class leaves on its line under a line clamp: the answer of the
device where the ANNOUNCE was initiating, then the role decided, which hands the MENU of a supplier or the ENDING ROLE. -/
structure RoleDecided (l : Line) (s t : State) (answering : Bool) (cls : FarClass) (clamp : Option Nat) : Prop where
  clamped : (t.contract l).lineClamp = clamp ∧ (t.contract l).greetingStopped = false
  drawing : (cls = .supplier ∨ cls = .both) ∧ (s.contract l).options.roles.draw = true →
    (t.contract l).state = .awaitMenu ∧ (t.contract l).role = .draw ∧ (t.contract l).cursor = ⟨0, 0⟩ ∧
    (t.contract l).waitStreak = 0 ∧ (t.contract l).timers = ⟨none, none, none, none, none, none, none, none⟩ ∧
    (t.contract l).lastOutcome = (s.contract l).lastOutcome ∧
    (t.channel l).command = ⟨.draw, 0, (s.contract l).options.baseline, false, ⟨true, false, false, false, none⟩⟩ ∧
    (answering = true → (t.engine l).txQueue = (s.engine l).txQueue) ∧
    (answering = false → Handed l s t ⟨1, s.announce l true⟩)
  supplying : ¬((cls = .supplier ∨ cls = .both) ∧ (s.contract l).options.roles.draw = true) →
    (cls = .consumer ∨ cls = .both) ∧ (s.contract l).options.roles.supply = true →
    let points := s.menu.toList.filterMap fun e =>
      e.offer (capBy (s.budget.supplyHeadroom + s.budget.supplyCommit.get l) clamp)
    (t.contract l).state = .offering ∧ (t.contract l).role = .supply ∧
    (t.contract l).lastOutcome = (s.contract l).lastOutcome ∧ (t.contract l).offered = some ⟨points, points.isEmpty⟩ ∧
    (t.channel l).command = ⟨.supply, 250, (s.contract l).options.baseline, false, ⟨false, true, false, false, none⟩⟩ ∧
    (answering = true → (points = [] → (t.engine l).txQueue = (s.engine l).txQueue) ∧
      (points ≠ [] → Handed l s t ⟨(s.contract l).tagCounter, .menu true points⟩)) ∧
    (answering = false → (points = [] → Handed l s t ⟨1, s.announce l true⟩) ∧
      (points ≠ [] → (s.engine l).txQueue.length < 3 →
        HandedBoth l s t ⟨1, s.announce l true⟩ ⟨(s.contract l).tagCounter, .menu true points⟩))
  neither : ¬((cls = .supplier ∨ cls = .both) ∧ (s.contract l).options.roles.draw = true) →
    ¬((cls = .consumer ∨ cls = .both) ∧ (s.contract l).options.roles.supply = true) →
    (t.contract l).state = .blocked ∧ (t.contract l).role = .none ∧ (t.contract l).lastOutcome = some .noRole ∧
    (t.channel l).command = .opened ∧
    (answering = true → Handed l s t ⟨(s.contract l).tagCounter, .ending .role⟩) ∧
    (answering = false → (s.engine l).txQueue.length < 3 →
      HandedBoth l s t ⟨1, s.announce l true⟩ ⟨(s.contract l).tagCounter, .ending .role⟩)

/-- R48, R52: what a far-end restart leaves on its line before the ANNOUNCE is processed: GREETING with its timers stopped,
nothing asked, agreed or offered, nothing committed, the flags, the tag counter and the path as they stand, and an ENDED
notice where a role was held. -/
structure Restarted (l : Line) (s t : State) : Prop where
  state : (t.contract l).state = .greeting ∧ (t.contract l).role = .none ∧ (t.contract l).greetingCount = 0 ∧
    (t.contract l).timers = ⟨none, none, none, none, none, none, none, none⟩
  outcome : (t.contract l).lastOutcome = (if (s.contract l).role = .none then (s.contract l).lastOutcome else some .endedByFar)
  record : (t.contract l).waiting = none ∧ (t.contract l).displaced = [] ∧ (t.contract l).decision = none ∧
    (t.contract l).agreement = none ∧ (t.contract l).claim = none ∧ (t.contract l).grant = none ∧
    (t.contract l).recallOut = none ∧ (t.contract l).target = none ∧ (t.contract l).leaseDeadline = none ∧
    (t.contract l).offered = none ∧ (t.contract l).farMenu = none ∧ (t.contract l).deferred = false
  kept : (t.contract l).lastFrameFault = (s.contract l).lastFrameFault ∧ (t.contract l).paused = (s.contract l).paused ∧
    (t.contract l).tagCounter = (s.contract l).tagCounter ∧ (t.contract l).options = (s.contract l).options
  budget : t.budget.drawCommit.get l = 0 ∧ t.budget.drawCopy.get l = none ∧ t.budget.supplyCommit.get l = 0
  lines : t.engine l = s.engine l ∧ (t.channel l).command = (s.channel l).command ∧ (t.channel l).energy = 0
  told : (s.contract l).role ≠ .none → t.Told l s.now (.ended (s.contract l).role .greeting (some .endedByFar))
  others : LineFrame l s t

/-- R69, R71, R72: what selection over the marked points of a far menu leaves: the first candidate that can be claimed is
claimed, or the line ends in BASELINE with NO_SUITABLE_POINT. -/
structure Selected (l : Line) (s t : State) (raw : List Byte) (marks : List FarPoint) : Prop where
  menu : (t.contract l).farMenu = some ⟨raw, marks⟩
  claimed : ∀ k f, s.firstClaim l marks = some (k, f) → ClaimSent l s t k f
  ended : s.firstClaim l marks = none → (t.contract l).state = .baseline ∧ (t.contract l).role = .draw ∧
    (t.contract l).lastOutcome = some .noSuitablePoint ∧ (t.contract l).agreement = none ∧
    t.budget.drawCommit.get l = 0 ∧ HandedOrDropped l s t ⟨(s.contract l).tagCounter, .ending .noSuitablePoint⟩

/-- R93: the current that a room of supply power admits to a CLAIM. -/
def ClaimFields.claimOfRoom (f : ClaimFields) (room : Nat) : Nat := min f.claimed (room * 200 / f.voltage)

/-- R96, R146: what the granting of a CLAIM leaves on its line: the grant being powered, the GRANT handed, the power reserved
and the path commanded with the settle watch begun; on a capped line whose running allowance is 0 already the cap event is
reported (it stands latched, log 9). -/
structure GrantGiven (l : Line) (s t : State) (tag : Tag) (f : ClaimFields) (granted : Nat) : Prop where
  state : (t.contract l).state = .powering
  role : (t.contract l).role = .supply
  grant : (t.contract l).grant = some ⟨f.voltage, granted, (s.contract l).options.lease, f.point, tag⟩
  decision : (t.contract l).decision = none
  verdict : t.verdictOf l = none
  handed : Handed l s t ⟨tag, .grant granted (s.contract l).options.lease⟩
  reserved : t.budget.supplyCommit.get l =
    max (((s.contract l).agreement.map fun a => a.voltage * a.current / 200).getD 0) (f.voltage * granted / 200)
  path : (t.channel l).command = ⟨.supply, f.voltage, granted, false, ⟨false, true, true, true, none⟩⟩ ∧
    (t.channel l).settleStart = some s.now
  cap : (t.channel l).capReport = true ↔ (s.channel l).capReport = true ∨
    ((s.contract l).options.capMode ≠ .uncapped ∧ (s.channel l).allowance = 0)
  others : LineFrame l s t

/-- R37, R49, R68, R94: where a decision pends, with the state it began in: on an ANNOUNCE in GREETING, on a MENU in CHOOSING
(log 14 for CLAIMING and BACKOFF), on a CLAIM in DECIDING, or in ACTIVE as supplier. -/
abbrev Decision.Pends (d : Decision) (c : Contract) : Prop :=
  match d.what with
  | .announce _ => c.state = .greeting ∧ d.began = .greeting
  | .menu => c.state = .choosing ∧ (d.began = .awaitMenu ∨ d.began = .claiming ∨ d.began = .backoff ∨
      d.began = .baseline ∨ d.began = .active)
  | .claim _ => (c.state = .deciding ∧ d.began = .offering) ∨
      (c.state = .active ∧ c.role = .supply ∧ d.began = .active)

/-- R37, R59, R81: what the superseding of a pending decision leaves: the contract in the state the decision began in, the
outcome SUPERSEDED, the decision slot empty and the verdict entry gone. A return to ACTIVE from CHOOSING enters it anew: the
renewal timer runs one lease interval from now, and hold-after-active sets the paused flag (what such an entry leaves out is
log 36). Nothing else of the part changes. -/
structure Superseded (l : Line) (s t : State) (d : Decision) : Prop where
  record :
    let c := (s.contract l).enter d.began
    let returns := (s.contract l).state ≠ .active ∧ d.began = .active
    t.contract l = { c with
      decision := none
      lastOutcome := some .superseded
      paused := c.paused || (decide returns && c.options.holdAfterActive)
      timers := { c.timers with
        renewal := if returns then c.agreement.map fun a => s.now + BitVec.ofNat 32 (500 * a.lease) else c.timers.renewal } }
  entry : t.verdictOf l = none
  rest : t = { s with contracts := t.contracts, link := { s.link with verdicts := t.link.verdicts } }
  lines : ∀ m, m ≠ l → t.contract m = s.contract m ∧ t.verdictOf m = s.verdictOf m

/-- R37, R116, R162, R163: what a FORWARD in RUNNING mode leaves: the decision slot holds the far request, a verdict entry with
its RELAY stands at the newest end, the verdict tag counter has stepped, and nothing is answered. -/
structure ForwardOpened (l : Line) (s t : State) (kind : QueryKind) (what : Forwarded) (tag : Tag) (began : CState)
    (a : Answer) (relays : List (List Byte)) : Prop where
  decision : (t.contract l).decision = some ⟨what, tag, s.now, began⟩
  entries : t.link.verdicts = (s.link.verdicts.filter fun v => !(v.line == l)) ++
    [⟨s.link.verdictTag, l, kind, a.rule, a.fallback, a.clamp, s.now + 20, relays⟩]
  counter : t.link.verdictTag = s.link.verdictTag + 1
  queue : (t.engine l).txQueue = (s.engine l).txQueue
  budget : t.budget = s.budget
  outcome : (t.contract l).lastOutcome = (s.contract l).lastOutcome
  others : LineFrame l s t

/-- R165: the verdict entries of a list resolved one after another, each as at its own deadline: what VERDICT_DEADLINE does where
the entry stands alone in the queue and its deadline is reached now. -/
def ResolvedInTurn : List VerdictEntry → State → State → Prop
  | [], s, t => t = s
  | v :: vs, s, t => ∃ u, exec (.verdictDeadline v.line)
      { s with link := { s.link with verdicts := [{ v with deadline := s.now }] } } = .next u ∧ ResolvedInTurn vs u t

/-- R100, R101: an ACTIVE supplying line with this agreement, on which no recall is outstanding and a RECALL can be sent at
once. -/
abbrev State.Recallable (s : State) (l : Line) (a : Agreement) : Prop :=
  s.MaySend l ∧ (s.contract l).state = .active ∧ (s.contract l).role = .supply ∧ (s.contract l).agreement = some a ∧
    (s.contract l).recallOut = none

/-- R100, R101: a recall to a level is outstanding on the line, its RECALL handed, and the agreement stands. -/
structure Recalled (l : Line) (s t : State) (a : Agreement) (level : Nat) (cause : RecallCause) : Prop where
  out : (t.contract l).recallOut = some ⟨level, none, cause⟩
  agreement : (t.contract l).agreement = some a
  handed : Handed l s t ⟨(s.contract l).tagCounter, .recall level 10⟩

/-- R100: a current satisfies the line's pending recall target, if one is present. -/
abbrev State.TargetMet (s : State) (l : Line) (current : Nat) : Prop :=
  ∀ g, (s.contract l).target = some g → current ≤ g.level

/-- R100, R101: what the take-up of a pending recall target leaves where its level lies below the agreed current then in force:
a recall to that level with that cause is outstanding, its RECALL handed behind a queue, or dropped where the queue takes no
frame (`room`), which starts its deadline at once. -/
def TargetRecalled (l : Line) (s t : State) (room : Bool) (queue : List TxFrame) (id current : Nat) : Prop :=
  ∀ g, (s.contract l).target = some g → g.level < current →
    let tag := (s.contract l).tagCounter
    let chars := (Frame.mk tag (.recall g.level 10)).chars
    (t.contract l).recallOut = some ⟨g.level, if room then none else some (s.now + 100), g.cause⟩ ∧
    (t.contract l).exchange = some ⟨.recall, tag, chars, id, 0, none, none⟩ ∧ (t.contract l).tagCounter = tag + 1 ∧
    (t.engine l).txQueue = (if room then queue ++ [⟨id, chars, 0⟩] else queue)

/-- No request of the device but a RECALL is outstanding on the line or waits. -/
abbrev State.OnlyRecall (s : State) (l : Line) : Prop :=
  (∀ x, (s.contract l).exchange = some x → x.kind = .recall) ∧
    ∀ w, (s.contract l).waiting = some w → w.kind = .recall

/-- R131: the level to which the recall walk recalls a grant entry for an excess, not under the baseline current of its line. -/
def State.walkLevel (s : State) (g : GrantEntry) (excess : Nat) : Nat :=
  max (if excess < g.commitment then (g.commitment - excess) * 200 / g.recallVoltage else 0)
    (s.contract g.line).options.baseline

/-- R131: the reduction that the walk plans for an entry. -/
def State.walkCut (s : State) (g : GrantEntry) (excess : Nat) : Nat :=
  g.commitment - g.recallVoltage * s.walkLevel g excess / 200

/-- R131: the excess still left once the walk has taken these entries, in this order. -/
def State.walkLeft (s : State) (gs : List GrantEntry) (excess : Nat) : Nat :=
  gs.foldl (fun left g => left - s.walkCut g left) excess

/-- R89, R90: the line's menu is built again from a list under a room: sent when it has points, and held when it has none. -/
structure MenuRebuilt (l : Line) (s t : State) (menu : Vector SupplyEntry 4) (room : Nat) : Prop where
  offered : (t.contract l).offered =
    some ⟨menu.toList.filterMap fun e => e.offer room, (menu.toList.filterMap fun e => e.offer room).isEmpty⟩
  sent : menu.toList.filterMap (fun e => e.offer room) ≠ [] → (s.engine l).accepts = true →
    Handed l s t ⟨(s.contract l).tagCounter, .menu true (menu.toList.filterMap fun e => e.offer room)⟩
  held : menu.toList.filterMap (fun e => e.offer room) = [] → t.engine l = s.engine l
  kept : (t.contract l).SameButOffer (s.contract l)

/-! ### Legal entries and options -/

/-- R177: the number of a field that may be absent, which is then sent as 0. -/
def orZero {α : Type} (x : Option α) (f : α → Nat) : Nat := (x.map f).getD 0

/-- R119: a rule entry that TABLE_PUT accepts, with its hit count at 0 (R120) and each field of two characters. -/
structure RuleEntry.Legal (e : RuleEntry) : Prop where
  fallback : e.fallback ≠ .forward
  kinds : e.enabled = true → e.kinds ≠ 0
  voltage : e.hasVoltage = true → 200 ≤ e.vMin ∧ e.vMin ≤ e.vMax ∧ e.vMax ≤ 1300
  power : e.hasPower = true → e.pMin ≤ e.pMax ∧ e.pMax ≤ 2500
  stance : e.hasStance = true → e.stance.toNat ≤ 1
  clamp : e.clamp ≤ 2500 ∧ (e.action = .clamp ∨ (e.action = .forward ∧ e.fallback = .clamp) → 1 ≤ e.clamp)
  hits : e.hits = 0
  fits : e.vMin < 65536 ∧ e.vMax < 65536 ∧ e.pMin < 65536 ∧ e.pMax < 65536

/-- R70: a preference entry that PREF_PUT accepts. -/
abbrev Preference.Legal (p : Preference) : Prop :=
  200 ≤ p.vMin ∧ p.vMin ≤ p.vMax ∧ p.vMax ≤ 1300 ∧ 1 ≤ p.least ∧ p.least ≤ p.wanted ∧ p.wanted ≤ 2500

/-- R87, R88: a supply entry that MENU_PUT accepts. -/
abbrev SupplyEntry.Legal (e : SupplyEntry) : Prop :=
  250 ≤ e.point.v1 ∧ e.point.v1 ≤ 1000 ∧ 250 ≤ e.point.v2 ∧ e.point.v2 ≤ 1000 ∧
    ((e.point.kind = .fixed ∧ e.point.v1 = e.point.v2 ∧ e.point.limit ≤ 120) ∨
      (e.point.kind = .window ∧ e.point.v1 < e.point.v2 ∧ e.point.limit ≤ 600))

/-- R62: options in the ranges of LINE_SET. -/
abbrev Options.Legal (o : Options) : Prop :=
  o.timeoutIndex ≤ 3 ∧ 1 ≤ o.lease ∧ o.lease ≤ 120 ∧ 4 ≤ o.baseline ∧ o.baseline ≤ 60 ∧ o.allowance ≤ 16777215

/-! ### Legal frames -/

/-- R25: an operating point of a MENU in its ranges. -/
abbrev Point.Legal (p : Point) : Prop :=
  200 ≤ p.v1 ∧ p.v1 ≤ 1300 ∧ 200 ≤ p.v2 ∧ p.v2 ≤ 1300 ∧
    ((p.kind = .fixed ∧ p.v1 = p.v2 ∧ p.limit ≤ 320) ∨ (p.kind = .window ∧ p.v1 < p.v2 ∧ p.limit ≤ 2500))

/-- R24 to R30: every field of the frame lies in its range. -/
abbrev Frame.Legal (f : Frame) : Prop :=
  match f.body with
  | .announce _ _ _ _ level => f.tag = 1 ∧ 1 ≤ level ∧ level ≤ 255
  | .menu _ points => 1 ≤ points.length ∧ points.length ≤ 6 ∧ ∀ p ∈ points, p.Legal
  | .claim k => k.point ≤ 5 ∧ 200 ≤ k.voltage ∧ k.voltage ≤ 1300 ∧ k.claimed ≤ 320 ∧ k.least ≤ 320
  | .grant current lease => current ≤ 320 ∧ 1 ≤ lease ∧ lease ≤ 120
  | .wait retryAfter => 1 ≤ retryAfter ∧ retryAfter ≤ 255
  | .ready voltage current => 200 ≤ voltage ∧ voltage ≤ 1300 ∧ current ≤ 320
  | .renew current => current ≤ 320
  | .recall ceiling deadline => ceiling ≤ 320 ∧ 1 ≤ deadline ∧ deadline ≤ 100
  | .yield limit => limit ≤ 320
  | .status _ _ _ voltage current => (voltage = 0 ∨ (200 ≤ voltage ∧ voltage ≤ 1300)) ∧ current ≤ 320
  | .deny _ | .keep _ | .statusQ | .ending _ => True

end Machine

end Sys2Proof
end

