-- ==== Sys2Proof/Certificates/Slice0/Obligations.lean ====
section
/-! DEFINITION. The statements for the provers. Each cites the rule or section of spec/ it rests on. A statement that rests on
a choice of the model names its log entry. Times are values of the device time counter, whose sum wraps; that an expiry acts
once the counter has reached its deadline is log 2. What is left between a SAMPLE and the row it makes due stands in the latches
of log 9; a far frame's row reads the frame from the receive buffer (log 11); a request is taken by a receiver that is RECEIVING
(log 22), and brings the check of its own characters. -/

open Sys2Proof Sys2Proof.Machine

/-! ### The queue of commands and the resets -/

/-- The block's interface: a step takes the command at the front of the queue, and runs it on the queue's rest. -/
def Obligations.StepRunsTheFrontCommand : Prop :=
  ∀ (c : Instr) (rest : List Instr) (s : State), s.pending = c :: rest → step s = exec c { s with pending := rest }

/-- The queue: with no command waiting the block idles (the model's choice, log 4), and no command touches the queue. -/
def Obligations.QueueIsOnlyTakenFrom : Prop :=
  (∀ s : State, s.pending = [] → step s = .next s) ∧
  (∀ (c : Instr) (s t : State), exec c s = .next t → t.pending = s.pending)

/-- Sections 1.10, 3.1, 3.2, 3.9, 3.10, 4.3, 5.1, 6.1, 7.1, 8.5, 9.8, 10.7: the values after power-on reset. The straps carry
DISABLED, so no role is permitted (the model's choice, log 5). -/
def Obligations.ResetValuesAreTheManuals : Prop :=
  let s := State.reset
  s.pending = [] ∧ s.now = 0 ∧
  (s.link.receiver = .skipping ∧ s.link.responses = [] ∧ s.link.verdicts = [] ∧ s.link.notices = [] ∧
    s.link.mode = .running ∧ s.link.wakeSet = 0 ∧ s.link.wake = false ∧ s.link.linkError = false ∧ s.link.stance = 0 ∧
    s.link.manualStance = false ∧ s.link.verdictTag = 0 ∧ s.link.stx = none) ∧
  (s.budget.inputCeiling = 600 ∧ s.budget.supplyCeiling = 150 ∧ s.budget.rank = [.l0, .l1, .l2, .l3] ∧
    s.budget.committedDraw = 0 ∧ s.budget.committedSupply = 0 ∧ s.budget.drawHeadroom = 600 ∧
    s.budget.supplyHeadroom = 150 ∧ s.budget.drawOver = false ∧ s.budget.supplyOver = false ∧ s.budget.order = []) ∧
  (∀ i : Fin 32, (s.rules.get i).enabled = false ∧ (s.rules.get i).lines = 0 ∧ (s.rules.get i).kinds = 0 ∧
    (s.rules.get i).hasVoltage = false ∧ (s.rules.get i).hasPower = false ∧ (s.rules.get i).hasStance = false ∧
    (s.rules.get i).hasClass = false ∧ (s.rules.get i).hasIdentity = false ∧ (s.rules.get i).action = .auto ∧
    (s.rules.get i).fallback = .auto ∧ (s.rules.get i).clamp = 0 ∧ (s.rules.get i).report = false ∧
    (s.rules.get i).hits = 0) ∧
  s.prefs.toList = ⟨true, 250, 250, 25, 10⟩ :: List.replicate 7 ⟨false, 200, 1300, 1, 1⟩ ∧
  s.menu.toList = List.replicate 4 ⟨false, ⟨.fixed, 250, 250, 0⟩⟩ ∧
  ∀ l : Line,
    ((s.engine l).convention = .unknown ∧ (s.engine l).txQueue = [] ∧ (s.engine l).txSide = .idle ∧
      (s.engine l).watchdog = none ∧ (s.engine l).rxSide = .idle ∧ (s.engine l).gapTimer = false ∧
      (s.engine l).muted = false ∧ (s.engine l).wdCount = 0 ∧ (s.engine l).present = false ∧
      (s.engine l).presenceRun = 0 ∧ (s.engine l).health = .clear) ∧
    ((s.contract l).state = .detached ∧ (s.contract l).role = .none ∧ (s.contract l).far = none ∧
      (s.contract l).farRecall = none ∧ (s.contract l).farMenu = none ∧ (s.contract l).deferred = false ∧
      (s.contract l).offered = none ∧ (s.contract l).agreement = none ∧ (s.contract l).claim = none ∧
      (s.contract l).grant = none ∧ (s.contract l).cursor = ⟨0, 0⟩ ∧ (s.contract l).waitStreak = 0 ∧
      (s.contract l).leaseDeadline = none ∧ (s.contract l).recallOut = none ∧ (s.contract l).target = none ∧
      (s.contract l).lineClamp = none ∧ (s.contract l).paused = false ∧ (s.contract l).greetingCount = 0 ∧
      (s.contract l).greetingStopped = false ∧ (s.contract l).unmanaged = false ∧ (s.contract l).lastFrameFault = false ∧
      (s.contract l).tagCounter = 0 ∧
      (s.contract l).exchange = none ∧ (s.contract l).waiting = none ∧ (s.contract l).displaced = [] ∧
      (s.contract l).decision = none ∧ (s.contract l).lastOutcome = none) ∧
    ((s.contract l).options.timeoutIndex = 1 ∧ (s.contract l).options.lease = 20 ∧
      (s.contract l).options.baseline = 20 ∧ (s.contract l).options.holdAfterActive = false ∧
      (s.contract l).options.capMode = .uncapped ∧ (s.contract l).options.allowance = 0 ∧
      (s.contract l).options.roles = (s.straps.get l).roles ∧ s.straps.get l = .disabled) ∧
    (s.budget.drawCommit.get l = 0 ∧ s.budget.drawCopy.get l = none ∧ s.budget.supplyCommit.get l = 0 ∧
      s.budget.alloc.get l = none) ∧
    ((s.channel l).command = .opened ∧ (s.channel l).tripped = false ∧ (s.channel l).allocation = none ∧
      (s.channel l).overcurrentRun = 0 ∧ (s.channel l).reverseRun = 0 ∧ (s.channel l).deviationRun = 0 ∧
      (s.channel l).settleRun = 0 ∧ (s.channel l).settleStart = none ∧ (s.channel l).energy = 0 ∧
      (s.channel l).allowance = 0) ∧
    s.captures.get l = ⟨false, none, .detached, none, 0, false, 0⟩ ∧ s.strikes.get l = 0

/-- R18, R60, R172: power-on reset latches the straps of the table, starts each presence run at the level its input has, and
gives every block its power-on values. Of these the manual does not give the latest sample and the trip stamp of a channel, the
content of a capture record that is not held, and the count of frame identities: they are the model's choice, log 6. -/
def Obligations.PowerOnResetLatchesStraps : Prop :=
  ∀ (pins : Four ResetPins) (s : State), ∃ t, exec (.powerOnReset pins) s = .next t ∧
    t.now = 0 ∧ t.rules = State.reset.rules ∧ t.prefs = State.reset.prefs ∧ t.menu = State.reset.menu ∧
    t.budget = State.reset.budget ∧ t.channels = State.reset.channels ∧ t.captures = State.reset.captures ∧
    t.strikes = State.reset.strikes ∧ t.link = State.reset.link ∧ t.pending = s.pending ∧
    ∀ l, t.engine l = { State.reset.engine l with presenceLevel := (pins.get l).presence } ∧
      t.straps.get l =
        (if (pins.get l).a = false ∧ (pins.get l).b = false then .disabled
        else if (pins.get l).a = false ∧ (pins.get l).b = true then .drawOnly
        else if (pins.get l).a = true ∧ (pins.get l).b = false then .supplyOnly
        else .both) ∧
      t.contract l = { Contract.fresh ((State.reset.contract l).options) with
        options := { (State.reset.contract l).options with roles := (t.straps.get l).roles } }

/-! ### What every step keeps -/

/-- Every property below holds right after reset. -/
def Obligations.KeptPropertiesHoldAtReset : Prop :=
  State.reset.budget.SumsOk ∧ State.reset.budget.OrderOk ∧ State.reset.budget.RankOk ∧
  State.reset.AllocationsCurrent ∧ NoticesDistinct State.reset.link.notices ∧
  VerdictsDistinct State.reset.link.verdicts ∧ State.reset.link.quietEmpty ∧ State.reset.link.wakeRests ∧
  State.reset.CountsBounded ∧ State.reset.RolesStrapped ∧ State.reset.QueuesBounded ∧
  ∀ l, State.reset.LineSettled l ∧ State.reset.LineSound l

/-- R122, R123, R125, R126, R128, R129, R137: the sums and headrooms follow the commitments and ceilings, and a sum above its
ceiling shows; the grant order list and the rank keep their form; the allocations stand as recomputed, and in the channels. -/
def Obligations.BudgetStaysConsistent : Prop :=
  (∀ s t : State, s.budget.SumsOk → step s = .next t → t.budget.SumsOk) ∧
  (∀ s t : State, s.budget.OrderOk ∧ s.budget.RankOk → step s = .next t → t.budget.OrderOk ∧ t.budget.RankOk) ∧
  (∀ s t : State, s.AllocationsCurrent → step s = .next t → t.AllocationsCurrent)

/-- R160, R162, R167, R172, R174, R175, R176: one notice of a source and kind at most; one verdict entry per line at most, and
none in AUTONOMOUS mode; at most 4 RESPONSEs; in RUNNING mode WAKE is deasserted and the wake set empty. -/
def Obligations.LinkUnitStaysLegal : Prop :=
  (∀ s t : State, NoticesDistinct s.link.notices → step s = .next t → NoticesDistinct t.link.notices) ∧
  (∀ s t : State, VerdictsDistinct s.link.verdicts ∧ s.link.quietEmpty → step s = .next t →
    VerdictsDistinct t.link.verdicts ∧ t.link.quietEmpty) ∧
  (∀ s t : State, s.link.responses.length ≤ 4 ∧ s.link.wakeRests → step s = .next t →
    t.link.responses.length ≤ 4 ∧ t.link.wakeRests)

/-- R9, R60, R62, R112, R149, R152: queues, roles and counts stay in their bounds. -/
def Obligations.QueuesRolesAndCountsStayBounded : Prop :=
  ∀ s t : State, s.QueuesBounded ∧ s.RolesStrapped ∧ s.CountsBounded → step s = .next t →
    t.QueuesBounded ∧ t.RolesStrapped ∧ t.CountsBounded

/-- R43, R136, R144, section 8.1: after every step each line's role is one of its contract state, and so is its path command,
unless the channel has tripped: then the fault of the trip is still to be reported (log 9). The watch of CHOOSING is log 26. -/
def Obligations.PathFollowsTheContractState : Prop :=
  ∀ s t : State, (∀ l, s.LineSound l) → step s = .next t → ∀ l, t.LineSound l

/-- Section 00 section 2: a command about one line leaves the other lines alone, but for what the shared budget passes on. -/
def Obligations.LinesDoNotInterfere : Prop :=
  ∀ (c : Instr) (l : Line) (s t : State), c.line? = some l → exec c s = .next t → LineFrame l s t

/-! ### Shared operations -/

/-- R128: an allocation lies between the floor and the agreed power, its current follows from it, and while the floors fit
the input ceiling the allocated powers do as well. -/
def Obligations.AllocationsKeepTheCeiling : Prop :=
  ∀ (b : Budget) (base : Line → Nat), b.RankOk →
    let alloc := b.share base b.rank (b.inputCeiling - b.floors base)
    (∀ l, (alloc.get l).isSome = (b.drawCopy.get l).isSome) ∧
    (∀ l c a, b.drawCopy.get l = some c → alloc.get l = some a →
      min (c.voltage * c.current / 200) (c.voltage * base l / 200) ≤ a.power ∧ a.power ≤ c.voltage * c.current / 200 ∧
      a.current = a.power * 200 / c.voltage) ∧
    (b.floors base ≤ b.inputCeiling →
      ((Line.everyLine.map fun l => ((alloc.get l).map Allocation.power).getD 0).sum) ≤ b.inputCeiling)

/-- R110, R111: an enabled entry meets a query when its identification conditions and its electrical and stance conditions do.
-/
def Obligations.RuleConditionsMatch : Prop :=
  (∀ (e : RuleEntry) (q : Query) (low : Bool), e.enabled = true → e.hasVoltage = false → e.hasPower = false →
    e.hasStance = false →
    (e.meets q low = true ↔
      e.lines.getLsbD q.line.index = true ∧ e.kinds.getLsbD q.kind.code = true ∧
      (e.hasClass = true → ∃ k, q.cls = some k ∧ e.classes.getLsbD k.code = true) ∧
      (e.hasIdentity = true → ∃ i, q.identity = some i ∧ i &&& e.mask = e.identity &&& e.mask))) ∧
  (∀ (e : RuleEntry) (q : Query) (low : Bool), e.enabled = false → e.meets q low = false) ∧
  (∀ (e : RuleEntry) (q : Query) (low : Bool),
    { e with hasVoltage := false, hasPower := false, hasStance := false }.meets q low = true →
    (e.meets q low = true ↔
      (e.hasVoltage = true → q.kind ≠ .announce ∧ e.vMin ≤ q.vLow ∧ q.vHigh ≤ e.vMax) ∧
      (e.hasPower = true → q.kind ≠ .announce ∧ e.pMin ≤ q.power ∧ q.power ≤ e.pMax) ∧
      (e.hasStance = true → low = decide (e.stance = 1)))) ∧
  (∀ (e : RuleEntry) (q : Query) (low : Bool), e.meets q low = true →
    { e with hasVoltage := false, hasPower := false, hasStance := false }.meets q low = true)

/-- R109, R112: the first entry that meets a query wins; its action is the answer and its hit count steps up to 65535; with no
winner the answer is AUTO and nothing changes. -/
def Obligations.FirstMatchWinsAndCounts : Prop :=
  ∀ (s : State) (q : Query),
    (∀ i : Fin 32, (s.rules.get i).meets q s.link.batteryLow = true →
      (∀ j : Fin 32, j < i → (s.rules.get j).meets q s.link.batteryLow = false) →
      (s.answerOf q).action = (s.rules.get i).action ∧ (s.answerOf q).rule = i.val ∧
      ((s.afterQuery q).rules.get i).hits = min 65535 ((s.rules.get i).hits + 1) ∧
      (∀ j : Fin 32, j ≠ i → (s.afterQuery q).rules.get j = s.rules.get j) ∧
      ((s.rules.get i).report = true → (s.rules.get i).action ≠ .forward → (s.afterQuery q).Told q.line s.now
        (.report i.val (s.rules.get i).action q.kind q.vLow q.vHigh q.power q.point))) ∧
    ((∀ i : Fin 32, (s.rules.get i).meets q s.link.batteryLow = false) →
      (s.answerOf q).action = .auto ∧ s.afterQuery q = s)

/-- R178: the check register, character by character; the check that ends each frame of a contract line and of the link, and
that a receiver compares; the rule's own example. -/
def Obligations.CheckCharacterIsTheManuals : Prop :=
  crc [] = 0xFF ∧
  (∀ (cs : List Byte) (c : Byte), crc (cs ++ [c]) =
    (List.range 8).foldl (fun r _ => if r.getLsbD 7 then (r <<< 1) ^^^ 0x07 else r <<< 1) (crc cs ^^^ c)) ∧
  (∀ f : Frame, f.chars = f.raw ++ [crc f.raw]) ∧
  (∀ (addr : Nat) (k : LinkKind) (body : List Byte), let raw := (BitVec.ofNat 3 addr ++ k.code) :: byte body.length :: body
    linkRaw addr k body = raw ∧ linkFrame addr k body = raw ++ [crc raw] ∧
    (body.length ≤ 60 → ∀ check, check ≠ crc raw → judgeLink ((raw ++ [check]).map linkChar) = some true)) ∧
  (∀ (raw : List Byte) (check : Byte) (f : Frame), validate (raw ++ [check]) = .wellFormed f → check = crc raw) ∧
  (∀ (raw : List Byte) (check : Byte), check ≠ crc raw → validate (raw ++ [check]) = .malformed none) ∧
  crc [0x10] = 0x83 ∧ crc [0x10, 0x00] = 0x80 ∧ (Frame.mk 0 .statusQ).chars = [0x10, 0x00, 0x80]

/-- R150: how a fault meets the line's capture record. -/
def Obligations.CaptureComparesFaults : Prop :=
  ∀ (c : Capture) (cause : Cause) (st : CState) (kind : Option FrameKind) (now : Time),
    (c.held = false → c.take cause st kind now = (⟨true, some cause, st, kind, now, false, 0⟩, true)) ∧
    (∀ old, c.held = true → c.cause = some old → cause.cls.code < old.cls.code →
      c.take cause st kind now = (⟨true, some cause, st, kind, now, true, min 255 (c.count + 1)⟩, true)) ∧
    (∀ old, c.held = true → c.cause = some old → old.cls.code ≤ cause.cls.code →
      c.take cause st kind now = ({ c with overlap := true, count := min 255 (c.count + 1) }, false))

/-- R142, R144, R57, R135: the reverse watch. The sample that completes the run trips the channel, whose outputs are those of
OPEN from then on; its fault, stamped with the time of that sample, is reported by the row of the trip (log 9), which leads to
FAULTED with the flag clear again. That the row clears every cause pending, so that of two runs that one sample completes one is
reported, is the model's choice, log 32. -/
def Obligations.ReverseWatchOpensDrawPaths : Prop :=
  (∀ c : Contract, c.path.form = .draw → c.path.watch.reverse = true) ∧
  (∀ (ch : Channel) (x : Sample) (capped : Bool), ch.tripped = false → ch.settleStart = none →
    ch.command.watch.reverse = true →
    let run := if x.current < -10 then ch.reverseRun + 1 else 0
    let t := ch.sample x capped
    (3 ≤ run → t.tripped = true ∧ t.due.reverse = true ∧ t.tripStamp = x.time ∧ t.reverseRun = 0 ∧
      t.output = ⟨false, 0, 0⟩) ∧
    (run < 3 → t.due.reverse = ch.due.reverse ∧ (t.tripped = false → t.reverseRun = run))) ∧
  (∀ (l : Line) (s : State), (s.channel l).due.reverse = true → s.LineSound l → (s.contract l).role = .draw →
    (s.contract l).state ≠ .faulted →
    ∃ t, exec (.reverseTrip l) s = .next t ∧ (t.contract l).state = .faulted ∧ (t.channel l).command = .opened ∧
      (t.channel l).tripped = false ∧ (t.channel l).due = .none ∧
      FaultTakenIn l s t (s.contract l).state .reverse none (s.channel l).tripStamp)

/-- R138, R139, R140, R141, R143, R144, R145, R146: what a sample leaves of its channel: the settle, overcurrent and hold
watches and the energy meter judge it, and the sample that completes a run trips the channel, its causes pending (log 9). A
settle timeout that expired before the sample trips the channel unjudged; the sample stamped at the expiry is judged first, and
the timeout then trips the channel where no settle event was reported (log 21). A tripped channel judges nothing. -/
def Obligations.WatchesCountTheirRuns : Prop :=
  ∀ (ch : Channel) (x : Sample) (capped : Bool),
    let t := ch.sample x capped
    (ch.tripped = true → t = { ch with latest := x }) ∧
    (ch.tripped = false → t.latest = x ∧ t.command = ch.command ∧
      (t.tripped = true → t.output = ⟨false, 0, 0⟩ ∧ t.due.any = true ∧ t.overcurrentRun = 0 ∧ t.reverseRun = 0 ∧
        t.deviationRun = 0 ∧ t.settleRun = 0 ∧ t.settleStart = none) ∧
      (∀ start, ch.settleStart = some start → 250 < (x.time - start).toNat → (x.time - start).toNat < 2147483648 →
        t.tripped = true ∧ t.due = { ch.due with settle := true } ∧ t.tripStamp = start + 250 ∧ t.energy = ch.energy ∧ t.allowance = ch.allowance ∧
        t.settleReport = ch.settleReport ∧ t.capReport = ch.capReport) ∧
      ((∀ start, ch.settleStart = some start → (x.time - start).toNat ≤ 250) →
        (t.tripStamp = if t.tripped then x.time else ch.tripStamp) ∧
        (ch.command.watch.overcurrent = true →
          let run := if ((ch.command.limit + ch.command.limit * 10 / 100 : Nat) : Int) < -x.current then
            ch.overcurrentRun + 1 else 0
          (5 ≤ run → t.tripped = true ∧ t.due.overcurrent = true) ∧
          (run < 5 → t.due.overcurrent = ch.due.overcurrent ∧ (t.tripped = false → t.overcurrentRun = run))) ∧
        (∀ ref, ch.command.watch.hold = some ref →
          let run := if ref - ref * 8 / 100 ≤ x.voltage ∧ x.voltage ≤ ref + ref * 8 / 100 then 0 else ch.deviationRun + 1
          (20 ≤ run → t.tripped = true ∧ t.due.hold = true) ∧
          (run < 20 → t.due.hold = ch.due.hold ∧ (t.tripped = false → t.deviationRun = run))) ∧
        (∀ start, ch.settleStart = some start →
          let inside := ch.command.voltage - ch.command.voltage * 5 / 100 ≤ x.voltage ∧
            x.voltage ≤ ch.command.voltage + ch.command.voltage * 5 / 100
          ((x.time - start).toNat < 20 → t.due.settle = ch.due.settle ∧ t.settleReport = ch.settleReport ∧
            (t.tripped = false → t.settleRun = ch.settleRun ∧ t.settleStart = some start)) ∧
          (20 ≤ (x.time - start).toNat →
            (inside → ch.settleRun = 2 → t.settleReport = some x.voltage ∧ t.due.settle = ch.due.settle ∧
              t.settleRun = 0 ∧ t.settleStart = none) ∧
            (¬inside ∨ ch.settleRun < 2 → t.settleReport = ch.settleReport ∧
              ((x.time - start).toNat = 250 → t.tripped = true ∧ t.due.settle = true) ∧
              ((x.time - start).toNat < 250 → t.due.settle = ch.due.settle ∧
                (t.tripped = false → t.settleRun = (if inside then ch.settleRun + 1 else 0) ∧
                  t.settleStart = some start))))) ∧
        (ch.settleStart = none → t.due.settle = ch.due.settle) ∧
        (ch.command.watch.meter = true → capped = true →
          let total := ch.energy + x.voltage * (-x.current).toNat / 200
          (total < 100000 → t.energy = total ∧ t.allowance = ch.allowance ∧ t.capReport = ch.capReport) ∧
          (100000 ≤ total → t.energy = total - 100000 ∧ t.allowance = ch.allowance - 1 ∧
            (t.capReport = true ↔ ch.capReport = true ∨ ch.allowance = 1))) ∧
        (ch.command.watch.meter = false ∨ capped = false → t.energy = ch.energy ∧ t.allowance = ch.allowance ∧
          t.capReport = ch.capReport)))

/-! ### Presence and the line engine's receive side -/

/-- R18, R19, R44, R56: ATTACH once the presence input has been high for 20 ms, DETACH once it has been low for 2 ms, as the
samples count them (log 10), and not before. A settle timeout that has expired by the detach leaves its fault to be reported
(R144, log 20). -/
def Obligations.AttachAndDetachAreTaken : Prop :=
  (∀ (l : Line) (s : State), (s.engine l).present = false →
    ((s.engine l).presenceLevel = false ∨ (s.engine l).presenceRun < 20 → exec (.attach l) s = .next s) ∧
    ((s.engine l).presenceLevel = true → 20 ≤ (s.engine l).presenceRun → ∃ t, exec (.attach l) s = .next t ∧
      (t.engine l).present = true ∧ (t.engine l).wdCount = 0 ∧ t.strikes.get l = 0 ∧
      (s.straps.get l = .disabled → (t.contract l).state = .blocked) ∧
      (s.straps.get l ≠ .disabled → (t.contract l).state = .greeting ∧ (t.contract l).greetingCount = 0 ∧
        (t.contract l).timers.greetingDelay = some (s.now + 50)) ∧
      (t.contract l).lastOutcome = (s.contract l).lastOutcome ∧ (t.engine l).txQueue = (s.engine l).txQueue ∧
      t.Told l s.now (.attach (t.contract l).state) ∧ LineFrame l s t)) ∧
  (∀ (l : Line) (s : State), (s.engine l).present = true →
    ((s.engine l).presenceLevel = true ∨ (s.engine l).presenceRun < 2 → exec (.detach l) s = .next s) ∧
    ((s.engine l).presenceLevel = false → 2 ≤ (s.engine l).presenceRun → ∃ t, exec (.detach l) s = .next t ∧
      ((t.engine l).present = false ∧ (t.engine l).convention = .unknown ∧ (t.engine l).txQueue = [] ∧
        (t.engine l).txSide = .idle ∧ (t.engine l).rxSide = .idle ∧ (t.engine l).gapTimer = false ∧
        (t.engine l).watchdog = none ∧ (t.engine l).wdCount = (s.engine l).wdCount ∧
        (t.engine l).muted = (s.engine l).muted ∧
        (t.engine l).health = { (s.engine l).health with
          malformed := false, shortFrame := false, strayAnswer := false, answerTimeout := false }) ∧
      t.contract l = { Contract.fresh (s.contract l).options with lastOutcome := some .detached } ∧
      (t.channel l).command = .opened ∧ (t.channel l).tripped = false ∧ (t.channel l).energy = 0 ∧
      ((∀ start, (s.channel l).settleStart = some start → 2147483648 ≤ (s.now - (start + 250)).toNat) →
        (t.channel l).due = (s.channel l).due) ∧
      (∀ start, (s.channel l).settleStart = some start → (s.now - (start + 250)).toNat < 2147483648 →
        (t.channel l).due = { (s.channel l).due with settle := true } ∧ (t.channel l).tripStamp = start + 250) ∧
      t.budget.drawCommit.get l = 0 ∧ t.budget.drawCopy.get l = none ∧ t.budget.supplyCommit.get l = 0 ∧
      (∀ g ∈ t.budget.order, g.line ≠ l) ∧ t.verdictOf l = none ∧ t.captures.get l = s.captures.get l ∧
      t.Told l s.now (.detach .detached (some .detached)) ∧ LineFrame l s t))

/-- R2, R3, R4, R6, R7: a start edge on a line that is present while the device does not send; the ends of a partial frame
and of DISCARDING. An accepted character joins the frame in its logical value; the first one teaches the convention, and the
second sets the expected count. A character whose parity fails is discarded, and refused but in the losing slot. Bit-level
events by log 8. -/
def Obligations.ReceivingStepsAreTaken : Prop :=
  ∀ (l : Line) (s : State),
    ((s.engine l).present = true → (s.engine l).txSide ≠ .sending →
      ((s.engine l).rxSide = .idle → exec (.startEdge l) s = .next (s.onEngine l fun e =>
        { e with
          rxSide := .receiving, rxChars := [], rxExpected := none, rxSlot := true, rxLosing := false, refusing := false
          gapTimer := true })) ∧
      ((s.engine l).rxSide = .receiving → (s.engine l).overLength = false → (s.engine l).complete = false →
        exec (.startEdge l) s = .next (s.onEngine l fun e =>
          { e with rxSlot := true, refusing := false, gapTimer := true })) ∧
      ((s.engine l).rxSide = .discarding → exec (.startEdge l) s = .next s)) ∧
    ((s.engine l).present = true → (s.engine l).rxSide = .receiving → (s.engine l).gapTimer = true →
      (s.engine l).overLength = false → (s.engine l).complete = false →
      exec (.frameGapExpiry l) s = .next (s.onEngine l fun e =>
        { e with
          rxSide := .idle, rxChars := [], rxExpected := none, rxSlot := false, rxLosing := false, refusing := false
          gapTimer := false
          health := { e.health with malformed := false, shortFrame := true, strayAnswer := false, answerTimeout := false } })) ∧
    ((s.engine l).rxSide = .discarding → exec (.discardingEnd l) s = .next (s.onEngine l fun e =>
      { e with
        rxSide := .idle, rxChars := [], rxExpected := none, rxSlot := false, rxLosing := false, refusing := false
        gapTimer := false })) ∧
    (∀ w : WireChar, (s.engine l).awaitsChar = true →
      (w.parityOk = true →
        ¬((s.engine l).rxChars = [] ∧ (s.engine l).convention = .unknown ∧ w.data ≠ 0x3A ∧ w.data ≠ 0xA3) →
        ∀ conv, conv = (if (s.engine l).rxChars = [] then
            (if w.data = 0x3A then .direct else if w.data = 0xA3 then .inverse else (s.engine l).convention)
          else (s.engine l).convention) →
        exec (.characterAccepted l w) s = .next (s.onEngine l fun e =>
          { e with
            convention := conv
            rxChars := e.rxChars ++ [conv.read w.data]
            rxExpected := if e.rxChars.length = 1 then some ((conv.read w.data).toNat + 3) else e.rxExpected
            rxSlot := false, rxLosing := false, refusing := false })) ∧
      (w.parityOk = false → exec (.errorPulse l w) s = .next (s.onEngine l fun e =>
        { e with rxSlot := false, rxLosing := false, refusing := !e.rxLosing })))

/-- R1, R2, R157: the levels that carry a character. On a contract line the data cells carry its bits, cell 1 bit 0, in DIRECT
and while the convention is UNKNOWN, and in INVERSE their complements, cell 1 bit 7; the parity cell makes the number of high
levels even in each; what is written in a convention is read back in it. On the system link a character is a low start bit, its
bits, least significant first, the even parity bit and a high stop bit. -/
def Obligations.WireLevelsCarryCharacters : Prop :=
  (∀ (conv : Convention) (b : Byte), let w := wireChar conv b
    (conv ≠ .inverse → ∀ i, w.data.getLsbD i = b.getLsbD i) ∧
    (conv = .inverse → ∀ i, i < 8 → w.data.getLsbD i = !(b.getLsbD (7 - i))) ∧
    w.parityOk = true ∧ conv.read w.data = b) ∧
  (∀ w : WireChar, w.parityOk = true ↔
    (((List.range 8).map fun i => (w.data.getLsbD i).toNat).sum + w.parity.toNat) % 2 = 0) ∧
  (wireChar .inverse 0x3A).data = 0xA3 ∧ Convention.inverse.read (wireChar .direct 0x3A).data = 0xA3 ∧
  (∀ b : Byte, let c := linkChar b
    c.levels = [false, b.getLsbD 0, b.getLsbD 1, b.getLsbD 2, b.getLsbD 3, b.getLsbD 4, b.getLsbD 5, b.getLsbD 6,
      b.getLsbD 7, c.parity, true] ∧
    (((List.range 8).map fun i => (b.getLsbD i).toNat).sum + c.parity.toNat) % 2 = 0)

/-- R8, R152: a convention error; order of flag, fault and report by log 17. -/
def Obligations.ConventionErrorIsALinkFault : Prop :=
  ∀ (l : Line) (w : WireChar) (s : State), (s.engine l).awaitsChar = true → w.parityOk = true →
    (s.engine l).rxChars = [] → (s.engine l).convention = .unknown → w.data ≠ 0x3A → w.data ≠ 0xA3 → s.LineSettled l →
    ∃ t, exec (.conventionError l w) s = .next t ∧ (t.engine l).rxSide = .discarding ∧ (t.engine l).rxChars = [] ∧
      (t.engine l).convention = .unknown ∧
      (t.engine l).health = { (s.engine l).health with
        conventionError := true, malformed := false, shortFrame := false, strayAnswer := false, answerTimeout := false } ∧
      FaultTaken l s t .convention none ∧
      (s.strikes.get l + 1 ≠ 4 → t.contract l = s.contract l ∧ t.channel l = s.channel l) ∧
      (s.strikes.get l + 1 = 4 → (s.contract l).state ≠ .detached → (t.contract l).state = .faulted) ∧ LineFrame l s t

/-- R5, R22, R23: an over-length frame, and a complete frame that fails validation; fields outside their tables by log 19.
-/
def Obligations.MalformedFramesAreProtocolFaults : Prop :=
  ∀ (l : Line) (s : State), (s.engine l).present = true → (s.engine l).rxSide = .receiving → s.LineSettled l →
    let after := fun (t : State) (kind : Option FrameKind) =>
      (t.engine l).rxChars = [] ∧ (t.engine l).gapTimer = false ∧
      (t.engine l).health = { (s.engine l).health with
        malformed := true, shortFrame := false, strayAnswer := false, answerTimeout := false } ∧
      t.contract l = { s.contract l with
        lastFrameFault := true
        timers := { (s.contract l).timers with
          greetingDelay := (s.contract l).timers.greetingDelay.map fun _ => s.now + 50 } } ∧
      t.channel l = s.channel l ∧ t.budget = s.budget ∧ FaultTaken l s t .malformed kind ∧ LineFrame l s t
    ((s.engine l).overLength = true →
      ∃ t, exec (.overLengthFrame l) s = .next t ∧ (t.engine l).rxSide = .discarding ∧ after t none) ∧
    (∀ kind, (s.engine l).frameReady = true → validate (s.engine l).rxChars = .malformed kind →
      ∃ t, exec (.malformedFrame l) s = .next t ∧ (t.engine l).rxSide = .idle ∧ after t kind)

/-! ### The line engine's transmit side -/

/-- R9, R10, R11, R12, R14, R20: sends begin, go on, lose arbitration, which leaves the send count of the first character as
it stands (log 34); the drained queue forgets the convention (R16 and log 28 for the watchdog expiry count); bit-level events
by log 8, the drained queue by log 25. -/
def Obligations.SendingStepsAreTaken : Prop :=
  ∀ (l : Line) (s : State),
    (∀ f fs, (s.engine l).txQueue = f :: fs → (s.engine l).present = true → (s.engine l).wdCount < 3 →
      (s.engine l).rxSide = .idle → (s.engine l).txSide = .waiting ∨ (s.engine l).txSide = .retryWait →
      exec (.sendStart l) s = .next (s.onEngine l fun e =>
        { e with
          txSide := .sending, txLevels := f.chars.map (wireChar e.convention), txIndex := 0, txSends := max 1 e.txSends
          watchdog := some 0 })) ∧
    ((s.engine l).txSide = .sending → (s.engine l).txIndex + 1 < (s.engine l).txLevels.length →
      exec (.nextCharacterStart l false) s = .next (s.onEngine l fun e =>
        { e with txIndex := e.txIndex + 1, txSends := 1 })) ∧
    ((s.engine l).txSide = .sending → (s.engine l).txSends < 4 →
      exec (.nextCharacterStart l true) s = .next (s.onEngine l fun e => { e with txSends := e.txSends + 1 })) ∧
    ((s.engine l).txSide = .sending → (s.engine l).txIndex = 0 →
      exec (.arbitrationLost l) s = .next (s.onEngine l fun e =>
        { e with
          txSide := .waiting, txLevels := [], txIndex := 0, watchdog := none
          rxSide := .receiving, rxChars := [], rxExpected := none, rxSlot := true, rxLosing := true, refusing := false
          gapTimer := true })) ∧
    ((s.engine l).drain = some 0 →
      exec (.queueDrained l) s = .next (s.onEngine l fun e => { e with convention := .unknown, drain := none }))

/-- R9, R34, R46, R101: FRAME_SENT: the head frame leaves the queue. The report of the outstanding CLAIM, RENEW or ANNOUNCE
starts its answer timer, that of a RECALL its deadline, that of an ANNOUNCE in an unmanaged BASELINE the slow re-greeting (log
15 for one closed before its report); a CLAIM that has its GRANT is timed no more (log 18). -/
def Obligations.SentFrameIsReported : Prop :=
  ∀ (l : Line) (s : State) (f : TxFrame) (fs : List TxFrame), (s.engine l).txQueue = f :: fs →
    (s.engine l).txSide = .sending → (s.engine l).txIndex + 1 = (s.engine l).txLevels.length → s.LineSettled l →
    let sent := s.onEngine l fun e =>
      { e with
        txQueue := fs
        txSide := if fs.isEmpty then .idle else .waiting
        txLevels := [], txIndex := 0, txSends := 0, watchdog := none
        drain := e.drain.map fun n => n - 1 }
    let timed := fun (x : Exchange) => { x with
      timer := some (s.now + (match (s.contract l).options.timeoutIndex with
        | 0 => 10
        | 1 => 25
        | 2 => 60
        | _ => 150))
      reportedAt := some s.now }
    ((∀ x, (s.contract l).exchange = some x → x.frameId ≠ f.id) →
      ((s.contract l).timers.slowFrame ≠ some f.id → exec (.frameSent l) s = .next sent) ∧
      ((s.contract l).timers.slowFrame = some f.id → exec (.frameSent l) s = .next (sent.onContract l fun c =>
        { c with timers := { c.timers with slowFrame := none, slowRegreeting := some (s.now + 5000) } }))) ∧
    (∀ x, (s.contract l).exchange = some x → x.frameId = f.id →
      (x.kind = .claim ∨ x.kind = .renew →
        exec (.frameSent l) s = .next (sent.onContract l fun c => { c with exchange := some (timed x) })) ∧
      (x.kind = .announce → (s.contract l).state = .baseline ∧ (s.contract l).unmanaged = true →
        exec (.frameSent l) s = .next (sent.onContract l fun c =>
          { c with
            exchange := some (timed x)
            timers := { c.timers with slowRegreeting := some (s.now + 5000) } })) ∧
      (x.kind = .announce → ¬((s.contract l).state = .baseline ∧ (s.contract l).unmanaged = true) →
        exec (.frameSent l) s = .next (sent.onContract l fun c => { c with exchange := some (timed x) })) ∧
      (x.kind = .claimGranted → exec (.frameSent l) s = .next sent) ∧
      (∀ r, x.kind = .recall → (s.contract l).recallOut = some r →
        exec (.frameSent l) s = .next (sent.onContract l fun c =>
          { c with recallOut := some { r with deadline := some (s.now + 100) } })))

/-- R9, R13, R14, R15, R16, R34, R46, R57, R77, R81, R100, R103, R152: how a send fails, below the fourth strike: the first
loop failure of a frame; a frame that is not the outstanding request's; the outstanding request's, whose FAILED report is taken
on as an expiry with the outcome LINE_ERROR, but that of a CLAIM that has its GRANT counts none (log 18); that of a RECALL
forces it, and a pending recall target is then taken up. The fourth strike leads to FAULTED, as does the third expiry of the
watchdog. Order of flag, fault and report by log 17, of report and FAULTED by log 30; an ANNOUNCE closed before its report by
log 15. -/
def Obligations.FailedSendsAreLinkFaults : Prop :=
  (∀ (l : Line) (s : State) (f : TxFrame) (fs : List TxFrame), (s.engine l).txQueue = f :: fs →
    (s.engine l).txSide = .sending → s.LineSettled l → s.strikes.get l + 1 ≠ 4 →
    (f.loopFailures = 0 → ∃ t, exec (.loopFailure l) s = .next t ∧
      (t.engine l).txQueue = { f with loopFailures := 1 } :: fs ∧ (t.engine l).txSide = .retryWait ∧
      (t.engine l).txSends = 0 ∧ (t.engine l).watchdog = none ∧ (t.engine l).rxSide = .discarding ∧
      (t.engine l).health = { (s.engine l).health with loopFail := true } ∧ t.contract l = s.contract l ∧
      t.channel l = s.channel l ∧ t.budget = s.budget ∧ FaultTaken l s t .loop (kindOfChars f.chars) ∧ LineFrame l s t) ∧
    ((∀ x, (s.contract l).exchange = some x → x.frameId ≠ f.id) →
      let gone := fun (t : State) =>
        (t.engine l).txQueue = fs ∧ (t.engine l).txSide = (if fs.isEmpty then .idle else .waiting) ∧
        (t.engine l).watchdog = none ∧
        ((s.contract l).timers.slowFrame ≠ some f.id → t.contract l = s.contract l) ∧
        ((s.contract l).timers.slowFrame = some f.id → t.contract l = { s.contract l with
          timers := { (s.contract l).timers with slowFrame := none, slowRegreeting := some (s.now + 5000) } }) ∧
        t.channel l = s.channel l ∧ t.budget = s.budget ∧ LineFrame l s t
      ((s.engine l).txSends = 4 → ∃ t, exec (.repeatLimit l) s = .next t ∧ gone t ∧
        (t.engine l).health = { (s.engine l).health with repeatLimit := true } ∧
        FaultTaken l s t .repeatLimit (kindOfChars f.chars)) ∧
      (f.loopFailures ≠ 0 → ∃ t, exec (.loopFailure l) s = .next t ∧ gone t ∧ (t.engine l).rxSide = .discarding ∧
        (t.engine l).health = { (s.engine l).health with loopFail := true } ∧
        FaultTaken l s t .loop (kindOfChars f.chars)) ∧
      (∀ n, (s.engine l).watchdog = some n → 40 ≤ n → (s.engine l).wdCount + 1 ≠ 3 →
        ∃ t, exec (.txTimeout l) s = .next t ∧ gone t ∧ (t.engine l).wdCount = (s.engine l).wdCount + 1 ∧
          (t.engine l).health = { (s.engine l).health with txTimeout := true } ∧
          FaultTaken l s t .txTimeout (kindOfChars f.chars)))) ∧
  (∀ (l : Line) (s : State) (f : TxFrame) (fs : List TxFrame) (x : Exchange) (cause : Cause) (c : Instr),
    (s.engine l).txQueue = f :: fs → (s.engine l).txSide = .sending → s.LineSettled l → s.strikes.get l + 1 ≠ 4 →
    (s.contract l).exchange = some x → x.frameId = f.id →
    ((c = .repeatLimit l ∧ cause = .repeatLimit ∧ (s.engine l).txSends = 4) ∨
      (c = .loopFailure l ∧ cause = .loop ∧ f.loopFailures ≠ 0) ∨
      (c = .txTimeout l ∧ cause = .txTimeout ∧ (s.engine l).wdCount + 1 < 3 ∧
        ∃ n, (s.engine l).watchdog = some n ∧ 40 ≤ n)) →
    (x.kind = .claim ∨ x.kind = .renew → x.expiries = 0 → (s.engine l).canSend = true → fs.length < 4 →
      ∃ t, exec c s = .next t ∧ (t.engine l).txQueue = fs ++ [⟨(s.engine l).nextId, x.chars, 0⟩] ∧
        t.contract l = { s.contract l with
          lastOutcome := some .lineError
          exchange := some ⟨x.kind, x.tag, x.chars, (s.engine l).nextId, 1, none, none⟩ } ∧
        t.channel l = s.channel l ∧ FaultTaken l s t cause (kindOfChars f.chars) ∧ LineFrame l s t) ∧
    (x.kind = .claim ∨ x.kind = .renew → x.expiries ≠ 0 → ∃ t, exec c s = .next t ∧
      ClosedTo l s t .greeting .none (some .lineError) ∧ (t.contract l).timers.greetingDelay = some (s.now + 50) ∧
      (t.engine l).txQueue = fs ∧ FaultTaken l s t cause (kindOfChars f.chars) ∧ LineFrame l s t) ∧
    (x.kind = .claimGranted → ∃ t, exec c s = .next t ∧
      t.contract l = { s.contract l with lastOutcome := some .lineError } ∧ (t.engine l).txQueue = fs ∧
      FaultTaken l s t cause (kindOfChars f.chars) ∧ LineFrame l s t) ∧
    (x.kind = .announce → (s.contract l).state = .greeting → (s.contract l).greetingCount < 2 →
      ∃ t, exec c s = .next t ∧ t.contract l = { s.contract l with
          lastOutcome := some .lineError
          exchange := none
          greetingCount := (s.contract l).greetingCount + 1
          timers := { (s.contract l).timers with greetingRetry := some (s.now + 200) } } ∧
        (t.engine l).txQueue = fs ∧ FaultTaken l s t cause (kindOfChars f.chars) ∧ LineFrame l s t) ∧
    (x.kind = .announce → (s.contract l).state = .greeting → (s.contract l).greetingCount = 2 →
      ∃ t, exec c s = .next t ∧ (t.contract l).lastOutcome = some .noAnswer ∧ (t.contract l).exchange = none ∧
        (t.engine l).txQueue = fs ∧ FaultTaken l s t cause (kindOfChars f.chars) ∧ LineFrame l s t ∧
        ((s.contract l).options.roles.draw = true →
          (t.contract l).state = .baseline ∧ (t.contract l).role = .draw ∧ (t.contract l).unmanaged = true ∧
          (t.contract l).timers.slowRegreeting = some (s.now + 5000) ∧
          (t.channel l).command =
            ⟨.draw, 0, (s.contract l).options.baseline, false, ⟨true, false, false, false, none⟩⟩) ∧
        ((s.contract l).options.roles.draw = false →
          (t.contract l).state = .blocked ∧ (t.contract l).role = .none ∧ (t.channel l).command = .opened)) ∧
    (x.kind = .announce → (s.contract l).state = .baseline → (s.contract l).unmanaged = true →
      ∃ t, exec c s = .next t ∧ t.contract l = { s.contract l with
          lastOutcome := some .lineError
          exchange := none
          timers := { (s.contract l).timers with slowRegreeting := some (s.now + 5000) } } ∧
        (t.engine l).txQueue = fs ∧ FaultTaken l s t cause (kindOfChars f.chars) ∧ LineFrame l s t) ∧
    (∀ r a, x.kind = .recall → (s.contract l).recallOut = some r → (s.contract l).agreement = some a →
      (s.contract l).state = .active → (s.contract l).role = .supply → (s.contract l).grant = none →
      ∃ t, exec c s = .next t ∧ (t.contract l).agreement = some { a with current := r.level } ∧
        (t.contract l).target = none ∧ (t.contract l).lastOutcome = some .recallForced ∧
        (t.contract l).state = .active ∧ t.budget.supplyCommit.get l = a.voltage * r.level / 200 ∧
        t.strikes.get l = min 255 (s.strikes.get l + 1) ∧ LineFrame l s t ∧
        (s.TargetMet l r.level →
          (t.contract l).recallOut = none ∧ (t.contract l).exchange = none ∧ (t.engine l).txQueue = fs) ∧
        (s.OnlyRecall l → TargetRecalled l s t ((s.engine l).canSend && decide (fs.length < 4)) fs
          (s.engine l).nextId r.level))) ∧
  (∀ (l : Line) (s : State) (f : TxFrame) (fs kept : List TxFrame) (cause : Cause) (c : Instr),
    (s.engine l).txQueue = f :: fs → (s.engine l).txSide = .sending → s.LineSettled l → s.strikes.get l + 1 = 4 →
    (s.contract l).state ≠ .detached → (s.contract l).state ≠ .faulted →
    ((c = .repeatLimit l ∧ cause = .repeatLimit ∧ kept = fs ∧ (s.engine l).txSends = 4) ∨
      (c = .loopFailure l ∧ cause = .loop ∧ kept = fs ∧ f.loopFailures ≠ 0) ∨
      (c = .loopFailure l ∧ cause = .loop ∧ kept = { f with loopFailures := 1 } :: fs ∧ f.loopFailures = 0) ∨
      (c = .txTimeout l ∧ cause = .txTimeout ∧ kept = fs ∧ (s.engine l).wdCount + 1 < 3 ∧
        ∃ n, (s.engine l).watchdog = some n ∧ 40 ≤ n)) →
    ∃ t, exec c s = .next t ∧ ClosedTo l s t .faulted (s.contract l).role (s.contract l).lastOutcome ∧
      FaultTaken l s t cause (kindOfChars f.chars) ∧
      ((s.engine l).accepts = true → (t.engine l).txQueue =
        kept ++ [⟨(s.engine l).nextId, (Frame.mk (s.contract l).tagCounter (.ending .fault)).chars, 0⟩]) ∧
      LineFrame l s t) ∧
  (∀ (l : Line) (s : State) (f : TxFrame) (fs : List TxFrame) (n : Nat), (s.engine l).txQueue = f :: fs →
    (s.engine l).txSide = .sending → (s.engine l).watchdog = some n → 40 ≤ n → (s.engine l).wdCount = 2 →
    s.LineSettled l → (s.contract l).state ≠ .detached →
    ∃ t, exec (.txTimeout l) s = .next t ∧ (t.engine l).wdCount = 3 ∧ (t.contract l).state = .faulted ∧
      (t.channel l).command = .opened ∧ (t.engine l).txQueue.length ≤ fs.length)

/-! ### Exchanges and contract timers -/

/-- R24, R45, R46: the initiating ANNOUNCE of each greeting interval (its class by R45); deadlines by log 2; the slow
re-greeting by log 15. -/
def Obligations.GreetingTimersSendAnnounce : Prop :=
  ∀ (l : Line) (s : State) (d : Time), s.MaySend l → s.LineSettled l → (s.now - d).toNat < 2147483648 →
    let roles := (s.contract l).options.roles
    let cls := if roles.draw then (if roles.supply = true ∧ s.budget.supplyCeiling ≠ 0 then FarClass.both else .consumer)
      else if roles.supply then .supplier else .none
    let chars := (Frame.mk 1 (.announce cls true false 0x0E400002 1)).chars
    let sent := fun (timers : Timers) => (s.onEngine l fun e =>
        { e with
          txQueue := e.txQueue ++ [⟨e.nextId, chars, 0⟩]
          txSide := if e.txSide = .idle then .waiting else e.txSide
          nextId := e.nextId + 1 }).onContract l fun c =>
      { c with timers := timers, exchange := some ⟨.announce, 1, chars, (s.engine l).nextId, 0, none, none⟩ }
    ((s.contract l).state = .greeting → (s.contract l).timers.greetingDelay = some d →
      exec (.greetingDelayExpiry l) s = .next (sent { (s.contract l).timers with greetingDelay := none })) ∧
    ((s.contract l).state = .greeting → (s.contract l).timers.greetingRetry = some d →
      exec (.greetingRetry l) s = .next (sent { (s.contract l).timers with greetingRetry := none })) ∧
    ((s.contract l).state = .baseline → (s.contract l).unmanaged = true →
      (s.contract l).timers.slowRegreeting = some d →
      exec (.slowRegreeting l) s = .next (sent { (s.contract l).timers with slowRegreeting := none }))

/-- R28, R32, R71, R72, R73, R76, R81: the waiting request is handed once no request is outstanding; after the backoff the same
candidate is claimed again, with a new tag and the wait streak kept, or, where it can no longer be claimed (log 31), the streak
returns to 0 and the first candidate after the old cursor that can be claimed is claimed, or none is left; a CLAIM waits behind
an outstanding request, as every `ClaimSent` says; the renewal timer sends a RENEW with the measured current, which waits in the
same way, and displaces a CLAIM or RENEW that waits already: that one is timed as DROPPED (log 12); deadlines by log 2. What a
candidate is, MenuLeadsToTheFirstClaim says. -/
def Obligations.TimedRequestsAreHanded : Prop :=
  (∀ (l : Line) (s : State) (r : Request), (s.engine l).accepts = true → (s.contract l).exchange = none →
    (s.contract l).waiting = some r →
    exec (.waitingRequestHanded l) s = .next ((s.onEngine l fun e =>
        { e with
          txQueue := e.txQueue ++ [⟨e.nextId, r.chars, 0⟩]
          txSide := if e.txSide = .idle then .waiting else e.txSide
          nextId := e.nextId + 1 }).onContract l fun c =>
      { c with
        waiting := none, exchange := some ⟨r.kind, r.tag, r.chars, (s.engine l).nextId, r.expiries, none, none⟩ })) ∧
  (∀ (l : Line) (s : State) (d : Time) (f : ClaimFields), (s.contract l).state = .backoff →
    (s.contract l).timers.backoff = some d → (s.now - d).toNat < 2147483648 →
    s.candidate l (s.contract l).cursor = some f →
    ∃ t, exec (.backoffExpiry l) s = .next t ∧ ClaimSent l s t (s.contract l).cursor f ∧
      (t.contract l).waitStreak = (s.contract l).waitStreak ∧ LineFrame l s t) ∧
  (∀ (l : Line) (s : State) (d : Time), (s.contract l).state = .backoff → (s.contract l).timers.backoff = some d →
    (s.now - d).toNat < 2147483648 → s.LineSettled l → s.candidate l (s.contract l).cursor = none →
    let old := (s.contract l).cursor
    ∃ t, exec (.backoffExpiry l) s = .next t ∧ (t.contract l).waitStreak = 0 ∧ LineFrame l s t ∧
      (∀ n f, s.candidate l n = some f → old.before n →
        (∀ j, old.before j → Cursor.before j n → s.candidate l j = none) →
        ClaimSent l s t n f ∧ (t.contract l).lastOutcome = (s.contract l).lastOutcome) ∧
      ((∀ n, old.before n → s.candidate l n = none) → (t.contract l).state = .baseline ∧ (t.contract l).role = .draw ∧
        (t.contract l).lastOutcome = some .noSuitablePoint ∧ (t.contract l).agreement = none ∧
        t.budget.drawCommit.get l = 0 ∧
        HandedOrDropped l s t ⟨(s.contract l).tagCounter, .ending .noSuitablePoint⟩ ∧
        t.Told l s.now (.ended .draw .baseline (some .noSuitablePoint)))) ∧
  (∀ (l : Line) (s : State) (d : Time), (s.contract l).state = .active → (s.contract l).role = .draw →
    (s.contract l).timers.renewal = some d → (s.now - d).toNat < 2147483648 → s.LineSettled l →
    let tag := (s.contract l).tagCounter
    let frame := Frame.mk tag (.renew (min 320 (s.channel l).latest.current.toNat))
    let timers := { (s.contract l).timers with renewal := none }
    (s.MaySend l → exec (.renewalExpiry l) s = .next ((s.onEngine l fun e =>
        { e with
          txQueue := e.txQueue ++ [⟨e.nextId, frame.chars, 0⟩]
          txSide := if e.txSide = .idle then .waiting else e.txSide
          nextId := e.nextId + 1 }).onContract l fun c =>
      { c with
        tagCounter := tag + 1
        exchange := some ⟨.renew, tag, frame.chars, (s.engine l).nextId, 0, none, none⟩
        timers := timers })) ∧
    ((s.contract l).exchange.isSome = true →
      ((s.contract l).waiting = none → exec (.renewalExpiry l) s = .next (s.onContract l fun c =>
        { c with tagCounter := tag + 1, waiting := some ⟨.renew, tag, frame.chars, 0⟩, timers := timers })) ∧
      (∀ w, (s.contract l).waiting = some w → w.kind = .claim ∨ w.kind = .renew →
        exec (.renewalExpiry l) s = .next (s.onContract l fun c =>
          { c with
            tagCounter := tag + 1
            waiting := some ⟨.renew, tag, frame.chars, 0⟩
            displaced := c.displaced ++ [⟨w.kind, w.tag, w.chars, 0, w.expiries,
              some (s.now + (match c.options.timeoutIndex with
                | 0 => 10
                | 1 => 25
                | 2 => 60
                | _ => 150)), some s.now⟩]
            timers := timers }))))

/-- R32, R34, R46, R77, R81, R155: an answer timer expires: a CLAIM or RENEW is handed once more with its tag, its second
expiry closes the contract, an unanswered ANNOUNCE counts, and the third ends the greeting in an unmanaged BASELINE or BLOCKED;
the expiry of one sent in that BASELINE closes it and changes nothing else in the contract. A CLAIM or RENEW that was displaced
from waiting is taken on in the same way, and waits while another request is outstanding (log 12). Deadlines by log 2; the
unmanaged BASELINE by log 15. -/
def Obligations.AnswerTimeoutTakesTheExchangeOn : Prop :=
  (∀ (l : Line) (s : State) (x : Exchange) (d : Time), (s.contract l).exchange = some x → x.timer = some d →
    (s.now - d).toNat < 2147483648 → s.LineSettled l →
    let noted := s.onEngine l fun e => { e with health := { e.health with
      malformed := false, shortFrame := false, strayAnswer := false, answerTimeout := true } }
    (x.kind = .claim ∨ x.kind = .renew → x.expiries = 0 → (s.engine l).accepts = true →
      exec (.answerTimeout l) s = .next ((noted.onEngine l fun e =>
          { e with
            txQueue := e.txQueue ++ [⟨e.nextId, x.chars, 0⟩]
            txSide := if e.txSide = .idle then .waiting else e.txSide
            nextId := e.nextId + 1 }).onContract l fun c =>
        { c with exchange := some ⟨x.kind, x.tag, x.chars, (s.engine l).nextId, 1, none, none⟩ })) ∧
    (x.kind = .claim ∨ x.kind = .renew → x.expiries ≠ 0 →
      ∃ t, exec (.answerTimeout l) s = .next t ∧ ClosedTo l s t .greeting .none (some .noAnswer) ∧
        (t.contract l).timers.greetingDelay = some (s.now + 50) ∧ (t.engine l).txQueue = (s.engine l).txQueue ∧
        LineFrame l s t) ∧
    (∀ base, x.kind = .announce → x.reportedAt = some base → (s.contract l).state = .greeting →
      (s.contract l).greetingCount < 2 →
      exec (.answerTimeout l) s = .next (noted.onContract l fun c =>
        { c with
          exchange := none
          greetingCount := c.greetingCount + 1
          timers := { c.timers with greetingRetry := some (base + 200) } })) ∧
    (x.kind = .announce → (s.contract l).state = .baseline → (s.contract l).unmanaged = true →
      exec (.answerTimeout l) s = .next (noted.onContract l fun c => { c with exchange := none }))) ∧
  (∀ (l : Line) (s : State) (x : Exchange) (d base : Time), (s.contract l).exchange = some x → x.timer = some d →
    (s.now - d).toNat < 2147483648 → s.LineSettled l → x.kind = .announce → x.reportedAt = some base →
    (s.contract l).state = .greeting → (s.contract l).greetingCount = 2 →
    ∃ t, exec (.answerTimeout l) s = .next t ∧ (t.contract l).lastOutcome = some .noAnswer ∧
      (t.contract l).exchange = none ∧ LineFrame l s t ∧
      ((s.contract l).options.roles.draw = true →
        (t.contract l).state = .baseline ∧ (t.contract l).role = .draw ∧ (t.contract l).unmanaged = true ∧
        (t.contract l).timers.slowRegreeting = some (base + 5000) ∧
        (t.channel l).command = ⟨.draw, 0, (s.contract l).options.baseline, false, ⟨true, false, false, false, none⟩⟩) ∧
      ((s.contract l).options.roles.draw = false →
        (t.contract l).state = .blocked ∧ (t.contract l).role = .none ∧ (t.channel l).command = .opened)) ∧
  (∀ (l : Line) (s : State) (x y : Exchange) (d : Time), (s.contract l).exchange = some y → y.timer = none →
    (s.contract l).displaced = [x] → x.timer = some d → (s.now - d).toNat < 2147483648 →
    x.kind = .claim ∨ x.kind = .renew → (s.contract l).waiting = none → s.LineSettled l →
    (x.expiries = 0 → exec (.answerTimeout l) s = .next ((s.onEngine l fun e => { e with health := { e.health with
        malformed := false, shortFrame := false, strayAnswer := false, answerTimeout := true } }).onContract l fun c =>
      { c with displaced := [], waiting := some ⟨x.kind, x.tag, x.chars, 1⟩ })) ∧
    (x.expiries ≠ 0 → ∃ t, exec (.answerTimeout l) s = .next t ∧ ClosedTo l s t .greeting .none (some .noAnswer) ∧
      LineFrame l s t))

/-- R78, R99: no READY within its wait, or no RENEW before the lease deadline: the contract closes and re-greets; deadlines
by log 2. -/
def Obligations.SilentFarEndsAreClosed : Prop :=
  ∀ (l : Line) (s : State) (d : Time), (s.now - d).toNat < 2147483648 → s.LineSettled l →
    ((s.contract l).state = .switching → (s.contract l).timers.readyWait = some d →
      ∃ t, exec (.readyWaitExpiry l) s = .next t ∧ ClosedTo l s t .greeting .none (some .noAnswer) ∧
        (t.contract l).timers.greetingDelay = some (s.now + 50) ∧ (t.engine l).txQueue = (s.engine l).txQueue ∧
        LineFrame l s t) ∧
    ((s.contract l).state = .active → (s.contract l).role = .supply → (s.contract l).leaseDeadline = some d →
      (s.engine l).accepts = true →
      ∃ t, exec (.leaseDeadline l) s = .next t ∧ ClosedTo l s t .greeting .none (some .leaseLost) ∧
        (t.contract l).timers.greetingDelay = some (s.now + 50) ∧
        Handed l s t ⟨(s.contract l).tagCounter, .ending .leaseLost⟩ ∧ LineFrame l s t)

/-- R100, R102, R103: a recall that the far end has not honoured at its deadline, or yields too little to, is forced; a YIELD
within the recall's level lowers the agreement to its limit. A pending recall target is then taken up: where it lies below the
current now agreed a RECALL to it is sent, otherwise nothing; deadlines by log 2, the complete frame by log 11. -/
def Obligations.RecallsEndByYieldOrForce : Prop :=
  (∀ (l : Line) (s : State) (r : RecallOut) (a : Agreement) (d : Time), (s.contract l).recallOut = some r →
    (s.contract l).agreement = some a → (s.contract l).state = .active →
    (s.contract l).role = .supply → (s.contract l).grant = none → s.LineSettled l →
    let forced := fun (t : State) =>
      (t.contract l).agreement = some { a with current := r.level } ∧ (t.contract l).target = none ∧
      (s.TargetMet l r.level → (t.contract l).recallOut = none ∧ (t.engine l).txQueue = (s.engine l).txQueue) ∧
      (s.OnlyRecall l →
        TargetRecalled l s t (s.engine l).accepts (s.engine l).txQueue (s.engine l).nextId r.level) ∧
      (t.contract l).lastOutcome = some .recallForced ∧ (t.contract l).state = .active ∧
      (t.channel l).command =
        ⟨.supply, a.voltage, r.level, false, ⟨false, true, false, true, some a.voltage⟩⟩ ∧
      t.budget.supplyCommit.get l = a.voltage * r.level / 200 ∧ FaultTaken l s t .recallIgnored (some .recall) ∧
      t.Told l s.now (.agreed .supply .active (some .recallForced) a.voltage r.level a.lease a.point) ∧ LineFrame l s t
    (r.deadline = some d → (s.now - d).toNat < 2147483648 →
      ∃ t, exec (.recallDeadline l) s = .next t ∧ forced t) ∧
    (∀ tag limit, s.Arrives l ⟨tag, .yield limit⟩ → (s.contract l).fits .recall tag = true → r.level < limit →
      ∃ t, exec (.yieldReceived l) s = .next t ∧ (t.engine l).rxSide = .idle ∧ forced t)) ∧
  (∀ (l : Line) (s : State) (r : RecallOut) (a : Agreement) (tag : Tag) (limit : Nat), (s.contract l).recallOut = some r →
    (s.contract l).agreement = some a → (s.contract l).state = .active →
    (s.contract l).role = .supply → (s.contract l).grant = none → s.LineSettled l → s.Arrives l ⟨tag, .yield limit⟩ →
    (s.contract l).fits .recall tag = true → limit ≤ r.level →
    ∃ t, exec (.yieldReceived l) s = .next t ∧ (t.contract l).agreement = some { a with current := limit } ∧
      (t.contract l).target = none ∧
      (s.TargetMet l limit → (t.contract l).recallOut = none ∧ (t.contract l).exchange = none ∧
        (t.engine l).txQueue = (s.engine l).txQueue) ∧
      (s.OnlyRecall l →
        TargetRecalled l s t (s.engine l).accepts (s.engine l).txQueue (s.engine l).nextId limit) ∧
      (t.contract l).lastOutcome = (s.contract l).lastOutcome ∧
      (t.channel l).command = ⟨.supply, a.voltage, limit, false, ⟨false, true, false, true, some a.voltage⟩⟩ ∧
      t.budget.supplyCommit.get l = a.voltage * limit / 200 ∧
      t.Told l s.now (.agreed .supply .active (s.contract l).lastOutcome a.voltage limit a.lease a.point) ∧
      t.captures.get l = s.captures.get l ∧ LineFrame l s t)

/-! ### Path and sense -/

/-- R57, R79, R136, R137, R140, R141, R143, R144, R149: from the trip of a channel on, its outputs are those of OPEN and it
takes no command but OPEN, which clears the flag; the report of the trip, or a failed voltage check, leads to FAULTED with the
path open; in DETACHED and FAULTED the fault only is taken, with that state. The stamp is the time of the sample or expiry.
The report that is pending is log 9, one that an OPEN has come before log 20; the causes of one sample are log 32; deadlines
by log 2. -/
def Obligations.TripsLeadToFaulted : Prop :=
  (∀ (ch : Channel) (cmd : PathCommand) (now : Time) (capped : Bool), ch.tripped = true →
    ch.output = ⟨false, 0, 0⟩ ∧ (cmd.form ≠ .opened → ch.take cmd now capped = ch) ∧
    (ch.take .opened now capped).tripped = false ∧ (ch.take .opened now capped).command = .opened ∧
    (ch.take .opened now capped).due = ch.due) ∧
  ∀ (l : Line) (s : State) (c : Instr) (cause : Cause) (stamp : Time), s.LineSound l →
    (stamp = (s.channel l).tripStamp ∧ ((c = .overcurrentTrip l ∧ cause = .overcurrent ∧ (s.channel l).due.overcurrent = true) ∨
        (c = .reverseTrip l ∧ cause = .reverse ∧ (s.channel l).due.reverse = true) ∨
        (c = .holdTrip l ∧ cause = .voltage ∧ (s.channel l).due.hold = true) ∨
        (c = .settleTimeout l ∧ cause = .settle ∧ (s.channel l).due.settle = true)) ∨
      (c = .settleTimeout l ∧ cause = .settle ∧ (s.channel l).due.settle = false ∧
        ∃ start, (s.channel l).settleStart = some start ∧ (s.now - (start + 250)).toNat < 2147483648 ∧
          stamp = start + 250) ∨
      (c = .voltageCheckExpiry l ∧ cause = .voltage ∧ stamp = s.now ∧ (s.contract l).state = .switching ∧
        ∃ ready, (s.contract l).timers.voltageCheck = some ready ∧ (s.now - (ready + 50)).toNat < 2147483648)) →
    ((s.contract l).state ≠ .detached → (s.contract l).state ≠ .faulted → ∃ t, exec c s = .next t ∧
      ClosedTo l s t .faulted (s.contract l).role (s.contract l).lastOutcome ∧ (t.channel l).tripped = false ∧
      (c ≠ .voltageCheckExpiry l → (t.channel l).due = .none) ∧
      FaultTakenIn l s t (s.contract l).state cause none stamp ∧
      ((s.engine l).accepts = true → Handed l s t ⟨(s.contract l).tagCounter, .ending .fault⟩) ∧ LineFrame l s t) ∧
    ((s.contract l).state = .detached ∨ (s.contract l).state = .faulted → ∃ t, exec c s = .next t ∧
      t.contract l = s.contract l ∧ t.engine l = s.engine l ∧ t.budget = s.budget ∧
      (t.channel l).command = .opened ∧ (t.channel l).tripped = false ∧ (t.channel l).due = .none ∧
      FaultTakenIn l s t (s.contract l).state cause none stamp ∧ LineFrame l s t)

/-- R18, R79, R80, R138: a sample, with or without a step of the counter, becomes the line's latest, held to its ranges and
stamped, is judged by the channel's watches, and counts the presence run (log 10); while no voltage check takes it nothing
else of the part changes, but for the watchdogs that a step of the counter runs. The sample that shows the agreed voltage ends
SWITCHING in ACTIVE, whose command a channel that the sample has tripped does not store (R136), or goes on to the selection of
a deferred MENU, between two of whose queries a TABLE_PUT, a TABLE_GET or a STANCE_SET may be taken (R40, R109, R121, log 29).
The samples of one row are taken one after another, the counter stepping before the first. SAMPLE as the counter's step is log
2. -/
def Obligations.SamplesAreTakenAndJudged : Prop :=
  (∀ (s : State) (r : Reading) (tick : Bool),
    let c := s.contract r.line
    let now := if tick then s.now + 1 else s.now
    let v := min 1500 r.voltage.toNat
    let x : Sample := ⟨v, max (-320) (min 320 r.current), now⟩
    let judged := (s.channel r.line).sample x (c.options.capMode != .uncapped)
    let inside := fun (a : Agreement) => a.voltage - a.voltage * 5 / 100 ≤ v ∧ v ≤ a.voltage + a.voltage * 5 / 100
    let ran := fun (e : LineEngine) => if tick then { e with watchdog := e.watchdog.map fun n => n + 1 } else e
    (c.timers.voltageCheck = none ∨ (∀ a, c.agreement = some a → ¬inside a) →
      ∃ t, exec (.sample tick ⟨none, [r]⟩) s = .next t ∧ t.now = now ∧
        t.channel r.line = judged ∧
        (t.channel r.line).latest = x ∧ (t.channel r.line).command = (s.channel r.line).command ∧
        t.engine r.line = { ran (s.engine r.line) with
          presenceLevel := r.presenceHigh
          presenceRun := if (s.engine r.line).presenceLevel = r.presenceHigh then (s.engine r.line).presenceRun + 1
            else 0 } ∧
        (∀ m, m ≠ r.line → t.channel m = s.channel m ∧ t.engine m = ran (s.engine m)) ∧ t.contracts = s.contracts ∧
        t.budget = s.budget ∧ t.link = s.link ∧ t.rules = s.rules ∧ t.prefs = s.prefs ∧ t.menu = s.menu ∧
        t.captures = s.captures ∧ t.strikes = s.strikes ∧ t.straps = s.straps) ∧
    (∀ ready a, c.state = .switching → c.role = .draw → c.timers.voltageCheck = some ready → c.agreement = some a →
      inside a → s.LineSettled r.line →
      (c.deferred = false ∨ c.paused = true ∨ c.options.holdAfterActive = true →
        ∃ t, exec (.sample tick ⟨none, [r]⟩) s = .next t ∧ t.now = now ∧ (t.contract r.line).state = .active ∧
          (t.contract r.line).role = .draw ∧ (t.contract r.line).agreement = some a ∧
          (t.contract r.line).lastOutcome = some .done ∧ (t.contract r.line).deferred = c.deferred ∧
          (t.contract r.line).timers.renewal = some (ready + BitVec.ofNat 32 (500 * a.lease)) ∧
          (t.contract r.line).timers.voltageCheck = none ∧
          (t.contract r.line).paused = (c.paused || c.options.holdAfterActive) ∧
          (judged.tripped = false → (t.channel r.line).command =
            ⟨.draw, 0, a.current, true, ⟨true, false, false, false, some a.voltage⟩⟩) ∧
          (judged.tripped = true → t.channel r.line = judged) ∧ (t.channel r.line).latest = x ∧ t.strikes.get r.line = 0 ∧
          t.Told r.line now (.agreed .draw .active (some .done) a.voltage a.current a.lease a.point) ∧
          (tick = false → LineFrame r.line s t)) ∧
      (∀ m, c.deferred = true → c.paused = false → c.options.holdAfterActive = false → c.farMenu = some m →
        let pts := m.points.map FarPoint.point
        let here := { s with now := now }
        let selects := fun (t : State) (marks : List FarPoint) => t.now = now ∧ (t.contract r.line).deferred = false ∧
          (t.contract r.line).farMenu = some ⟨m.raw, marks⟩ ∧
          t.Told r.line now (.agreed .draw .active (some .done) a.voltage a.current a.lease a.point) ∧
          (∀ k f, s.firstClaim r.line marks = some (k, f) → ClaimSent r.line here t k f ∧
            (t.contract r.line).lastOutcome = some .done) ∧
          (s.firstClaim r.line marks = none → (t.contract r.line).state = .baseline ∧ (t.contract r.line).role = .draw ∧
            (t.contract r.line).lastOutcome = some .noSuitablePoint ∧ (t.contract r.line).agreement = none ∧
            t.budget.drawCommit.get r.line = 0 ∧
            HandedOrDropped r.line s t ⟨c.tagCounter, .ending .noSuitablePoint⟩ ∧
            t.Told r.line now (.ended .draw .baseline (some .noSuitablePoint)))
        (s.NoForward r.line pts →
          ∃ t, exec (.sample tick ⟨none, [r]⟩) s = .next t ∧ selects t (pts.mapIdx (s.markOf r.line))) ∧
        (∀ n kind q u, 1 ≤ n → n < pts.length → exec (kind.row q) s = .next u → s.NoForwardUpTo u r.line n pts →
          ∃ t, exec (.sample tick ⟨some ⟨r.line, n, kind, q⟩, [r]⟩) s = .next t ∧ selects t (s.marksUpTo u r.line n pts) ∧
            t.link.responses.length = u.link.responses.length ∧
            (kind ≠ .tableGet → t.link.responses = u.link.responses) ∧ t.link.receiver = u.link.receiver)))) ∧
  (∀ (s : State) (mid : Option MidRequest) (tick : Bool) (r : Reading) (rs : List Reading) (u : State),
    exec (.sample tick ⟨mid, [r]⟩) s = .next u → exec (.sample tick ⟨mid, r :: rs⟩) s = exec (.sample false ⟨mid, rs⟩) u) ∧
  (∀ (s : State) (mid : Option MidRequest), exec (.sample false ⟨mid, []⟩) s = .next s ∧
    exec (.sample true ⟨mid, []⟩) s = .next { s with
      now := s.now + 1
      engines := s.engines.map fun e => { e with watchdog := e.watchdog.map fun n => n + 1 } })

/-- R97, R98, R100, R104, R139, R146: the settle event ends POWERING in ACTIVE, where a pending recall target is taken up, and
in any other state is dropped; the cap event is taken by the line's cap mode, and dropped where the line does not supply: under
RECALL_AT_CAP it is a recall cause at the baseline current, pending in POWERING and behind a recall outstanding. The reports
stand latched, log 9. -/
def Obligations.ChannelReportsAreTaken : Prop :=
  (∀ (l : Line) (s : State) (v : Nat), (s.channel l).settleReport = some v →
    ((s.contract l).state ≠ .powering →
      exec (.settleEvent l) s = .next (s.onChannel l fun ch => { ch with settleReport := none })) ∧
    (∀ g, (s.contract l).state = .powering → (s.contract l).grant = some g → s.LineSettled l →
      ∃ t, exec (.settleEvent l) s = .next t ∧ (t.contract l).state = .active ∧ (t.contract l).role = .supply ∧
        (t.contract l).agreement = some ⟨g.voltage, g.current, g.lease, g.point⟩ ∧ (t.contract l).grant = none ∧
        (t.contract l).lastOutcome = some .done ∧
        (t.contract l).paused = ((s.contract l).paused || (s.contract l).options.holdAfterActive) ∧
        (t.contract l).leaseDeadline = some (s.now + BitVec.ofNat 32 (1000 * g.lease)) ∧
        (t.contract l).target = none ∧
        (s.TargetMet l g.current → (t.contract l).recallOut = (s.contract l).recallOut ∧
          ((s.engine l).accepts = true → Handed l s t ⟨g.tag, .ready v g.current⟩)) ∧
        ((s.contract l).exchange = none → (s.contract l).waiting = none →
          TargetRecalled l s t ((s.engine l).canSend && decide ((s.engine l).txQueue.length < 3))
            ((s.engine l).txQueue ++ (if (s.engine l).accepts then
              [⟨(s.engine l).nextId, (Frame.mk g.tag (.ready v g.current)).chars, 0⟩] else []))
            ((s.engine l).nextId + 1) g.current) ∧
        (t.channel l).command = ⟨.supply, g.voltage, g.current, false, ⟨false, true, false, true, some g.voltage⟩⟩ ∧
        t.budget.supplyCommit.get l = g.voltage * g.current / 200 ∧ t.strikes.get l = 0 ∧
        t.Told l s.now (.agreed .supply .active (some .done) g.voltage g.current g.lease g.point) ∧ LineFrame l s t)) ∧
  (∀ (l : Line) (s : State), (s.channel l).capReport = true → s.LineSettled l →
    let c := s.contract l
    let taken := s.onChannel l fun ch => { ch with capReport := false }
    let supplying := c.state = .powering ∨ (c.state = .active ∧ c.role = .supply)
    (¬supplying ∨ c.options.capMode = .uncapped → exec (.capEvent l) s = .next taken) ∧
    (supplying → c.options.capMode = .endAtCap → (s.engine l).accepts = true →
      ∃ t, exec (.capEvent l) s = .next t ∧ ClosedTo l s t .greeting .none (some .capReached) ∧
        (t.channel l).capReport = false ∧ (t.contract l).timers.greetingDelay = some (s.now + 50) ∧
        Handed l s t ⟨c.tagCounter, .ending .capReached⟩ ∧ LineFrame l s t) ∧
    (c.options.capMode = .recallAtCap →
      (c.state = .powering ∨ (c.state = .active ∧ c.role = .supply ∧ c.recallOut.isSome = true) →
        exec (.capEvent l) s = .next (taken.onContract l fun c =>
          { c with target := some (match c.target with
            | some old => if old.level ≤ c.options.baseline then old else ⟨c.options.baseline, .cap⟩
            | none => ⟨c.options.baseline, .cap⟩) })) ∧
      (∀ a, c.state = .active → c.role = .supply → c.recallOut = none → c.agreement = some a →
        (a.current ≤ c.options.baseline → exec (.capEvent l) s = .next taken) ∧
        (c.options.baseline < a.current → s.MaySend l → ∃ t, exec (.capEvent l) s = .next t ∧
          (t.channel l).capReport = false ∧
          (t.contract l).recallOut = some ⟨c.options.baseline, none, .cap⟩ ∧
          (t.contract l).agreement = some a ∧ Handed l s t ⟨c.tagCounter, .recall c.options.baseline 10⟩ ∧
          LineFrame l s t))))

/-! ### Far frames -/

/-- R33, R35, R37, R45, R47, R48, R49, R50, R116: an ANNOUNCE in GREETING, initiating or an answer that fits, by the action
that the rule table answers: under AUTO and CLAMP the role is decided (`RoleDecided`), REFUSE blocks the contract, WAIT leaves
it as it is, its greeting stopped. One that restarts the contract is processed as in GREETING; on a DISABLED line it is
answered ENDING ROLE. An answer that fits closes the request in any other state; every other ANNOUNCE is stray. An initiating
one supersedes a pending decision first (log 14 for one that began in CLAIMING or BACKOFF, log 36 for the return to ACTIVE), and
is then taken in GREETING or restarts the contract. A FORWARD in RUNNING mode is ForwardHandsTheDecision. -/
def Obligations.AnnounceDecidesTheRole : Prop :=
  (∀ (l : Line) (s : State) (tag : Tag) (cls : FarClass) (canRecall answering : Bool) (idn : BitVec 32) (lvl : Nat),
    s.Arrives l ⟨tag, .announce cls canRecall answering idn lvl⟩ →
    (answering = true → (s.contract l).fits .announce tag = true) → (s.contract l).state = .greeting →
    (s.contract l).decision = none → (s.engine l).accepts = true → (s.channel l).tripped = false →
    let q : Query := ⟨l, .announce, some cls, some idn, 0, 0, 0, 0⟩
    let act := s.actionOf q
    let kept := fun (t : State) =>
      (t.contract l).far = some ⟨cls, idn, lvl⟩ ∧ (t.contract l).farRecall = some canRecall ∧
      (t.contract l).exchange = none ∧ t.rules = (s.afterQuery q).rules ∧ LineFrame l s t
    s.announce l true =
      .announce (announceClass (s.contract l).options.roles s.budget.supplyCeiling) true true 0x0E400002 1 ∧
    (∀ clamp, (act = .auto ∧ clamp = none) ∨ (act = .clamp ∧ clamp = some (s.answerOf q).clamp) →
      ∃ t, exec (.announceReceived l) s = .next t ∧ kept t ∧ RoleDecided l s t answering cls clamp) ∧
    (act = .refuse → ∃ t, exec (.announceReceived l) s = .next t ∧ kept t ∧ (t.contract l).state = .blocked ∧
      (t.contract l).role = .none ∧ (t.contract l).lastOutcome = some .refused ∧ (t.contract l).greetingStopped = false ∧
      (t.contract l).lineClamp = none ∧
      Handed l s t ⟨(s.contract l).tagCounter, .ending .refused⟩ ∧ (t.channel l).command = .opened) ∧
    (act = .wait → ∃ t, exec (.announceReceived l) s = .next t ∧ kept t ∧ (t.contract l).state = .greeting ∧
      (t.contract l).role = .none ∧ (t.contract l).lastOutcome = (s.contract l).lastOutcome ∧
      (t.contract l).lineClamp = none ∧
      (t.contract l).timers.greetingDelay = none ∧ (t.contract l).timers.greetingRetry = none ∧
      (t.contract l).greetingStopped = true ∧ (t.engine l).txQueue = (s.engine l).txQueue ∧ t.budget = s.budget)) ∧
  (∀ (l : Line) (s : State) (tag : Tag) (cls : FarClass) (canRecall answering : Bool) (idn : BitVec 32) (lvl : Nat),
    s.Arrives l ⟨tag, .announce cls canRecall answering idn lvl⟩ → s.LineSettled l →
    let c := s.contract l
    let strayed := Host.Outcome.next (σ := State) (φ := Fault) (ρ := Refusal) ((s.arrived l).onEngine l fun e =>
      { e with health := { e.health with strayAnswer := true } })
    let restarted := (s.farRestart l).onContract l fun d =>
      { d with exchange := if answering then c.exchange else none }
    let restarts := (answering = false ∧ c.decision = none ∧ c.state ≠ .greeting ∧ c.state ≠ .faulted ∧
        ¬(c.state = .blocked ∧ s.straps.get l = .disabled)) ∨
      (answering = true ∧ c.fits .announce tag = true ∧ c.state = .baseline ∧ c.unmanaged = true)
    (restarts → Restarted l s restarted ∧ exec (.announceReceived l) s = exec (.announceReceived l) restarted) ∧
    (answering = true → c.fits .announce tag = true → c.state ≠ .greeting →
      ¬(c.state = .baseline ∧ c.unmanaged = true) → exec (.announceReceived l) s =
        .next ((s.arrived l).onContract l fun d => { d with exchange := none })) ∧
    (answering = true → c.fits .announce tag = false → exec (.announceReceived l) s = strayed) ∧
    (answering = false → c.decision = none → c.state = .faulted → exec (.announceReceived l) s = strayed) ∧
    (answering = false → c.decision = none → c.state = .blocked → s.straps.get l = .disabled →
      (s.engine l).accepts = true → ∃ t, exec (.announceReceived l) s = .next t ∧ (t.contract l).state = .blocked ∧
        (t.contract l).far = some ⟨cls, idn, lvl⟩ ∧ (t.contract l).farRecall = some canRecall ∧
        (t.contract l).lastOutcome = some .noRole ∧ (t.contract l).exchange = c.exchange ∧
        Handed l s t ⟨c.tagCounter, .ending .role⟩ ∧ (t.channel l).command = .opened ∧ t.rules = s.rules ∧
        LineFrame l s t)) ∧
  (∀ (l : Line) (s : State) (canRecall : Bool) (idn : BitVec 32) (lvl : Nat),
    s.Arrives l ⟨1, .announce .supplier canRecall false idn lvl⟩ → (s.contract l).state.contracted = true →
    (s.contract l).decision = none → s.LineSettled l → (s.contract l).options.roles.draw = true →
    (s.contract l).role ≠ .none → (s.engine l).accepts = true →
    let act := s.actionOf ⟨l, .announce, some .supplier, some idn, 0, 0, 0, 0⟩
    act = .auto ∨ act = .clamp →
    ∃ t, exec (.announceReceived l) s = .next t ∧ (t.contract l).state = .awaitMenu ∧ (t.contract l).role = .draw ∧
      (t.contract l).agreement = none ∧ (t.contract l).claim = none ∧ (t.contract l).grant = none ∧
      (t.contract l).greetingStopped = false ∧
      (t.contract l).lastOutcome = some .endedByFar ∧ (t.contract l).far = some ⟨.supplier, idn, lvl⟩ ∧
      Handed l s t ⟨1, .announce (announceClass (s.contract l).options.roles s.budget.supplyCeiling) true true
        0x0E400002 1⟩ ∧
      t.budget.drawCommit.get l = 0 ∧ t.budget.supplyCommit.get l = 0 ∧
      t.Told l s.now (.ended (s.contract l).role .greeting (some .endedByFar)) ∧ LineFrame l s t) ∧
  (∀ (l : Line) (s : State) (tag : Tag) (cls : FarClass) (canRecall : Bool) (idn : BitVec 32) (lvl : Nat) (d : Decision),
    s.Arrives l ⟨tag, .announce cls canRecall false idn lvl⟩ → (s.contract l).decision = some d →
    d.Pends (s.contract l) →
    let left := s.supersede l
    let restarted := (left.farRestart l).onContract l fun c => { c with exchange := none }
    Superseded l s left d ∧ exec (.announceReceived l) s = exec (.announceReceived l) left ∧
    ((s.contract l).state ≠ .greeting →
      Restarted l left restarted ∧ exec (.announceReceived l) s = exec (.announceReceived l) restarted))

/-- R32, R59, R66, R67, R71, R72, R73, R86, R109: what suits a preference and at which voltage, the claim of a candidate, and
which candidate is the first that can be claimed; and a MENU of which no point is forwarded, taken in AWAIT_MENU, CLAIMING
(whose claim is abandoned), BACKOFF, BASELINE or ACTIVE: each point is marked by its own query, and that candidate is claimed,
its CLAIM behind a request that is outstanding or waits (log 12 for one that it displaces), or the line ends in BASELINE with
NO_SUITABLE_POINT. A TABLE_PUT, TABLE_GET or STANCE_SET between two of the queries leaves the earlier points judged by the state
before it, the later ones by the state after it (log 29). In SWITCHING, and on a paused line, the MENU is stored and deferred. -/
def Obligations.MenuLeadsToTheFirstClaim : Prop :=
  (∀ (pr : Preference) (p : Point) (v : Nat), pr.suits p = some v ↔
    (p.kind = .fixed ∧ pr.vMin ≤ p.v1 ∧ p.v1 ≤ pr.vMax ∧ v = p.v1) ∨
      (p.kind = .window ∧ p.v1 ≤ pr.vMax ∧ pr.vMin ≤ p.v2 ∧ v = min p.v2 pr.vMax)) ∧
  (∀ p : Point, (p.kind = .fixed → p.rawCapacity = p.v1 * p.limit / 200) ∧ (p.kind = .window → p.rawCapacity = p.limit)) ∧
  (∀ power cap : Nat, capBy power none = power ∧ capBy power (some cap) = min power cap) ∧
  (∀ (s : State) (l : Line) (marked : List FarPoint) (k : Cursor) (f : ClaimFields), s.claimOf l marked k = some f ↔
    ∃ pr p v, s.prefs.toList[k.pref]? = some pr ∧ pr.enabled = true ∧ marked[k.point]? = some p ∧ p.mark = .survives ∧
      pr.suits p.point = some v ∧
      let commitment := max (((s.contract l).agreement.map fun a => a.voltage * a.current / 200).getD 0)
        (((s.contract l).claim.map fun o => o.fields.voltage * o.fields.claimed / 200).getD 0)
      let power := min pr.wanted (min p.capacity (s.budget.drawHeadroom + commitment))
      f = ⟨k.point, v, min 320 (power * 200 / v), min 320 (max 1 (pr.least * 200 / v))⟩ ∧
        pr.least ≤ power ∧ 1 ≤ f.claimed ∧ f.least ≤ f.claimed) ∧
  (∀ (s : State) (l : Line) (marked : List FarPoint),
    (∀ k f, s.firstClaim l marked = some (k, f) ↔
      s.claimOf l marked k = some f ∧ ∀ j, Cursor.before j k → s.claimOf l marked j = none) ∧
    (s.firstClaim l marked = none ↔ ∀ k, s.claimOf l marked k = none) ∧
    ∀ k, s.candidate l k = (s.contract l).farMenu.bind fun m => s.claimOf l m.points k) ∧
  ∀ (l : Line) (s : State) (tag : Tag) (canRecall : Bool) (pts : List Point), s.Arrives l ⟨tag, .menu canRecall pts⟩ →
    (s.contract l).decision = none → s.LineSettled l →
    let c := s.contract l
    let raw := (s.engine l).rxChars.dropLast
    let processes := c.state = .awaitMenu ∨ c.state = .claiming ∨ c.state = .backoff ∨ c.state = .baseline ∨
      (c.state = .active ∧ c.role = .draw)
    let left := if c.state = .claiming then (s.arrived l).abandonClaim l else s.arrived l
    let outcome := if c.state = .claiming then some .superseded else c.lastOutcome
    let stored := fun (c : Contract) => { c with
      farRecall := some canRecall
      farMenu := some ⟨raw, pts.map fun p => ⟨p, .unqueried, 0⟩⟩
      cursor := ⟨0, 0⟩
      deferred := true
      timers := { c.timers with backoff := none } }
    let selects := fun (t : State) (marks : List FarPoint) =>
      (t.contract l).farMenu = some ⟨raw, marks⟩ ∧ (t.contract l).farRecall = some canRecall ∧
      (t.contract l).deferred = false ∧ (t.contract l).waitStreak = 0 ∧
      (∀ k f, left.firstClaim l marks = some (k, f) → ClaimSent l left t k f ∧ (t.contract l).lastOutcome = outcome) ∧
      (left.firstClaim l marks = none → (t.contract l).state = .baseline ∧ (t.contract l).role = .draw ∧
        (t.contract l).lastOutcome = some .noSuitablePoint ∧ (t.contract l).agreement = none ∧
        (t.contract l).claim = none ∧ t.budget.drawCommit.get l = 0 ∧
        HandedOrDropped l s t ⟨c.tagCounter, .ending .noSuitablePoint⟩ ∧
        t.Told l s.now (.ended .draw .baseline (some .noSuitablePoint)))
    (processes → c.paused = false →
      (s.NoForward l pts → ∃ t, exec (.menuReceived ⟨l, none⟩) s = .next t ∧ selects t (pts.mapIdx (s.markOf l)) ∧
        LineFrame l s t) ∧
      (∀ n kind q u, 1 ≤ n → n < pts.length → exec (kind.row q) s = .next u → s.NoForwardUpTo u l n pts →
        ∃ t, exec (.menuReceived ⟨l, some ⟨l, n, kind, q⟩⟩) s = .next t ∧ selects t (s.marksUpTo u l n pts) ∧
          t.link.responses.length = u.link.responses.length ∧
          (kind ≠ .tableGet → t.link.responses = u.link.responses) ∧ t.link.receiver = u.link.receiver ∧
          t.link.stance = u.link.stance ∧
          ∀ i : Fin 32, { t.rules.get i with hits := 0 } = { u.rules.get i with hits := 0 })) ∧
    (processes → c.paused = true →
      exec (.menuReceived ⟨l, none⟩) s = .next (left.onContract l fun c => { stored c with waitStreak := 0 })) ∧
    (c.state = .switching → exec (.menuReceived ⟨l, none⟩) s = .next ((s.arrived l).onContract l stored)) ∧
    (c.state = .claiming → (∀ x, c.exchange = some x → x.kind = .claim) → c.waiting = none →
      (left.contract l).exchange = none ∧ (left.contract l).waiting = none ∧ (left.contract l).claim = none ∧
      (left.contract l).lastOutcome = some .superseded ∧ left.budget.drawCommit.get l =
        ((c.agreement.map fun a => a.voltage * a.current / 200).getD 0))

/-- R37, R49, R59, R66, R67, R68, R69, R81, R94, R116, R162, R163: a query answered FORWARD. In RUNNING mode the far request is
held with its tag, arrival and state, a verdict entry opens with the next tag of its counter, a deadline of 20 ms and its RELAY
parts, and nothing is answered. Of a forwarded MENU, R68 gives the points before the forwarded one the marks of their own
queries and those after it UNQUERIED; that the forwarded point itself is UNQUERIED with capacity 0, in the far menu and in
RELAY part 2, is the model's choice, log 38; the watch of CHOOSING from ACTIVE is log 26. In AUTONOMOUS mode the fallback of a
forwarded MENU is applied to every point at once (that of an ANNOUNCE or a CLAIM in AnnounceDecidesTheRole and
ClaimIsAdmittedByHeadroom). A MENU supersedes a pending decision and is then taken in the state that began in (log 14 for
CLAIMING and BACKOFF, log 36 for the return to ACTIVE). The complete frame is log 11, several queries in one command log 29. In
RELAY part 1, that the flag of a MENU is sent beside absent far fields is the model's choice, log 39. The far fields of RELAY
part 1 are laid out in LinkFramesComeAndGo; a CLAIM that waits, and what it displaces, is log 12. -/
def Obligations.ForwardHandsTheDecision : Prop :=
  (∀ (l : Line) (s : State), (s.contract l).decision = none → s.LineSettled l →
    let c := s.contract l
    let tag := s.link.verdictTag
    let raw := (s.engine l).rxChars.dropLast
    let part1 := fun (a : Answer) (flag : Option Bool) =>
      tag :: 1 :: BitVec.ofNat 8 a.rule :: (relayFar c.far flag ++ raw)
    let selects := c.state = .awaitMenu ∨ c.state = .backoff ∨ c.state = .baseline ∨ (c.state = .active ∧ c.role = .draw)
    (s.link.mode = .running →
      (∀ cls canRecall answering idn lvl, s.Arrives l ⟨1, .announce cls canRecall answering idn lvl⟩ →
        (answering = true → c.fits .announce 1 = true) → c.state = .greeting →
        let a := s.answerOf ⟨l, .announce, some cls, some idn, 0, 0, 0, 0⟩
        a.action = .forward → ∃ t, exec (.announceReceived l) s = .next t ∧
          ForwardOpened l s t .announce (.announce answering) 1 .greeting a
            [tag :: 1 :: BitVec.ofNat 8 a.rule :: BitVec.ofNat 8 cls.code :: (if canRecall then 1 else 0) ::
              (be32 idn.toNat ++ BitVec.ofNat 8 lvl :: raw)] ∧
          (t.contract l).state = .greeting ∧ (t.contract l).role = .none ∧
          (t.contract l).far = some ⟨cls, idn, lvl⟩ ∧ (t.contract l).timers.greetingDelay = none ∧
          (t.contract l).timers.greetingRetry = none ∧ (t.contract l).exchange = none ∧
          (t.contract l).greetingStopped = true) ∧
      (∀ mtag canRecall pts j p, s.Arrives l ⟨mtag, .menu canRecall pts⟩ → selects ∨ c.state = .claiming →
        c.paused = false → pts[j]? = some p → (s.pointAnswer l p j).action = .forward →
        (∀ i o, i < j → pts[i]? = some o → (s.pointAnswer l o i).action ≠ .forward) →
        let a := s.pointAnswer l p j
        let marks := pts.mapIdx fun i o => if i < j then s.markOf l i o else ⟨o, .unqueried, 0⟩
        let left := if c.state = .claiming then (s.arrived l).abandonClaim l else s
        ∃ t, exec (.menuReceived ⟨l, none⟩) s = .next t ∧
          ForwardOpened l left t .menuPoint .menu mtag c.state a [part1 a (some canRecall),
            tag :: 2 :: BitVec.ofNat 8 pts.length ::
              (marks.map fun m => [BitVec.ofNat 8 m.mark.code, BitVec.ofNat 8 (m.capacity / 256),
                BitVec.ofNat 8 m.capacity]).flatten] ∧
          (t.contract l).state = .choosing ∧ (t.contract l).role = .draw ∧
          (t.contract l).farMenu = some ⟨raw, marks⟩ ∧ (t.contract l).farRecall = some canRecall ∧
          (t.contract l).agreement = c.agreement ∧ (t.engine l).txQueue = (s.engine l).txQueue ∧ LineFrame l s t ∧
          (c.state = .claiming → (t.contract l).claim = none ∧ (t.contract l).lastOutcome = some .superseded ∧
            t.budget.drawCommit.get l = ((c.agreement.map fun a => a.voltage * a.current / 200).getD 0)) ∧
          (c.state = .claiming ∨ c.state = .backoff ∨ (c.state ≠ .active ∧ c.agreement = none) →
            (t.channel l).command = (s.channel l).command) ∧
          (∀ g, c.state = .active → c.agreement = some g →
            (t.channel l).command = ⟨.draw, 0, g.current, true, ⟨true, false, false, false, none⟩⟩)) ∧
      (∀ ctag f m, s.Arrives l ⟨ctag, .claim f⟩ → c.state = .offering ∨ (c.state = .active ∧ c.role = .supply) →
        c.offered = some m → m.held = false → f.fitsMenu m.points = true → s.link.stance.getLsbD 3 = false →
        c.paused = false → c.recallOut = none → c.target = none →
        let a := s.answerOf ⟨l, .claim, c.far.map FarFields.cls, c.far.map FarFields.identity, f.voltage, f.voltage,
          f.voltage * f.claimed / 200, 0⟩
        a.action = .forward → ∃ t, exec (.claimReceived l) s = .next t ∧
          ForwardOpened l s t .claim (.claim f) ctag c.state a [part1 a c.farRecall] ∧
          (t.contract l).state = (if c.state = .offering then .deciding else .active) ∧
          (t.contract l).role = .supply ∧ (t.contract l).agreement = c.agreement ∧
          (t.channel l).command = (s.channel l).command)) ∧
    (s.link.mode = .autonomous → ∀ mtag canRecall pts j p, s.Arrives l ⟨mtag, .menu canRecall pts⟩ →
      selects → c.paused = false → pts[j]? = some p →
      (s.pointAnswer l p j).action = .forward →
      (∀ i o, i < j → pts[i]? = some o → (s.pointAnswer l o i).action ≠ .forward) →
      let a := s.pointAnswer l p j
      let marks := pts.map fun o => markedBy a.fallback a.clamp c.lineClamp o
      (∀ k f, s.firstClaim l marks = some (k, f) → ∃ t, exec (.menuReceived ⟨l, none⟩) s = .next t ∧ ClaimSent l s t k f ∧
        (t.contract l).farMenu = some ⟨raw, marks⟩ ∧ t.link.verdicts = s.link.verdicts ∧ LineFrame l s t) ∧
      (s.firstClaim l marks = none → ∃ t, exec (.menuReceived ⟨l, none⟩) s = .next t ∧ (t.contract l).state = .baseline ∧
        (t.contract l).lastOutcome = some .noSuitablePoint ∧ (t.contract l).farMenu = some ⟨raw, marks⟩ ∧
        HandedOrDropped l s t ⟨c.tagCounter, .ending .noSuitablePoint⟩ ∧ LineFrame l s t))) ∧
  (∀ (l : Line) (s : State) (d : Decision) (mtag : Tag) (canRecall : Bool) (pts : List Point),
    s.Arrives l ⟨mtag, .menu canRecall pts⟩ → (s.contract l).decision = some d → d.Pends (s.contract l) →
    s.LineSettled l →
    let raw := (s.engine l).rxChars.dropLast
    let left := s.supersede l
    let marks := pts.mapIdx (s.markOf l)
    let gone := fun (t : State) => (t.contract l).decision = none ∧ t.verdictOf l = none ∧ LineFrame l s t
    (Superseded l s left d ∧
      (∀ mid, exec (.menuReceived ⟨l, mid⟩) s = exec (.menuReceived ⟨l, mid⟩) left) ∧
      ((s.contract l).state ≠ .choosing ∨ d.began = .claiming ∨ d.began = .backoff → left.LineSettled l)) ∧
    ((s.contract l).state = .choosing → (s.contract l).paused = false →
      d.began = .awaitMenu ∨ d.began = .backoff ∨ d.began = .baseline ∨
        (d.began = .active ∧ (s.contract l).options.holdAfterActive = false) →
      s.NoForward l pts → ∃ t, exec (.menuReceived ⟨l, none⟩) s = .next t ∧ gone t ∧
        (t.contract l).farMenu = some ⟨raw, marks⟩ ∧
        (∀ k f, s.firstClaim l marks = some (k, f) → ClaimSent l s t k f ∧
          (t.contract l).lastOutcome = some .superseded) ∧
        (s.firstClaim l marks = none → (t.contract l).state = .baseline ∧ (t.contract l).role = .draw ∧
          (t.contract l).lastOutcome = some .noSuitablePoint ∧ (t.contract l).agreement = none ∧
          t.budget.drawCommit.get l = 0 ∧
          HandedOrDropped l s t ⟨(s.contract l).tagCounter, .ending .noSuitablePoint⟩)) ∧
    ((s.contract l).state = .choosing → (s.contract l).paused = false → d.began = .active →
      (s.contract l).options.holdAfterActive = true →
      ∃ t, exec (.menuReceived ⟨l, none⟩) s = .next t ∧ gone t ∧ (t.contract l).state = .active ∧
        (t.contract l).lastOutcome = some .superseded ∧
        (t.contract l).role = .draw ∧ (t.contract l).paused = true ∧ (t.contract l).deferred = true ∧
        (t.contract l).cursor = ⟨0, 0⟩ ∧ (t.contract l).agreement = (s.contract l).agreement ∧
        (t.contract l).farMenu = some ⟨raw, pts.map fun p => ⟨p, .unqueried, 0⟩⟩ ∧
        (t.contract l).timers.renewal =
          ((s.contract l).agreement.map fun a => s.now + BitVec.ofNat 32 (500 * a.lease)) ∧
        (t.engine l).txQueue = (s.engine l).txQueue))

/-- R35, R37, R41, R92, R94, R97: how a CLAIM in OFFERING, or in ACTIVE as supplier, is turned down: no menu stands, the claim
does not fit it, or the part is busy; how one in POWERING and one on a drawing line is denied, and where one is stray; what
fits the offered menu; and that a CLAIM supersedes a pending decision and is then taken in the state that began in: of a CLAIM
in OFFERING or ACTIVE, of an ANNOUNCE in GREETING, where it is stray, of a MENU in a drawing state, where it is denied (log 14
for CLAIMING and BACKOFF, log 36 for the return to ACTIVE). -/
def Obligations.UnfitClaimsAreTurnedDown : Prop :=
  (∀ (l : Line) (s : State) (tag : Tag) (f : ClaimFields), s.Arrives l ⟨tag, .claim f⟩ → (s.contract l).decision = none →
    s.LineSettled l →
    let c := s.contract l
    let denied := fun (r : DenyReason) => Host.Outcome.next (σ := State) (φ := Fault) (ρ := Refusal)
      ((s.arrived l).hand l ⟨tag, .deny r⟩)
    (c.state = .offering ∨ (c.state = .active ∧ c.role = .supply) →
      (c.offered = none → exec (.claimReceived l) s = denied .noMenu) ∧
      (∀ m, c.offered = some m →
        (m.held = true → exec (.claimReceived l) s = denied .noMenu) ∧
        (m.held = false → f.fitsMenu m.points = false → exec (.claimReceived l) s =
          .next (((s.arrived l).hand l ⟨tag, .deny .badPoint⟩).onContract l fun c => { c with lastFrameFault := true })) ∧
        (m.held = false → f.fitsMenu m.points = true →
          s.link.stance.getLsbD 3 = true ∨ c.paused = true ∨ c.recallOut.isSome = true ∨ c.target.isSome = true →
          exec (.claimReceived l) s = .next ((s.arrived l).hand l ⟨tag, .wait 50⟩)))) ∧
    (c.state = .powering → exec (.claimReceived l) s = denied .notOffered) ∧
    (c.role = .draw → c.state ≠ .faulted → exec (.claimReceived l) s = denied .role) ∧
    (c.state = .greeting ∨ c.state = .blocked ∨ c.state = .faulted → exec (.claimReceived l) s =
      .next ((s.arrived l).onEngine l fun e => { e with health := { e.health with strayAnswer := true } }))) ∧
  (∀ (l : Line) (s : State) (tag : Tag) (f : ClaimFields) (d : Decision), s.Arrives l ⟨tag, .claim f⟩ →
    (s.contract l).decision = some d → d.Pends (s.contract l) → s.LineSettled l →
    let left := s.supersede l
    Superseded l s left d ∧ exec (.claimReceived l) s = exec (.claimReceived l) left ∧
    ((s.contract l).state ≠ .choosing → left.LineSettled l) ∧
    ((s.contract l).state = .choosing → (s.engine l).accepts = true → ∃ t, exec (.claimReceived l) s = .next t ∧
      t.contract l = left.contract l ∧ t.verdictOf l = none ∧ Handed l s t ⟨tag, .deny .role⟩ ∧ t.budget = s.budget ∧
      t.LineSettled l ∧ LineFrame l s t)) ∧
  (∀ (f : ClaimFields) (pts : List Point), f.fitsMenu pts = true ↔
    ∃ p, pts[f.point]? = some p ∧ 1 ≤ f.claimed ∧ f.least ≤ f.claimed ∧
      ((p.kind = .fixed ∧ f.voltage = p.v1 ∧ f.claimed ≤ p.limit) ∨
        (p.kind = .window ∧ p.v1 ≤ f.voltage ∧ f.voltage ≤ p.v2 ∧ f.claimed ≤ p.limit * 200 / f.voltage)))

/-- R93, R94, R96, R116, R146: a CLAIM in OFFERING, or in ACTIVE as supplier, that passed its checks, by the action that the
rule table answers: granted what the headroom admits, under CLAMP no more than its clamp power, or told to wait; denied; told
to wait. A grant on a capped line whose running allowance is 0 reports the cap event (it stands latched, log 9). A FORWARD in
RUNNING mode is ForwardHandsTheDecision. -/
def Obligations.ClaimIsAdmittedByHeadroom : Prop :=
  ∀ (l : Line) (s : State) (tag : Tag) (f : ClaimFields) (m : OfferedMenu), s.Arrives l ⟨tag, .claim f⟩ →
    (s.contract l).state = .offering ∨ ((s.contract l).state = .active ∧ (s.contract l).role = .supply) →
    (s.contract l).decision = none → (s.contract l).offered = some m → m.held = false → f.fitsMenu m.points = true →
    s.link.stance.getLsbD 3 = false → (s.contract l).paused = false →
    (s.contract l).recallOut = none → (s.contract l).target = none → s.LineSettled l →
    let q : Query := ⟨l, .claim, (s.contract l).far.map FarFields.cls, (s.contract l).far.map FarFields.identity,
      f.voltage, f.voltage, f.voltage * f.claimed / 200, 0⟩
    let act := s.actionOf q
    let room := capBy (s.budget.supplyHeadroom + s.budget.supplyCommit.get l) (s.contract l).lineClamp
    (∀ limit, (act = .auto ∧ limit = room) ∨ (act = .clamp ∧ limit = min room (s.answerOf q).clamp) →
      let granted := min f.claimed (limit * 200 / f.voltage)
      (1 ≤ granted → f.least ≤ granted → (s.engine l).accepts = true →
        ∃ t, exec (.claimReceived l) s = .next t ∧ (t.contract l).state = .powering ∧ (t.contract l).role = .supply ∧
          (t.contract l).grant = some ⟨f.voltage, granted, (s.contract l).options.lease, f.point, tag⟩ ∧
          Handed l s t ⟨tag, .grant granted (s.contract l).options.lease⟩ ∧
          t.budget.supplyCommit.get l =
            max (((s.contract l).agreement.map fun a => a.voltage * a.current / 200).getD 0) (f.voltage * granted / 200) ∧
          (t.contract l).agreement = (s.contract l).agreement ∧
          (t.channel l).command = ⟨.supply, f.voltage, granted, false, ⟨false, true, true, true, none⟩⟩ ∧
          (t.channel l).settleStart = some s.now ∧
          ((t.channel l).capReport = true ↔ (s.channel l).capReport = true ∨
            ((s.contract l).options.capMode ≠ .uncapped ∧ (s.channel l).allowance = 0)) ∧
          t.rules = (s.afterQuery q).rules ∧ LineFrame l s t) ∧
      (granted < 1 ∨ granted < f.least →
        exec (.claimReceived l) s = .next (((s.arrived l).afterQuery q).hand l ⟨tag, .wait 50⟩))) ∧
    (act = .refuse → exec (.claimReceived l) s = .next (((s.arrived l).afterQuery q).hand l ⟨tag, .deny .policy⟩)) ∧
    (act = .wait → exec (.claimReceived l) s = .next (((s.arrived l).afterQuery q).hand l ⟨tag, .wait 50⟩))

/-- R74, R150, R151: a GRANT that fits the outstanding CLAIM is agreed to, or closes the contract when its current does not fit;
of a GRANT refused the fault is taken after that closing, in GREETING, its notice behind the ENDED notice (log 33). -/
def Obligations.GrantIsTakenOrRefused : Prop :=
  ∀ (l : Line) (s : State) (tag : Tag) (granted lease : Nat) (k : OutClaim) (x : Exchange),
    s.Arrives l ⟨tag, .grant granted lease⟩ → (s.contract l).state = .claiming → (s.contract l).claim = some k →
    (s.contract l).exchange = some x → x.kind = .claim → x.tag = tag → s.LineSettled l →
    (k.fields.least ≤ granted → granted ≤ k.fields.claimed → ∃ t, exec (.grantReceived l) s = .next t ∧
      (t.contract l).state = .switching ∧ (t.contract l).role = .draw ∧
      (t.contract l).agreement = some ⟨k.fields.voltage, granted, lease, k.fields.point⟩ ∧
      (t.contract l).claim = none ∧ (t.contract l).waitStreak = 0 ∧
      (t.contract l).exchange = some { x with kind := .claimGranted, timer := none } ∧
      (t.contract l).timers.readyWait = some (s.now + 300) ∧
      t.budget.drawCommit.get l = k.fields.voltage * granted / 200 ∧
      t.budget.drawCopy.get l = some ⟨k.fields.voltage, granted⟩ ∧
      (t.channel l).command = ⟨.draw, 0, min (s.contract l).options.baseline granted, false,
        ⟨true, false, false, false, none⟩⟩ ∧
      (t.engine l).txQueue = (s.engine l).txQueue ∧ LineFrame l s t) ∧
    (granted < k.fields.least ∨ k.fields.claimed < granted → (s.engine l).accepts = true →
      ∃ t, exec (.grantReceived l) s = .next t ∧ ClosedTo l s t .greeting .none (some .malformedAnswer) ∧
        Handed l s t ⟨(s.contract l).tagCounter, .ending .policy⟩ ∧
        FaultTakenIn l s t .greeting .malformedAnswer (some .grant) s.now ∧
        ((s.captures.get l).held = false → (s.link.notices.filter fun n => n.source == .line l) = [] →
          (t.link.notices.filter fun n => n.source == .line l) =
            [⟨.line l, s.now, .ended .draw .greeting (some .malformedAnswer)⟩,
              ⟨.line l, s.now, .fault (t.captures.get l)⟩]) ∧ LineFrame l s t)

/-- R72, R73, R75, R76: a DENY, or the third WAIT in a row, closes the CLAIM, and selection goes on with the first candidate after
the old cursor that can be claimed: a request that waits is handed first, and the new CLAIM then waits behind it; an earlier WAIT
backs off. What a candidate is, MenuLeadsToTheFirstClaim says. -/
def Obligations.DenyAndWaitMoveTheCursor : Prop :=
  ∀ (l : Line) (s : State) (tag : Tag) (k : OutClaim), (s.contract l).state = .claiming → (s.contract l).claim = some k →
    (s.contract l).fits .claim tag = true → s.LineSettled l →
    let old := (s.contract l).cursor
    let left := ((s.arrived l).closeExchange l).dropClaim l
    let moved := fun (t : State) (o : Outcome) => (t.contract l).waitStreak = 0 ∧
      (∀ n f, left.candidate l n = some f → old.before n →
        (∀ j, old.before j → Cursor.before j n → left.candidate l j = none) →
        ClaimSent l left t n f ∧ (t.contract l).lastOutcome = some o) ∧
      ((∀ n, old.before n → left.candidate l n = none) →
        (t.contract l).state = .baseline ∧ (t.contract l).lastOutcome = some .noSuitablePoint ∧
        (t.contract l).agreement = none ∧ (t.contract l).claim = none ∧ t.budget.drawCommit.get l = 0 ∧
        HandedOrDropped l s t ⟨(s.contract l).tagCounter, .ending .noSuitablePoint⟩) ∧ LineFrame l s t
    ((left.contract l).exchange = none ∧ (left.contract l).waiting = (s.contract l).waiting ∧
      (left.contract l).displaced = (s.contract l).displaced ∧ (left.contract l).claim = none ∧
      (left.engine l).txQueue = (s.engine l).txQueue ∧ left.budget.drawCommit.get l =
        (((s.contract l).agreement.map fun a => a.voltage * a.current / 200).getD 0)) ∧
    (∀ reason, s.Arrives l ⟨tag, .deny reason⟩ → ∃ t, exec (.denyReceived l) s = .next t ∧ moved t .denied) ∧
    (∀ retry, s.Arrives l ⟨tag, .wait retry⟩ → (s.contract l).waitStreak < 2 →
      ∃ t, exec (.waitReceived l) s = .next t ∧ (t.contract l).state = .backoff ∧ (t.contract l).claim = none ∧
        (t.contract l).exchange = none ∧ (t.contract l).waitStreak = (s.contract l).waitStreak + 1 ∧
        (t.contract l).cursor = old ∧ (t.contract l).lastOutcome = (s.contract l).lastOutcome ∧
        (t.contract l).agreement = (s.contract l).agreement ∧
        (t.contract l).timers.backoff = some (s.now + BitVec.ofNat 32 (10 * retry)) ∧
        t.budget.drawCommit.get l = (((s.contract l).agreement.map fun a => a.voltage * a.current / 200).getD 0) ∧
        (t.engine l).txQueue = (s.engine l).txQueue ∧ LineFrame l s t) ∧
    (∀ retry, s.Arrives l ⟨tag, .wait retry⟩ → 2 ≤ (s.contract l).waitStreak →
      ∃ t, exec (.waitReceived l) s = .next t ∧ moved t .waitLimit)

/-- R33, R35, R78, R79, R81, R97, R99: a READY, a KEEP and a RENEW that are taken, by their states; and what is stray: an answer
that does not fit, a STATUS, which never does, and a RENEW, a MENU or a RECALL in a state that does not take it; the complete
frame by log 11. A KEEP restarts the renewal timer with the lease times 0.5 s, as R81 gives it. -/
def Obligations.AnswersAreTakenInPlace : Prop :=
  ∀ (l : Line) (s : State) (tag : Tag), s.LineSettled l →
    let c := s.contract l
    let strayed := Host.Outcome.next (σ := State) (φ := Fault) (ρ := Refusal) ((s.arrived l).onEngine l fun e =>
      { e with health := { e.health with strayAnswer := true } })
    let kept := (s.arrived l).hand l ⟨tag, .keep (s.stanceOf l false)⟩
    let renews := (c.state = .active ∧ c.role = .supply) ∨ c.state = .powering
    let draws := c.role = .draw ∧ c.state ≠ .faulted
    (∀ v i, s.Arrives l ⟨tag, .ready v i⟩ →
      (c.fits .claimGranted tag = true → exec (.readyReceived l) s = .next ((s.arrived l).onContract l fun c =>
        { c with
          exchange := none
          timers := { c.timers with readyWait := none, voltageCheck := some s.now } })) ∧
      (c.fits .claimGranted tag = false → exec (.readyReceived l) s = strayed)) ∧
    (∀ w, s.Arrives l ⟨tag, .keep w⟩ →
      (∀ a, c.fits .renew tag = true → c.state = .active → c.agreement = some a →
        exec (.keepReceived l) s = .next ((s.arrived l).onContract l fun c =>
          { c with
            exchange := none
            timers := { c.timers with renewal := some (s.now + BitVec.ofNat 32 (500 * a.lease)) } })) ∧
      (c.fits .renew tag = true → c.state ≠ .active →
        exec (.keepReceived l) s = .next ((s.arrived l).onContract l fun c => { c with exchange := none })) ∧
      (c.fits .renew tag = false → exec (.keepReceived l) s = strayed)) ∧
    (∀ i, s.Arrives l ⟨tag, .renew i⟩ →
      (∀ a, c.state = .active → c.role = .supply → c.agreement = some a →
        exec (.renewReceived l) s = .next (kept.onContract l fun c =>
          { c with leaseDeadline := some (s.now + BitVec.ofNat 32 (1000 * a.lease)) })) ∧
      (c.state = .powering → exec (.renewReceived l) s = .next kept) ∧
      (¬renews → exec (.renewReceived l) s = strayed)) ∧
    (∀ w r st v i, s.Arrives l ⟨tag, .status w r st v i⟩ → exec (.statusReceived l) s = strayed) ∧
    (c.fits .claim tag = false →
      (∀ current lease, s.Arrives l ⟨tag, .grant current lease⟩ → exec (.grantReceived l) s = strayed) ∧
      (∀ reason, s.Arrives l ⟨tag, .deny reason⟩ → exec (.denyReceived l) s = strayed) ∧
      (∀ retry, s.Arrives l ⟨tag, .wait retry⟩ → exec (.waitReceived l) s = strayed)) ∧
    (c.fits .recall tag = false → ∀ limit, s.Arrives l ⟨tag, .yield limit⟩ → exec (.yieldReceived l) s = strayed) ∧
    (¬draws →
      (∀ canRecall pts, c.decision = none → s.Arrives l ⟨tag, .menu canRecall pts⟩ →
        exec (.menuReceived ⟨l, none⟩) s = strayed) ∧
      (∀ ceiling deadline, s.Arrives l ⟨tag, .recall ceiling deadline⟩ → exec (.recallReceived l) s = strayed))

/-- R29, R35, R38, R39: a STATUS_Q is answered in every state of an attached line, and clears the last-frame-fault flag; the
stance word, bit by bit in automatic mode, the programmed value in manual mode. -/
def Obligations.StatusCarriesTheStance : Prop :=
  (∀ (l : Line) (s : State) (tag : Tag), s.Arrives l ⟨tag, .statusQ⟩ → s.LineSettled l →
    let c := s.contract l
    exec (.statusQReceived l) s = .next (((s.arrived l).hand l ⟨tag, .status (s.stanceOf l c.lastFrameFault) c.role
        c.state ((c.agreement.map Agreement.voltage).getD 0) ((c.agreement.map Agreement.current).getD 0)⟩).onContract l
      fun c => { c with lastFrameFault := c.lastFrameFault && s.link.manualStance })) ∧
  (∀ (l : Line) (s : State) (fault : Bool),
    (s.link.manualStance = true → s.stanceOf l fault = s.link.stance) ∧
    (s.link.manualStance = false →
      (s.stanceOf l fault).getLsbD 0 = fault ∧
      (s.stanceOf l fault).getLsbD 1 = (s.contract l).recallOut.isSome ∧
      (s.stanceOf l fault).getLsbD 2 =
        ((s.contract l).options.roles.supply && decide (0 < s.budget.supplyHeadroom)) ∧
      (∀ i, 3 ≤ i → i ≤ 6 → (s.stanceOf l fault).getLsbD i = s.link.stance.getLsbD i) ∧
      (∀ i, 7 ≤ i → (s.stanceOf l fault).getLsbD i = false)))

/-- R82, R83: a RECALL is honoured in ACTIVE and SWITCHING, and only answered before an agreement is being switched to. -/
def Obligations.RecallIsHonoured : Prop :=
  ∀ (l : Line) (s : State) (tag : Tag) (ceiling d : Nat), s.Arrives l ⟨tag, .recall ceiling d⟩ → s.LineSettled l →
    ((s.contract l).state = .awaitMenu ∨ (s.contract l).state = .choosing ∨ (s.contract l).state = .claiming ∨
        (s.contract l).state = .backoff ∨ (s.contract l).state = .baseline →
      exec (.recallReceived l) s = .next ((s.arrived l).hand l ⟨tag, .yield (s.channel l).output.current⟩)) ∧
    (∀ a, (s.contract l).agreement = some a → (s.contract l).claim = none →
      let lower := min a.current ceiling
      let lowered := fun (t : State) (st : CState) (path : PathCommand) (now : Nat) =>
        (t.contract l).agreement = some { a with current := lower } ∧ (t.contract l).state = st ∧
        (t.contract l).timers = ((s.arrived l).contract l).timers ∧ (t.channel l).command = path ∧
        t.budget.drawCommit.get l = a.voltage * lower / 200 ∧
        t.budget.drawCopy.get l = some ⟨a.voltage, lower⟩ ∧
        ((s.engine l).accepts = true → Handed l s t ⟨tag, .yield now⟩) ∧
        t.Told l s.now (.agreed .draw st (s.contract l).lastOutcome a.voltage lower a.lease a.point) ∧ LineFrame l s t
      ((s.contract l).state = .active → (s.contract l).role = .draw → ∃ t, exec (.recallReceived l) s = .next t ∧
        lowered t .active ⟨.draw, 0, lower, true, ⟨true, false, false, false, some a.voltage⟩⟩
          (min lower (((s.channel l).allocation).getD lower))) ∧
      ((s.contract l).state = .switching → ∃ t, exec (.recallReceived l) s = .next t ∧
        lowered t .switching
          ⟨.draw, 0, min (s.contract l).options.baseline lower, false, ⟨true, false, false, false, none⟩⟩
          (min (s.contract l).options.baseline lower)))

/-- R54: a far ENDING ends the contract; FINAL blocks it, any other reason re-greets. In GREETING it restarts the greeting. -/
def Obligations.FarEndingEndsTheContract : Prop :=
  ∀ (l : Line) (s : State) (tag : Tag) (reason : EndReason), s.Arrives l ⟨tag, .ending reason⟩ → s.LineSettled l →
    let closed := fun (t : State) => (t.contract l).lastOutcome = some .endedByFar ∧ (t.contract l).exchange = none ∧
      (t.contract l).waiting = none ∧ (t.contract l).displaced = [] ∧ (t.contract l).decision = none ∧
      t.verdictOf l = none ∧ t.budget = s.budget ∧ (t.engine l).txQueue = (s.engine l).txQueue ∧ LineFrame l s t
    ((s.contract l).state.contracted = true → reason = .final → ∃ t, exec (.endingReceived l) s = .next t ∧
      ClosedTo l s t .blocked .none (some .endedByFar) ∧ LineFrame l s t) ∧
    ((s.contract l).state.contracted = true → reason ≠ .final → ∃ t, exec (.endingReceived l) s = .next t ∧
      ClosedTo l s t .greeting .none (some .endedByFar) ∧ (t.contract l).timers.greetingDelay = some (s.now + 50) ∧
      (t.contract l).greetingStopped = false ∧ LineFrame l s t) ∧
    ((s.contract l).state = .greeting →
      (reason ≠ .final → ∃ t, exec (.endingReceived l) s = .next t ∧ closed t ∧ (t.contract l).state = .greeting ∧
        (t.contract l).greetingCount = 0 ∧ (t.contract l).greetingStopped = false ∧
        (t.contract l).timers.greetingDelay = some (s.now + 50) ∧ (t.contract l).timers.greetingRetry = none) ∧
      (reason = .final → ∃ t, exec (.endingReceived l) s = .next t ∧ closed t ∧ (t.contract l).state = .blocked ∧
        (t.contract l).greetingStopped = false ∧ (t.contract l).timers.greetingDelay = none ∧
        (t.contract l).timers.greetingRetry = none)) ∧
    ((s.contract l).state = .blocked ∨ (s.contract l).state = .faulted → ∃ t, exec (.endingReceived l) s = .next t ∧
      closed t ∧ (t.contract l).state = (s.contract l).state ∧ (t.contract l).role = (s.contract l).role)

/-- R21 to R30, R177, R178, section 12.2: the characters of every kind of contract frame, field by field: header, length, body and
check; every legal frame is read back from them, with its tag and every field, and what is read is legal; legal field values by
log 19. -/
def Obligations.LegalFramesAreReadBack : Prop :=
  let pair := fun (n : Nat) => [BitVec.ofNat 8 (n / 256), BitVec.ofNat 8 n]
  let quad := fun (n : Nat) => pair (n / 65536) ++ pair n
  let bit := fun (b : Bool) (i : Nat) => if b then 2 ^ i else 0
  let framed := fun (tag : Tag) (kind : Nat) (body : List Byte) =>
    let raw := BitVec.ofNat 8 (32 * tag.toNat + kind) :: BitVec.ofNat 8 body.length :: body
    raw ++ [crc raw]
  (∀ f : Frame, f.Legal → validate f.chars = .wellFormed f) ∧
  (∀ (cs : List Byte) (f : Frame), validate cs = .wellFormed f → f.Legal) ∧
  [FarClass.none, .supplier, .consumer, .both].map FarClass.code = [0, 1, 2, 3] ∧
  [DenyReason.notOffered, .badPoint, .policy, .role, .noMenu].map DenyReason.code = [1, 2, 3, 4, 5] ∧
  [EndReason.normal, .final, .noSuitablePoint, .leaseLost, .capReached, .policy, .fault, .reset, .refused, .role].map
    EndReason.code = [1, 2, 3, 4, 5, 6, 7, 8, 9, 10] ∧
  [FrameKind.announce, .menu, .claim, .grant, .deny, .wait, .ready, .renew, .keep, .recall, .yield, .statusQ, .status,
    .ending].map FrameKind.code = [0x1A, 0x01, 0x02, 0x04, 0x05, 0x06, 0x08, 0x09, 0x0A, 0x0C, 0x0D, 0x10, 0x11, 0x14] ∧
  ∀ tag : Tag,
    let sent := fun (body : FrameBody) => (Frame.mk tag body).chars
    (∀ (cls : FarClass) (canRecall answer : Bool) (idn : BitVec 32) (level : Nat),
      sent (.announce cls canRecall answer idn level) = framed tag 0x1A
        ([BitVec.ofNat 8 cls.code, BitVec.ofNat 8 (bit canRecall 0 + bit answer 7)] ++ quad idn.toNat ++
          [BitVec.ofNat 8 level])) ∧
    (∀ (canRecall : Bool) (points : List Point), sent (.menu canRecall points) = framed tag 0x01
      (BitVec.ofNat 8 (bit canRecall 0) :: BitVec.ofNat 8 points.length :: (points.map fun p =>
        BitVec.ofNat 8 (if p.kind = .window then 1 else 0) :: (pair p.v1 ++ pair p.v2 ++ pair p.limit)).flatten)) ∧
    (∀ k : ClaimFields, sent (.claim k) = framed tag 0x02
      (BitVec.ofNat 8 k.point :: (pair k.voltage ++ pair k.claimed ++ pair k.least))) ∧
    (∀ current lease : Nat, sent (.grant current lease) = framed tag 0x04 (pair current ++ [BitVec.ofNat 8 lease])) ∧
    (∀ reason : DenyReason, sent (.deny reason) = framed tag 0x05 [BitVec.ofNat 8 reason.code]) ∧
    (∀ retryAfter : Nat, sent (.wait retryAfter) = framed tag 0x06 [BitVec.ofNat 8 retryAfter]) ∧
    (∀ voltage limit : Nat, sent (.ready voltage limit) = framed tag 0x08 (pair voltage ++ pair limit)) ∧
    (∀ current : Nat, sent (.renew current) = framed tag 0x09 (pair current)) ∧
    (∀ stance : BitVec 16, sent (.keep stance) = framed tag 0x0A (pair stance.toNat)) ∧
    (∀ ceiling deadline : Nat, sent (.recall ceiling deadline) = framed tag 0x0C
      (pair ceiling ++ [BitVec.ofNat 8 deadline])) ∧
    (∀ limit : Nat, sent (.yield limit) = framed tag 0x0D (pair limit)) ∧
    sent .statusQ = framed tag 0x10 [] ∧
    (∀ (stance : BitVec 16) (r : Role) (st : CState) (voltage current : Nat),
      sent (.status stance r st voltage current) = framed tag 0x11
        (pair stance.toNat ++ [BitVec.ofNat 8 (16 * r.code + st.code)] ++ pair voltage ++ pair current)) ∧
    (∀ reason : EndReason, sent (.ending reason) = framed tag 0x14 [BitVec.ofNat 8 reason.code])

/-! ### The system link -/

/-- R157, R158: the receiver takes a start bit, and discards a malformed or truncated frame: what makes the characters of a
frame malformed, and whether that is found at its end. R161, R168: the free transmitter sends the oldest RESPONSE, else the
oldest unsent RELAY, else in RUNNING mode the oldest notice; character times by log 2. R163, R177, R178, sections 12.3 and 12.4:
the characters of a RESPONSE with its result, of the frame of a RELAY part and of the far fields of part 1, and of a NOTICE with
its kind, its time stamp and its content; that part 1 sends the flag of a MENU beside the mark that the far fields are absent is
the model's choice, log 39. The bodies of the RELAY parts stand in ForwardHandsTheDecision, the codes of states, roles, outcomes
and causes in RecordsHaveTheirLayouts, those of actions in EntriesHaveTheirLayouts. -/
def Obligations.LinkFramesComeAndGo : Prop :=
  (let pair := fun (n : Nat) => [BitVec.ofNat 8 (n / 256), BitVec.ofNat 8 n]
    let quad := fun (n : Nat) => pair (n / 65536) ++ pair n
    let bit := fun (b : Bool) (i : Nat) => if b then 2 ^ i else 0
    let outcome := fun (o : Option Outcome) => BitVec.ofNat 8 (orZero o Outcome.code)
    let framed := fun (addr kind : Nat) (body : List Byte) =>
      let raw := BitVec.ofNat 8 (32 * addr + kind) :: BitVec.ofNat 8 body.length :: body
      raw ++ [crc raw]
    [Addr.line .l0, .line .l1, .line .l2, .line .l3, .device].map Addr.code = [0, 1, 2, 3, 7] ∧
    [Source.line .l0, .line .l1, .line .l2, .line .l3, .part].map Source.code = [0, 1, 2, 3, 7] ∧
    [Result.ok, .badRequest, .badIndex, .badEntry, .wrongState, .held, .notHeld, .refusedStrap, .accepted, .adjusted,
      .unknownTag].map Result.code = [0, 1, 2, 3, 4, 5, 6, 7, 8, 9, 10] ∧
    [QueryKind.announce, .menuPoint, .claim].map QueryKind.code = [0, 1, 2] ∧
    (∀ r : Response, r.frame = framed r.addr.code 0x11 (r.num :: r.code :: BitVec.ofNat 8 r.result.code :: r.data)) ∧
    (∀ (l : Line) (body : List Byte),
      linkFrame l.index .relay body = framed (Addr.line l).code 0x12 body) ∧
    (∀ flag : Option Bool,
      let carried := bit (flag == some true) 0
      (∀ far : FarFields, relayFar (some far) flag =
        [BitVec.ofNat 8 far.cls.code, BitVec.ofNat 8 carried] ++ quad far.identity.toNat ++ [BitVec.ofNat 8 far.level]) ∧
      relayFar none flag = [0, BitVec.ofNat 8 (128 + carried), 0, 0, 0, 0, 0]) ∧
    (∀ n : Notice,
      let noticed := fun (kind : Nat) (content : List Byte) => framed n.source.code 0x13
        (BitVec.ofNat 8 kind :: BitVec.ofNat 8 content.length :: (quad n.time.toNat ++ content))
      n.frame = (match n.body with
        | .attach st => noticed 1 [BitVec.ofNat 8 st.code]
        | .detach st o => noticed 2 [BitVec.ofNat 8 st.code, outcome o]
        | .agreed r st o v i lease point => noticed 3 ([BitVec.ofNat 8 r.code, BitVec.ofNat 8 st.code, outcome o] ++
            pair v ++ pair i ++ pair (v * i / 200) ++ [BitVec.ofNat 8 lease, BitVec.ofNat 8 point])
        | .ended r st o => noticed 4 [BitVec.ofNat 8 r.code, BitVec.ofNat 8 st.code, outcome o]
        | .fault c => noticed 5 ([BitVec.ofNat 8 (bit c.held 0 + bit c.overlap 1 + bit c.kind.isSome 2),
              BitVec.ofNat 8 (orZero c.cause Cause.code), BitVec.ofNat 8 (orZero c.cause fun x => x.cls.code),
              BitVec.ofNat 8 c.state.code, BitVec.ofNat 8 (orZero c.kind fun k => k.code.toNat)] ++
            quad c.time.toNat ++ [BitVec.ofNat 8 c.count])
        | .report rule act kind low high power point => noticed 6 ([BitVec.ofNat 8 rule, BitVec.ofNat 8 act.code,
            BitVec.ofNat 8 kind.code] ++ pair low ++ pair high ++ pair power ++ [BitVec.ofNat 8 point])
        | .budget drawOver supplyOver input supply draw supplied drawLeft supplyLeft => noticed 7
            (BitVec.ofNat 8 (bit drawOver 0 + bit supplyOver 1) :: (pair input ++ pair supply ++ pair draw ++
              pair supplied ++ pair drawLeft ++ pair supplyLeft))))) ∧
  (∀ c : LinkChar, c.bad = true ↔
    c.stop = false ∨ (((List.range 8).map fun i => (c.data.getLsbD i).toNat).sum + c.parity.toNat) % 2 = 1) ∧
  (∀ (h n check : Byte) (body : List Byte), n.toNat = body.length → body.length ≤ 60 →
    let sound := check = crc (h :: n :: body) ∧ ¬(4 ≤ h.toNat / 32 ∧ h.toNat / 32 ≤ 6) ∧
      ((h.toNat % 32 = 1 ∧ 2 ≤ body.length) ∨ (h.toNat % 32 = 2 ∧ body.length = 5))
    (sound → judgeLink ((h :: n :: (body ++ [check])).map linkChar) = none) ∧
    (¬sound → judgeLink ((h :: n :: (body ++ [check])).map linkChar) = some true)) ∧
  (∀ (h n : LinkChar) (rest : List LinkChar), 60 < n.data.toNat → judgeLink (h :: n :: rest) = some false) ∧
  (∀ (front : List LinkChar) (c : LinkChar), (∀ d ∈ front, d.bad = false) → c.bad = true →
    (front.length < 2 → judgeLink (front ++ [c]) = some false) ∧
    (∀ n, front[1]? = some n → n.data.toNat ≤ 60 →
      (front.length < n.data.toNat + 2 → judgeLink (front ++ [c]) = some false) ∧
      (front.length = n.data.toNat + 2 → judgeLink (front ++ [c]) = some true))) ∧
  ∀ s : State,
    let left := fun (r : Receiver) (e : Bool) => Host.Outcome.next (σ := State) (φ := Fault) (ρ := Refusal)
      { s with link := { s.link with receiver := r, linkError := e } }
    let sends := fun (u : LinkUnit) (frame : List Byte) => Host.Outcome.next (σ := State) (φ := Fault) (ρ := Refusal)
      { s with link := { u with stx := some (frame.map linkChar) } }
    (s.link.receiver = .idle → exec (.linkStartBit true) s = left .receiving s.link.linkError ∧
      exec (.linkStartBit false) s = left .skipping true) ∧
    (s.link.receiver = .receiving →
      (∀ cs c, (judgeLink (cs ++ [c]) = some true → exec (.linkFrameMalformed cs c) s = left .idle true) ∧
        (judgeLink (cs ++ [c]) = some false → exec (.linkFrameMalformed cs c) s = left .skipping true)) ∧
      exec .linkFrameTruncated s = left .idle true) ∧
    (s.link.receiver = .skipping → exec .skippingEnd s = left .idle s.link.linkError) ∧
    (s.link.stx = none →
      (∀ r rs, s.link.responses = r :: rs →
        exec .transmitChoice s = sends { s.link with responses := rs } r.frame) ∧
      (∀ older v younger body rest, s.link.responses = [] → s.link.verdicts = older ++ v :: younger →
        (∀ u ∈ older, u.relays = []) → v.relays = body :: rest →
        exec .transmitChoice s = sends { s.link with verdicts := older ++ { v with relays := rest } :: younger }
          (linkFrame v.line.index .relay body)) ∧
      (s.link.responses = [] → (∀ u ∈ s.link.verdicts, u.relays = []) →
        (∀ n ns, s.link.mode = .running → s.link.notices = n :: ns →
          exec .transmitChoice s = sends { s.link with notices := ns } n.frame) ∧
        (s.link.mode = .autonomous ∨ s.link.notices = [] → exec .transmitChoice s = .next s))) ∧
    (s.link.stx.isSome = true → exec .transmitChoice s = .next s) ∧
    exec .transmitEnd s = .next { s with link := { s.link with stx := none } }

/-- R158, R159, R160, R164: a request or verdict whose check differs from the one computed is discarded with the link error
flag, unanswered; what is refused with BAD_REQUEST: an unassigned code, a wrong address, a wrong length, a VERDICT that
carries the device address; and a request or verdict that finds the response queue full is dropped with the link error flag;
LINE_CTRL rows carry the characters of log 24; the receiver by log 22. That the RESPONSE to a VERDICT of address 7 carries that
address is the model's choice, log 41. -/
def Obligations.BadRequestsAreRefused : Prop :=
  ∀ s : State,
    let dropped := Host.Outcome.next (σ := State) (φ := Fault) (ρ := Refusal)
      { s with link := { s.link with receiver := .idle, linkError := true } }
    (s.Takes → ∀ (addr : Addr) (num : Byte) (args : List Byte),
      let bad := fun (code : Byte) => Host.Outcome.next (σ := State) (φ := Fault) (ρ := Refusal)
        (s.acting.respond ⟨addr, num, code, .badRequest, []⟩)
      let q := fun (code : Byte) => Req.framed code addr num args
      let r := fun (action : Byte) => Req.control action addr num args
      (∀ code, code ∉ requestCodes → exec (.requestUnassigned code (q code)) s = bad code) ∧
      (actionAssigned args = false → exec (.lineCtrlUnassigned (q 0x31)) s = bad 0x31) ∧
      (∀ n, addr ≠ .device ∨ args.length ≠ n →
        (n = 0 → exec (.identify (q 0x01)) s = bad 0x01 ∧ exec (.resetPart (q 0x02)) s = bad 0x02 ∧
          exec (.budgetGet (q 0x21)) s = bad 0x21 ∧ exec (.budgetClear (q 0x22)) s = bad 0x22) ∧
        (n = 1 → exec (.quiet (q 0x03)) s = bad 0x03 ∧ exec (.prefGet (q 0x13)) s = bad 0x13 ∧
          exec (.menuGet (q 0x15)) s = bad 0x15) ∧
        (n = 2 → exec (.tableGet (q 0x11)) s = bad 0x11) ∧ (n = 3 → exec (.stanceSet (q 0x04)) s = bad 0x04) ∧
        (n = 5 → exec (.budgetSet (q 0x20)) s = bad 0x20) ∧ (n = 9 → exec (.menuPut (q 0x14)) s = bad 0x14) ∧
        (n = 10 → exec (.prefPut (q 0x12)) s = bad 0x12) ∧ (n = 25 → exec (.tablePut (q 0x10)) s = bad 0x10)) ∧
      (∀ n, addr = .device ∨ args.length ≠ n →
        (n = 0 → exec (.faultGet (q 0x33)) s = bad 0x33 ∧ exec (.faultAck (q 0x34)) s = bad 0x34 ∧
          exec (.healthGet (q 0x35)) s = bad 0x35 ∧ exec (.healthClear (q 0x36)) s = bad 0x36) ∧
        (n = 1 → exec (.contractGet (q 0x32)) s = bad 0x32) ∧ (n = 7 → exec (.lineSet (q 0x30)) s = bad 0x30) ∧
        (n = 2 → ∀ c ∈ [Instr.pause (r 1), .release (r 2), .mute (r 3), .unmute (r 4), .endLine (r 5), .restart (r 6),
          .renegotiate (r 7), .recallRequest (r 8)], exec c s = bad 0x31))) ∧
    (s.Takes → ∀ (vtag point : Byte) (value : BitVec 16),
      let v := fun (decision : Byte) => VerdictReq.framed decision .device vtag point value
      let bad := Host.Outcome.next (σ := State) (φ := Fault) (ρ := Refusal)
        (s.acting.respond ⟨.device, vtag, 0x00, .badRequest, []⟩)
      (∀ c ∈ [Instr.verdictAuto (v 0), .verdictRefuse (v 1), .verdictChoose (v 2), .verdictGrant (v 3), .verdictDeny (v 4),
        .verdictWait (v 5)], exec c s = bad) ∧
      ∀ code, 5 < code.toNat → exec (.verdictUnassigned code (v code)) s = bad) ∧
    (s.link.receiver = .receiving → ∀ c : Instr, c.asks = true → c.wellFormed = true →
      (∃ raw check, linkCheck? c = some (raw, check) ∧ (check ≠ crc raw → exec c s = dropped)) ∧
      (4 ≤ s.link.responses.length → exec c s = dropped))

/-- R62, R70, R88, R119, R130, R177, sections 12.5 and 12.6: what TABLE_PUT, PREF_PUT, MENU_PUT, LINE_SET and BUDGET_SET accept,
character by character. Each takes an entry exactly when the entry is legal and is the one that the characters lay out; bits
without a field are ignored. -/
def Obligations.EntriesHaveTheirLayouts : Prop :=
  let pair := fun (n : Nat) => [BitVec.ofNat 8 (n / 256), BitVec.ofNat 8 n]
  let bit := fun (b : Bool) (i : Nat) => if b then 2 ^ i else 0
  let keep := fun (masks cs : List Byte) => cs.zipWith (· &&& ·) (masks ++ List.replicate 24 0xFF)
  [Action.auto, .refuse, .wait, .clamp, .forward].map Action.code = [0, 1, 2, 3, 4] ∧
  [CapMode.uncapped, .endAtCap, .recallAtCap].map CapMode.code = [0, 1, 2] ∧
  [Line.l0, .l1, .l2, .l3].map Line.index = [0, 1, 2, 3] ∧
  (∀ e : RuleEntry, e.chars =
    [BitVec.ofNat 8 (bit e.enabled 7 + bit e.report 6 + 8 * e.action.code + e.fallback.code),
      BitVec.ofNat 8 e.lines.toNat, BitVec.ofNat 8 e.kinds.toNat,
      BitVec.ofNat 8 (bit e.hasVoltage 0 + bit e.hasPower 1 + bit e.hasStance 2 + bit e.hasClass 3 + bit e.hasIdentity 4),
      BitVec.ofNat 8 e.classes.toNat] ++
    pair (e.identity.toNat / 65536) ++ pair e.identity.toNat ++ pair (e.mask.toNat / 65536) ++ pair e.mask.toNat ++
    pair e.vMin ++ pair e.vMax ++ pair e.pMin ++ pair e.pMax ++ [e.stance] ++ pair e.clamp) ∧
  (∀ p : Preference, p.chars =
    [BitVec.ofNat 8 (bit p.enabled 0)] ++ pair p.vMin ++ pair p.vMax ++ pair p.wanted ++ pair p.least) ∧
  (∀ e : SupplyEntry, e.chars =
    [BitVec.ofNat 8 (bit e.enabled 0), BitVec.ofNat 8 (match e.point.kind with
      | .fixed => 0
      | .window => 1)] ++ pair e.point.v1 ++ pair e.point.v2 ++ pair e.point.limit) ∧
  (∀ (cs : List Byte) (e : RuleEntry), cs.length = 24 →
    (parseRule cs = some e ↔ e.Legal ∧ e.chars = keep [0xFF, 0x0F, 0x07, 0x1F, 0x0F] cs)) ∧
  (∀ (cs : List Byte) (p : Preference), cs.length = 9 →
    (parsePref cs = some p ↔ p.Legal ∧ p.chars = keep [0x01] cs)) ∧
  (∀ (cs : List Byte) (e : SupplyEntry), cs.length = 8 →
    (parseSupply cs = some e ↔ e.Legal ∧ e.chars = keep [0x01] cs)) ∧
  (∀ (cs : List Byte) (o : Options), cs.length = 7 →
    (parseOptions cs = some o ↔ o.Legal ∧
      [BitVec.ofNat 8 o.timeoutIndex, BitVec.ofNat 8 o.lease, BitVec.ofNat 8 o.baseline,
        BitVec.ofNat 8 (bit o.holdAfterActive 0 + 2 * o.capMode.code + bit o.roles.draw 4 + bit o.roles.supply 5),
        BitVec.ofNat 8 (o.allowance / 65536)] ++ pair o.allowance = keep [0xFF, 0xFF, 0xFF, 0x37] cs)) ∧
  (∀ (cs : List Byte) (input supply : Nat) (r0 r1 r2 r3 : Line), cs.length = 5 →
    (parseBudget cs = some (input, supply, [r0, r1, r2, r3]) ↔
      input ≤ 2500 ∧ supply ≤ 1000 ∧ [r0, r1, r2, r3].Nodup ∧ cs = pair input ++ pair supply ++
        [BitVec.ofNat 8 (64 * r0.index + 16 * r1.index + 4 * r2.index + r3.index)])) ∧
  (∀ (cs : List Byte) (input supply : Nat) (rank : List Line), parseBudget cs = some (input, supply, rank) →
    rank.length = 4)

/-- R133, R153, R156, R177, R179, sections 12.4, 12.5 and 12.7: the records that BUDGET_GET, CONTRACT_GET, FAULT_GET and
HEALTH_GET return, position by position; a field that is absent is sent as 0. That part 0 carries a recall-capable flag set by
a MENU beside the mark that the far fields are absent is the model's choice, log 39. -/
def Obligations.RecordsHaveTheirLayouts : Prop :=
  let pair := fun (n : Nat) => [BitVec.ofNat 8 (n / 256), BitVec.ofNat 8 n]
  let quad := fun (n : Nat) => pair (n / 65536) ++ pair n
  let bit := fun (b : Bool) (i : Nat) => if b then 2 ^ i else 0
  CState.every.map CState.code = List.range 14 ∧
  CState.every = [.detached, .greeting, .blocked, .faulted, .awaitMenu, .choosing, .claiming, .backoff, .switching, .active,
    .baseline, .offering, .deciding, .powering] ∧
  [Role.none, .draw, .supply].map Role.code = [0, 1, 2] ∧
  [Mark.unqueried, .survives, .struck].map Mark.code = [0, 1, 2] ∧
  [RecallCause.budget, .cap, .controller].map RecallCause.code = [1, 2, 3] ∧
  [Straps.disabled, .drawOnly, .supplyOnly, .both].map Straps.code = [0, 1, 2, 3] ∧
  [Outcome.done, .denied, .waitLimit, .noAnswer, .lineError, .malformedAnswer, .noSuitablePoint, .superseded, .recallForced,
    .leaseLost, .capReached, .endedByFar, .endedByController, .refused, .noRole, .detached].map Outcome.code =
    (List.range 16).map (· + 1) ∧
  [Cause.overcurrent, .reverse, .voltage, .settle, .repeatLimit, .loop, .txTimeout, .convention, .malformed,
    .malformedAnswer, .recallIgnored].map (fun c => (c.code, c.cls.code)) =
    [(1, 1), (2, 1), (3, 1), (4, 1), (5, 2), (6, 2), (7, 2), (8, 2), (9, 3), (10, 3), (11, 3)] ∧
  (∀ b : Budget,
    let ranked := fun (i : Nat) => orZero b.rank[i]? Line.index
    let line := fun (l : Line) => pair (b.drawCommit.get l) ++ pair (orZero (b.alloc.get l) Allocation.power) ++
      pair (orZero (b.alloc.get l) Allocation.current)
    let entry := fun (i : Nat) => pair (orZero b.order[i]? GrantEntry.commitment) ++
      pair (orZero b.order[i]? GrantEntry.recallVoltage)
    let named := fun (i : Nat) => orZero b.order[i]? fun g => g.line.index
    b.chars.length = 56 ∧ b.chars =
      pair b.inputCeiling ++ pair b.supplyCeiling ++
      [BitVec.ofNat 8 (64 * ranked 0 + 16 * ranked 1 + 4 * ranked 2 + ranked 3)] ++
      pair b.committedDraw ++ pair b.committedSupply ++ pair b.drawHeadroom ++ pair b.supplyHeadroom ++
      [BitVec.ofNat 8 (bit b.drawOver 0 + bit b.supplyOver 1 + bit (b.alloc.get .l0).isSome 4 +
        bit (b.alloc.get .l1).isSome 5 + bit (b.alloc.get .l2).isSome 6 + bit (b.alloc.get .l3).isSome 7)] ++
      line .l0 ++ line .l1 ++ line .l2 ++ line .l3 ++
      [BitVec.ofNat 8 b.order.length, BitVec.ofNat 8 (64 * named 0 + 16 * named 1 + 4 * named 2 + named 3)] ++
      entry 0 ++ entry 1 ++ entry 2 ++ entry 3) ∧
  (∀ (c : Contract) (st : Straps),
    (c.part0 st).length = 56 ∧ c.part0 st =
      [BitVec.ofNat 8 c.state.code, BitVec.ofNat 8 c.role.code,
        BitVec.ofNat 8 (bit c.far.isSome 0 + bit c.farMenu.isSome 1 + bit c.offered.isSome 2 + bit c.agreement.isSome 3 +
          bit c.claim.isSome 4 + bit c.grant.isSome 5 + bit c.recallOut.isSome 6 + bit c.target.isSome 7),
        BitVec.ofNat 8 (bit c.leaseDeadline.isSome 0 + bit c.lineClamp.isSome 1 + bit c.lastOutcome.isSome 2 +
          bit c.paused 3 + bit c.deferred 4 + bit c.unmanaged 5 + bit c.lastFrameFault 6 +
          bit (c.offered.any OfferedMenu.held) 7),
        BitVec.ofNat 8 (orZero c.far fun f => f.cls.code), BitVec.ofNat 8 (bit (c.farRecall == some true) 0)] ++
      quad (orZero c.far fun f => f.identity.toNat) ++ [BitVec.ofNat 8 (orZero c.far FarFields.level)] ++
      pair (orZero c.agreement Agreement.voltage) ++ pair (orZero c.agreement Agreement.current) ++
      [BitVec.ofNat 8 (orZero c.agreement Agreement.lease), BitVec.ofNat 8 (orZero c.agreement Agreement.point)] ++
      pair (orZero c.claim fun k => k.fields.voltage) ++ pair (orZero c.claim fun k => k.fields.claimed) ++
      pair (orZero c.claim fun k => k.fields.least) ++
      [BitVec.ofNat 8 (orZero c.claim fun k => 32 * k.tag.toNat + k.fields.point)] ++
      pair (orZero c.grant fun g => g.voltage) ++ pair (orZero c.grant fun g => g.current) ++
      [BitVec.ofNat 8 (orZero c.grant fun g => g.lease), BitVec.ofNat 8 (orZero c.grant fun g => 32 * g.tag.toNat + g.point),
        BitVec.ofNat 8 (16 * c.cursor.pref + c.cursor.point),
        BitVec.ofNat 8 (c.waitStreak + 16 * c.greetingCount + bit c.greetingStopped 6),
        BitVec.ofNat 8 c.tagCounter.toNat] ++
      quad (orZero c.leaseDeadline BitVec.toNat) ++ pair (orZero c.recallOut RecallOut.level) ++
      quad (orZero (c.recallOut.bind RecallOut.deadline) BitVec.toNat) ++
      [BitVec.ofNat 8 ((orZero c.recallOut fun r => r.cause.code) + 16 * orZero c.target fun r => r.cause.code)] ++
      pair (orZero c.target RecallTarget.level) ++ pair (c.lineClamp.getD 0) ++
      [BitVec.ofNat 8 (orZero c.lastOutcome Outcome.code),
        BitVec.ofNat 8 (c.options.timeoutIndex + bit c.options.holdAfterActive 2 + 8 * c.options.capMode.code +
          bit c.options.roles.draw 5 + bit c.options.roles.supply 6),
        BitVec.ofNat 8 c.options.lease, BitVec.ofNat 8 c.options.baseline, BitVec.ofNat 8 (c.options.allowance / 65536)] ++
      pair c.options.allowance ++ [BitVec.ofNat 8 st.code]) ∧
  (∀ c : Contract,
    let point := fun (p : Point) => pair p.v1 ++ pair p.v2 ++ pair p.limit
    let window := fun (p : Point) => if p.kind = .window then 1 else 0
    c.part1 = (match c.farMenu with
      | none => [0]
      | some m => BitVec.ofNat 8 m.points.length :: (m.points.map fun p =>
          BitVec.ofNat 8 (window p.point + 16 * p.mark.code) :: (point p.point ++ pair p.capacity)).flatten) ∧
    c.part2 = (match c.offered with
      | none => [0, 0]
      | some m => BitVec.ofNat 8 m.points.length :: BitVec.ofNat 8 (bit m.held 0) :: (m.points.map fun p =>
          BitVec.ofNat 8 (window p) :: point p).flatten)) ∧
  (∀ c : Capture, c.chars =
    [BitVec.ofNat 8 (bit c.held 0 + bit c.overlap 1 + bit c.kind.isSome 2), BitVec.ofNat 8 (orZero c.cause Cause.code),
      BitVec.ofNat 8 (orZero c.cause fun x => x.cls.code), BitVec.ofNat 8 c.state.code,
      BitVec.ofNat 8 (orZero c.kind fun k => k.code.toNat)] ++ quad c.time.toNat ++ [BitVec.ofNat 8 c.count]) ∧
  (∀ (h : Health) (muted : Bool), h.chars muted =
    [BitVec.ofNat 8 (bit h.txTimeout 0 + bit h.loopFail 1 + bit h.repeatLimit 2 + bit h.conventionError 3 + bit muted 7),
      BitVec.ofNat 8 (bit h.malformed 0 + bit h.shortFrame 1 + bit h.strayAnswer 2 + bit h.answerTimeout 3)])

/-- R64, R70, R88, R121, R133, R153, R156, R170, R179: the requests that read, and what they carry. The records are laid out as
EntriesHaveTheirLayouts and RecordsHaveTheirLayouts say. -/
def Obligations.ReadsAreAnswered : Prop :=
  ∀ (s : State) (num : Byte), s.Takes →
    let q := fun (code : Byte) (args : List Byte) => Req.framed code .device num args
    let part := fun (t : State) (code : Byte) (res : Result) (data : List Byte) =>
      Host.Outcome.next (σ := State) (φ := Fault) (ρ := Refusal) (t.respond ⟨.device, num, code, res, data⟩)
    (exec (.identify (q 0x01 [])) s =
      part { s.acting with link := { s.acting.link with linkError := false } } 0x01 .ok
        ([0x0E, 0x40, 0x00, 0x02, byte (packCodes (s.straps.map Straps.code)),
          byte (packCodes (s.contracts.map fun c => c.options.roles.code)), 0x00,
          if s.link.linkError then 0x01 else 0x00] ++ be32 s.now.toNat)) ∧
    (∀ i flags : Byte,
      (∀ h : i.toNat < 32, exec (.tableGet (q 0x11 [i, flags])) s =
        part (if flags.getLsbD 0 then { s.acting with rules := s.rules.set i.toNat { s.rules[i.toNat] with hits := 0 } }
          else s.acting) 0x11 .ok (s.rules[i.toNat].chars ++ be16 s.rules[i.toNat].hits)) ∧
      (32 ≤ i.toNat → exec (.tableGet (q 0x11 [i, flags])) s = part s.acting 0x11 .badIndex [])) ∧
    (∀ i : Byte,
      (∀ h : i.toNat < 8, exec (.prefGet (q 0x13 [i])) s = part s.acting 0x13 .ok s.prefs[i.toNat].chars) ∧
      (8 ≤ i.toNat → exec (.prefGet (q 0x13 [i])) s = part s.acting 0x13 .badIndex []) ∧
      (∀ h : i.toNat < 4, exec (.menuGet (q 0x15 [i])) s = part s.acting 0x15 .ok s.menu[i.toNat].chars) ∧
      (4 ≤ i.toNat → exec (.menuGet (q 0x15 [i])) s = part s.acting 0x15 .badIndex [])) ∧
    exec (.budgetGet (q 0x21 [])) s = part s.acting 0x21 .ok s.budget.chars ∧
    ∀ l : Line,
      let q := fun (code : Byte) (args : List Byte) => Req.framed code (.line l) num args
      let line := fun (code : Byte) (res : Result) (data : List Byte) =>
        Host.Outcome.next (σ := State) (φ := Fault) (ρ := Refusal) (s.acting.respond ⟨.line l, num, code, res, data⟩)
      exec (.contractGet (q 0x32 [0])) s = line 0x32 .ok ((s.contract l).part0 (s.straps.get l)) ∧
      exec (.contractGet (q 0x32 [1])) s = line 0x32 .ok (s.contract l).part1 ∧
      exec (.contractGet (q 0x32 [2])) s = line 0x32 .ok (s.contract l).part2 ∧
      (∀ p : Byte, 3 ≤ p.toNat → exec (.contractGet (q 0x32 [p])) s = line 0x32 .badIndex []) ∧
      exec (.faultGet (q 0x33 [])) s =
        line 0x33 .ok ((s.captures.get l).chars ++ [byte (s.strikes.get l)]) ∧
      exec (.healthGet (q 0x35 [])) s =
        line 0x35 .ok ((s.engine l).health.chars (s.engine l).muted ++ [byte (s.engine l).wdCount])

/-- R40, R70, R88, R89, R91, R119, R120, R153, R156: the requests that store an entry, the stance, an acknowledgement or clear
flags (log 27 for the mode of STANCE_SET). That a PREF_PUT with an index of 8 or above and an entry out of range is answered
BAD_INDEX is the model's choice, log 40. A MENU_PUT that changes an entry builds every held menu again, and sends it when it has
points: the point that each entry offers for a room of supply power stands first. The entries are laid out as
EntriesHaveTheirLayouts says. -/
def Obligations.WritesAreStored : Prop :=
  (∀ (e : SupplyEntry) (room : Nat) (p : Point), e.offer room = some p ↔
    e.enabled = true ∧ p.kind = e.point.kind ∧ p.v1 = e.point.v1 ∧ p.v2 = e.point.v2 ∧
      ((e.point.kind = .fixed ∧ p.limit = min e.point.limit (room * 200 / e.point.v1) ∧ 4 ≤ p.limit) ∨
        (e.point.kind = .window ∧ p.limit = min e.point.limit room ∧ 5 ≤ p.limit))) ∧
  ∀ (s : State) (num : Byte), s.Takes →
    let q := fun (code : Byte) (args : List Byte) => Req.framed code .device num args
    let part := fun (t : State) (code : Byte) (res : Result) =>
      Host.Outcome.next (σ := State) (φ := Fault) (ρ := Refusal) (t.respond ⟨.device, num, code, res, []⟩)
    (∀ (i : Byte) (chars : List Byte), chars.length = 24 →
      (∀ (h : i.toNat < 32) (e : RuleEntry), parseRule chars = some e →
        e.hits = 0 ∧ exec (.tablePut (q 0x10 (i :: chars))) s =
          part { s.acting with rules := s.rules.set i.toNat e } 0x10 .ok) ∧
      (i.toNat < 32 → parseRule chars = none →
        exec (.tablePut (q 0x10 (i :: chars))) s = part s.acting 0x10 .badEntry) ∧
      (32 ≤ i.toNat → exec (.tablePut (q 0x10 (i :: chars))) s = part s.acting 0x10 .badIndex)) ∧
    (∀ (i : Byte) (chars : List Byte), chars.length = 9 →
      (∀ (h : i.toNat < 8) (e : Preference), parsePref chars = some e →
        exec (.prefPut (q 0x12 (i :: chars))) s =
          part { s.acting with prefs := s.prefs.set i.toNat e } 0x12 .ok) ∧
      (i.toNat < 8 → parsePref chars = none →
        exec (.prefPut (q 0x12 (i :: chars))) s = part s.acting 0x12 .badEntry) ∧
      (8 ≤ i.toNat → exec (.prefPut (q 0x12 (i :: chars))) s = part s.acting 0x12 .badIndex)) ∧
    (∀ (i : Byte) (chars : List Byte), chars.length = 8 →
      (∀ (h : i.toNat < 4) (e : SupplyEntry), parseSupply chars = some e → e ≠ s.menu[i.toNat] → s.budget.RankOk →
        ∃ t, exec (.menuPut (q 0x14 (i :: chars))) s = .next t ∧ t.menu = s.menu.set i.toNat e ∧
          t.link.responses = s.link.responses ++ [⟨.device, num, 0x14, .ok, []⟩] ∧ t.budget = s.budget ∧
          t.channels = s.channels ∧ t.rules = s.rules ∧ t.prefs = s.prefs ∧ t.captures = s.captures ∧
          t.strikes = s.strikes ∧ ∀ l,
          ((s.contract l).awaitsRise = false → t.contract l = s.contract l ∧ t.engine l = s.engine l) ∧
          ((s.contract l).awaitsRise = true → MenuRebuilt l s t t.menu
            (capBy (s.budget.supplyHeadroom + s.budget.supplyCommit.get l) (s.contract l).lineClamp))) ∧
      (∀ (h : i.toNat < 4) (e : SupplyEntry), parseSupply chars = some e →
        e = s.menu[i.toNat] ∨ (∀ l, (s.contract l).awaitsRise = false) →
        exec (.menuPut (q 0x14 (i :: chars))) s =
          part { s.acting with menu := s.menu.set i.toNat e } 0x14 .ok) ∧
      (i.toNat < 4 → parseSupply chars = none →
        exec (.menuPut (q 0x14 (i :: chars))) s = part s.acting 0x14 .badEntry) ∧
      (4 ≤ i.toNat → exec (.menuPut (q 0x14 (i :: chars))) s = part s.acting 0x14 .badIndex)) ∧
    (∀ mode a b : Byte,
      (mode.toNat ≤ 1 → exec (.stanceSet (q 0x04 [mode, a, b])) s =
        part { s.acting with link := { s.acting.link with
          stance := a ++ b
          manualStance := decide (mode.toNat = 1) } } 0x04 .ok) ∧
      (1 < mode.toNat → exec (.stanceSet (q 0x04 [mode, a, b])) s = part s.acting 0x04 .badEntry)) ∧
    ∀ l : Line,
      let q := fun (code : Byte) (args : List Byte) => Req.framed code (.line l) num args
      let line := fun (t : State) (code : Byte) (res : Result) =>
        Host.Outcome.next (σ := State) (φ := Fault) (ρ := Refusal) (t.respond ⟨.line l, num, code, res, []⟩)
      ((s.captures.get l).held = true → exec (.faultAck (q 0x34 [])) s =
        line { s.acting with captures := s.captures.set l { s.captures.get l with held := false } } 0x34 .ok) ∧
      ((s.captures.get l).held = false → exec (.faultAck (q 0x34 [])) s = line s.acting 0x34 .notHeld) ∧
      exec (.healthClear (q 0x36 [])) s = line (s.acting.onEngine l fun e =>
        { e with health := ⟨false, false, false, false, false, false, false, false⟩ }) 0x36 .ok

/-- R171, R65, R20: RESET_PART returns every block to its power-on values but for what the line engines keep, and answers; each
line's contract record is whole the fresh one (ResetValuesAreTheManuals gives its fields) with the straps' roles, in DETACHED,
in BLOCKED, or in GREETING with the greeting delay of 50 ms running; latest sample by log 7, the drain count by log 25. -/
def Obligations.ResetPartResetsTheBlocks : Prop :=
  ∀ (s : State) (num : Byte), s.Takes →
    ∃ t, exec (.resetPart (Req.framed 0x02 .device num [])) s = .next t ∧
      t.now = 0 ∧ t.straps = s.straps ∧ t.rules = State.reset.rules ∧ t.prefs = State.reset.prefs ∧
      t.menu = State.reset.menu ∧ t.budget = State.reset.budget ∧ t.channels = State.reset.channels ∧
      t.captures = State.reset.captures ∧ t.strikes = State.reset.strikes ∧
      t.link = { State.reset.link with
        receiver := .idle, stx := s.link.stx, responses := [⟨.device, num, 0x02, .ok, []⟩] } ∧
      ∀ l, (t.engine l).muted = false ∧ (t.engine l).wdCount = 0 ∧ (t.engine l).health = .clear ∧
        (t.engine l).convention = (s.engine l).convention ∧ (t.engine l).present = (s.engine l).present ∧
        (t.engine l).presenceRun = (s.engine l).presenceRun ∧ (t.engine l).rxSide = (s.engine l).rxSide ∧
        (t.engine l).rxChars = (s.engine l).rxChars ∧ (t.engine l).drain = some (t.engine l).txQueue.length ∧
        ((s.contract l).state.contracted = true → (s.engine l).present = true → (s.engine l).txQueue.length < 4 →
          Handed l s t ⟨(s.contract l).tagCounter, .ending .reset⟩) ∧
        ((s.contract l).state.contracted = false → (t.engine l).txQueue = (s.engine l).txQueue) ∧
        let record := Contract.fresh { (State.reset.contract l).options with roles := (s.straps.get l).roles }
        t.contract l = (if (s.engine l).present = false then record
          else if s.straps.get l = .disabled then { record with state := .blocked }
          else { record with state := .greeting, timers := { record.timers with greetingDelay := some 50 } })

/-- R165, R169, R173: QUIET and LINK_RESTART, with the verdict queue empty; with entries standing each of them leaves the queue and
its fallback is applied, as at its own deadline (VerdictsAreApplied), one after another in an order that the model leaves free
(log 3), before WAKE is judged at QUIET and before a restart ends the mode. -/
def Obligations.QuietAndRestartEmptyTheVerdictQueue : Prop :=
  ∀ (s : State) (num wake : Byte),
    (s.Takes → s.link.verdicts = [] → s.link.wakeRests →
      exec (.quiet (Req.framed 0x03 .device num [wake])) s = .next (State.respond
        { s.acting with
          freeCount := s.freeCount + 1
          link := { s.acting.link with
            mode := .autonomous
            wakeSet := wake.setWidth 7
            wake := s.link.notices.any fun n => (wake.setWidth 7).getLsbD (n.body.kind.code - 1) } }
        ⟨.device, num, 0x03, .ok, []⟩)) ∧
    (s.Takes → ∃ order t, order.Perm s.link.verdicts ∧
      ResolvedInTurn order { s.acting with
        freeCount := s.freeCount + 1
        link := { s.acting.link with mode := .autonomous, wakeSet := wake.setWidth 7, verdicts := [] } } t ∧
      exec (.quiet (Req.framed 0x03 .device num [wake])) s = .next (State.respond
        { t with link := { t.link with
            wake := t.link.wake || t.link.notices.any fun n => (wake.setWidth 7).getLsbD (n.body.kind.code - 1) } }
        ⟨.device, num, 0x03, .ok, []⟩)) ∧
    (s.Takes → ∃ t, exec (.quiet (Req.framed 0x03 .device num [wake])) s = .next t ∧ t.link.mode = .autonomous ∧
      t.link.wakeSet = wake.setWidth 7 ∧ t.link.verdicts = [] ∧ t.now = s.now ∧
      t.link.responses = s.link.responses ++ [⟨.device, num, 0x03, .ok, []⟩]) ∧
    (s.link.verdicts = [] → exec .linkRestart s = .next { s with
      freeCount := s.freeCount + 1
      link := { s.link with
        receiver := .skipping, responses := [], notices := [], mode := .running, wakeSet := 0, wake := false } }) ∧
    (∃ order t, order.Perm s.link.verdicts ∧
      ResolvedInTurn order { s with
        freeCount := s.freeCount + 1
        link := { s.link with receiver := .skipping, responses := [], notices := [], verdicts := [] } } t ∧
      exec .linkRestart s = .next { t with link := { t.link with mode := .running, wakeSet := 0, wake := false } }) ∧
    ∃ t, exec .linkRestart s = .next t ∧ t.link.receiver = .skipping ∧ t.link.responses = [] ∧ t.link.verdicts = [] ∧
      t.link.mode = .running ∧ t.link.wakeSet = 0 ∧ t.link.wake = false ∧ t.link.linkError = s.link.linkError ∧
      t.link.stance = s.link.stance ∧ t.now = s.now ∧ t.straps = s.straps ∧ t.prefs = s.prefs ∧ t.menu = s.menu

/-! ### The budget and the options by request -/

/-- R134: BUDGET_CLEAR. -/
def Obligations.BudgetClearShowsWhatStillHolds : Prop :=
  ∀ (s : State) (num : Byte), s.Takes → s.budget.SumsOk →
    ∃ t, exec (.budgetClear (Req.framed 0x22 .device num [])) s = .next t ∧
      t.budget = { s.budget with
        drawOver := decide (s.budget.inputCeiling < s.budget.committedDraw)
        supplyOver := decide (s.budget.supplyCeiling < s.budget.committedSupply) } ∧
      t.link.responses = s.link.responses ++ [⟨.device, num, 0x22, .ok, []⟩] ∧
      (t.budget.drawOver = true ∨ t.budget.supplyOver = true →
        (⟨.part, s.now, .budget t.budget.drawOver t.budget.supplyOver t.budget.inputCeiling t.budget.supplyCeiling
          t.budget.committedDraw t.budget.committedSupply t.budget.drawHeadroom t.budget.supplyHeadroom⟩ : Notice) ∈
          t.link.notices) ∧
      (t.budget.drawOver = false → t.budget.supplyOver = false → t.link.notices = s.link.notices) ∧
      t.contracts = s.contracts ∧ t.engines = s.engines ∧ t.channels = s.channels ∧ t.rules = s.rules

/-- R100, R127, R130, R131, R132: BUDGET_SET's checks, and what it stores. The recall walk takes a committed supply above the
ceiling back from the newest grant on, whatever number of lines supply: each entry of the grant order list is given its level
for the excess that the newer ones leave, a pending target where a recall is outstanding or the line is POWERING. A rise of the
supply headroom is passed to every held menu; a rise of the input ceiling to a BASELINE line, which selects again with the
headroom it then has. The layout of the arguments is EntriesHaveTheirLayouts; the receiver by log 22, the queries of a
selection by log 29. -/
def Obligations.BudgetSetStoresAndRecalls : Prop :=
  ∀ (s : State) (num : Byte) (args : List Byte), s.Takes → args.length = 5 →
    let q := Req.framed 0x20 .device num args
    (parseBudget args = none → exec (.budgetSet q) s =
      .next (s.acting.respond ⟨.device, num, 0x20, .badEntry, []⟩)) ∧
    (∀ input supply rank, parseBudget args = some (input, supply, rank) →
      input ≤ 2500 ∧ supply ≤ 1000 ∧ rank.Nodup ∧ rank.length = 4 ∧
      ∃ t, exec (.budgetSet q) s = .next t ∧ t.budget.inputCeiling = input ∧
        t.budget.supplyCeiling = supply ∧ t.budget.rank = rank ∧ t.now = s.now ∧ t.straps = s.straps ∧
        t.prefs = s.prefs ∧ t.menu = s.menu ∧ t.strikes = s.strikes ∧ t.captures = s.captures ∧
        t.link.responses = s.link.responses ++ [⟨.device, num, 0x20, .ok, []⟩] ∧
        (s.budget.SumsOk → s.budget.committedSupply ≤ supply →
          supply - s.budget.committedSupply ≤ s.budget.supplyHeadroom → input ≤ s.budget.inputCeiling →
          t.contracts = s.contracts ∧ t.engines = s.engines ∧ t.rules = s.rules) ∧
        (∀ older g newer, s.budget.SumsOk → s.budget.order = older ++ g :: newer →
          (s.budget.order.map GrantEntry.line).Nodup → supply < s.budget.committedSupply →
          input ≤ s.budget.inputCeiling →
          let c := s.contract g.line
          let excess := s.walkLeft newer.reverse (s.budget.committedSupply - supply)
          let level := s.walkLevel g excess
          let cut := s.walkCut g excess
          let target := match c.target with
            | some old => if old.level ≤ level then old else ⟨level, .budget⟩
            | none => ⟨level, .budget⟩
          (0 < excess → 0 < cut →
            (∀ a, s.Recallable g.line a →
              (level < a.current → Recalled g.line s t a level .budget) ∧
              (a.current ≤ level → t.contract g.line = c ∧ t.engine g.line = s.engine g.line)) ∧
            (c.state = .powering ∨ (c.state = .active ∧ c.role = .supply ∧ c.recallOut.isSome = true) →
              t.contract g.line = { c with target := some target } ∧ t.engine g.line = s.engine g.line)) ∧
          (excess = 0 ∨ cut = 0 → t.contract g.line = c ∧ t.engine g.line = s.engine g.line)) ∧
        (s.budget.SumsOk → s.budget.supplyHeadroom < supply - s.budget.committedSupply →
          input ≤ s.budget.inputCeiling → ∀ l,
          ((s.contract l).awaitsRise = false → t.contract l = s.contract l ∧ t.engine l = s.engine l) ∧
          ((s.contract l).awaitsRise = true → MenuRebuilt l s t s.menu
            (capBy (supply - s.budget.committedSupply + s.budget.supplyCommit.get l) (s.contract l).lineClamp))) ∧
        (∀ l m, s.budget.SumsOk → s.budget.inputCeiling < input →
          (∀ o, o ≠ l → (s.contract o).state ≠ .baseline) → (s.contract l).state = .baseline →
          (s.contract l).farMenu = some m → (s.contract l).paused = false → s.LineSettled l →
          s.NoForward l (m.points.map FarPoint.point) →
          let roomy := { s with budget := { s.budget with drawHeadroom := input - s.budget.committedDraw } }
          let marks := (m.points.map FarPoint.point).mapIdx (s.markOf l)
          (t.contract l).farMenu = some ⟨m.raw, marks⟩ ∧
          (∀ k f, roomy.firstClaim l marks = some (k, f) → ClaimSent l s t k f) ∧
          (roomy.firstClaim l marks = none → (t.contract l).state = .baseline ∧
            (t.contract l).lastOutcome = some .noSuitablePoint ∧
            HandedOrDropped l s t ⟨(s.contract l).tagCounter, .ending .noSuitablePoint⟩)))

/-- R60, R61, R62, R129, R137, R146: LINE_SET's checks; an accepted one that keeps the role held; one that changes the baseline
current, whose path and allocations follow; and one that withdraws the role the contract holds. One that leaves a capped
supplying line with an allowance of 0 reports the cap event (it stands latched, log 9). The layout of the arguments is
EntriesHaveTheirLayouts; the receiver by log 22. -/
def Obligations.LineSetStoresTheOptions : Prop :=
  ∀ (l : Line) (s : State) (num : Byte) (args : List Byte), s.Takes → args.length = 7 →
    let q := Req.framed 0x30 (.line l) num args
    let refused := fun (r : Result) => exec (.lineSet q) s =
      .next (s.acting.respond ⟨.line l, num, 0x30, r, []⟩)
    (parseOptions args = none → refused .badEntry) ∧
    (∀ o, parseOptions args = some o →
      o.Legal ∧
      (o.roles.within (s.straps.get l).roles = false → refused .refusedStrap) ∧
      (o.roles.within (s.straps.get l).roles = true → s.LineSettled l →
        let c := s.contract l
        let supplying := c.state = .powering ∨ (c.state = .active ∧ c.role = .supply)
        let capped := (s.channel l).capReport || decide (supplying ∧ (s.channel l).command.form = .supply ∧
          o.capMode ≠ .uncapped ∧ o.allowance = 0)
        let stored := fun (t : State) => t.contract l = { c with options := o } ∧ t.engine l = s.engine l ∧
          t.link.responses = s.link.responses ++ [⟨.line l, num, 0x30, .ok, []⟩] ∧ LineFrame l s t
        ((c.role = .draw → o.roles.draw = true) → (c.role = .supply → o.roles.supply = true) →
          (o.baseline = c.options.baseline → ∃ t, exec (.lineSet q) s = .next t ∧ stored t ∧
            t.channel l = { s.channel l with allowance := o.allowance, capReport := capped } ∧ t.budget = s.budget) ∧
          (o.baseline ≠ c.options.baseline → ∃ t, exec (.lineSet q) s = .next t ∧ stored t ∧
            (t.channel l).allowance = o.allowance ∧ (t.channel l).capReport = capped ∧
            t.budget = { s.budget with alloc := t.budget.alloc } ∧ (s.AllocationsCurrent → t.AllocationsCurrent) ∧
            t.LineSettled l ∧
            (c.state = .awaitMenu ∨ c.state = .baseline → (t.channel l).command =
              ⟨.draw, 0, o.baseline, false, ⟨true, false, false, false, none⟩⟩) ∧
            (∀ a, c.agreement = some a → c.state = .switching → (t.channel l).command =
              ⟨.draw, 0, min o.baseline a.current, false, ⟨true, false, false, false, none⟩⟩) ∧
            (c.state = .offering ∨ c.state = .deciding → (t.channel l).command =
              ⟨.supply, 250, o.baseline, false, ⟨false, true, false, false, none⟩⟩))) ∧
        (c.state.contracted = true →
          (c.role = .draw ∧ o.roles.draw = false) ∨ (c.role = .supply ∧ o.roles.supply = false) →
          (s.engine l).accepts = true →
          ∃ t, exec (.lineSet q) s = .next t ∧ ClosedTo l s t .greeting .none (some .noRole) ∧
            (t.contract l).options = o ∧ Handed l s t ⟨c.tagCounter, .ending .policy⟩ ∧
            t.link.responses = s.link.responses ++ [⟨.line l, num, 0x30, .ok, []⟩] ∧ LineFrame l s t)))

/-! ### The line control actions -/

/-- R17, R34, R53, R58, R59, R63, R84, R152: PAUSE, RELEASE, MUTE, UNMUTE, END and RESTART; LINE_CTRL rows carry the characters
after the action, log 24. A RELEASE processes the MENU deferred while the line was paused (log 14), its queries one after
another (log 29); a MUTE removes the frames of the queue as DROPPED, and such a report of the outstanding request's starts its
timing, but that of a CLAIM that has its GRANT (log 18); the drain count is log 25, an ANNOUNCE closed before its report log 15.
-/
def Obligations.LineControlsAct : Prop :=
  ∀ (l : Line) (s : State) (num : Byte) (a b : Byte), s.Takes →
    let r := fun (action : Byte) => Req.control action (.line l) num [a, b]
    let gives := fun (t : State) (res : Result) => Host.Outcome.next (σ := State) (φ := Fault) (ρ := Refusal)
      (t.respond ⟨.line l, num, 0x31, res, []⟩)
    let ok : List Response := s.link.responses ++ [⟨.line l, num, 0x31, .ok, []⟩]
    let silent := s.acting.onEngine l fun e =>
      { e with
        muted := true, txQueue := [], txSide := .idle, txLevels := [], txIndex := 0, txSends := 0, watchdog := none
        drain := e.drain.map fun n => n - e.txQueue.length }
    ((s.contract l).state = .detached →
      ∀ c ∈ [Instr.pause (r 1), .release (r 2), .endLine (r 5), .restart (r 6)], exec c s = gives s.acting .wrongState) ∧
    ((s.contract l).state ≠ .detached →
      exec (.pause (r 1)) s = gives (s.acting.onContract l fun c => { c with paused := true }) .ok ∧
      ((s.contract l).paused = false → exec (.release (r 2)) s = gives s.acting .ok) ∧
      ((s.contract l).paused = true →
        (s.contract l).deferred = false ∨ (s.contract l).state = .switching ∨ (s.contract l).state = .choosing →
        exec (.release (r 2)) s = gives (s.acting.onContract l fun c => { c with paused := false }) .ok) ∧
      (∀ m, (s.contract l).paused = true → (s.contract l).deferred = true → (s.contract l).role = .draw →
        (s.contract l).state ≠ .switching → (s.contract l).state ≠ .choosing → (s.contract l).farMenu = some m →
        s.NoForward l (m.points.map FarPoint.point) → s.LineSettled l →
        let marks := (m.points.map FarPoint.point).mapIdx (s.markOf l)
        ∃ t, exec (.release (r 2)) s = .next t ∧ (t.contract l).paused = false ∧ (t.contract l).deferred = false ∧
          (t.contract l).farMenu = some ⟨m.raw, marks⟩ ∧
          (∀ k f, s.firstClaim l marks = some (k, f) → ClaimSent l s t k f) ∧
          (s.firstClaim l marks = none → (t.contract l).state = .baseline ∧
            (t.contract l).lastOutcome = some .noSuitablePoint ∧
            HandedOrDropped l s t ⟨(s.contract l).tagCounter, .ending .noSuitablePoint⟩) ∧
          t.link.responses = ok ∧ LineFrame l s t)) ∧
    ((∀ x, (s.contract l).exchange = some x → ∀ f ∈ (s.engine l).txQueue, f.id ≠ x.frameId) →
      ((∀ f ∈ (s.engine l).txQueue, (s.contract l).timers.slowFrame ≠ some f.id) →
        exec (.mute (r 3)) s = gives silent .ok) ∧
      ((∃ f ∈ (s.engine l).txQueue, (s.contract l).timers.slowFrame = some f.id) →
        exec (.mute (r 3)) s = gives (silent.onContract l fun c =>
          { c with timers := { c.timers with slowFrame := none, slowRegreeting := some (s.now + 5000) } }) .ok)) ∧
    ((s.contract l).timers.slowFrame = none →
      (∀ x, (s.contract l).exchange = some x → (∃ f ∈ (s.engine l).txQueue, f.id = x.frameId) →
        (x.kind = .claim ∨ x.kind = .renew ∨
            (x.kind = .announce ∧ ¬((s.contract l).state = .baseline ∧ (s.contract l).unmanaged = true)) →
          exec (.mute (r 3)) s = gives (silent.onContract l fun c =>
            { c with exchange := some { x with
              timer := some (s.now + (match c.options.timeoutIndex with
                | 0 => 10
                | 1 => 25
                | 2 => 60
                | _ => 150))
              reportedAt := some s.now } }) .ok) ∧
        (x.kind = .announce → (s.contract l).state = .baseline → (s.contract l).unmanaged = true →
          exec (.mute (r 3)) s = gives (silent.onContract l fun c =>
            { c with
              exchange := some { x with
                timer := some (s.now + (match c.options.timeoutIndex with
                  | 0 => 10
                  | 1 => 25
                  | 2 => 60
                  | _ => 150))
                reportedAt := some s.now }
              timers := { c.timers with slowRegreeting := some (s.now + 5000) } }) .ok) ∧
        (x.kind = .claimGranted → exec (.mute (r 3)) s = gives silent .ok) ∧
        (∀ ro, x.kind = .recall → (s.contract l).recallOut = some ro →
          exec (.mute (r 3)) s = gives (silent.onContract l fun c =>
            { c with recallOut := some { ro with deadline := some (s.now + 100) } }) .ok))) ∧
    exec (.unmute (r 4)) s = gives (s.acting.onEngine l fun e => { e with muted := false }) .ok ∧
    ((s.contract l).state.contracted = false → exec (.endLine (r 5)) s = gives s.acting .wrongState) ∧
    ((s.contract l).state.contracted = true → s.LineSettled l → (s.engine l).accepts = true →
      ∃ t, exec (.endLine (r 5)) s = .next t ∧ ClosedTo l s t .greeting .none (some .endedByController) ∧
        (t.contract l).timers.greetingDelay = some (s.now + 50) ∧
        Handed l s t ⟨(s.contract l).tagCounter, .ending .normal⟩ ∧ t.link.responses = ok ∧ LineFrame l s t) ∧
    ((s.contract l).state.contracted = true → exec (.restart (r 6)) s = gives s.acting .wrongState) ∧
    ((s.contract l).state = .blocked → s.straps.get l = .disabled → exec (.restart (r 6)) s = gives s.acting .refusedStrap) ∧
    ((s.contract l).state = .faulted → (s.captures.get l).held = true → exec (.restart (r 6)) s = gives s.acting .held) ∧
    (s.LineSettled l →
      let restarted := fun (t : State) => (t.contract l).role = .none ∧ (t.contract l).exchange = none ∧
        (t.contract l).displaced = [] ∧
        (t.contract l).waiting = none ∧ (t.contract l).decision = none ∧
        (t.contract l).lastOutcome = (s.contract l).lastOutcome ∧ t.verdictOf l = none ∧ (t.engine l).wdCount = 0 ∧
        t.strikes.get l = 0 ∧ (t.channel l).command = .opened ∧ t.link.responses = ok ∧ LineFrame l s t
      ((s.contract l).state = .greeting ∨ (s.contract l).state = .blocked ∨
          ((s.contract l).state = .faulted ∧ (s.captures.get l).held = false) → s.straps.get l ≠ .disabled →
        ∃ t, exec (.restart (r 6)) s = .next t ∧ restarted t ∧ (t.contract l).state = .greeting ∧
          (t.contract l).greetingCount = 0 ∧ (t.contract l).greetingStopped = false ∧
          (t.contract l).timers.greetingDelay = some (s.now + 50)) ∧
      ((s.contract l).state = .faulted → (s.captures.get l).held = false → s.straps.get l = .disabled →
        ∃ t, exec (.restart (r 6)) s = .next t ∧ restarted t ∧ (t.contract l).state = .blocked))

/-- R63, R68, R72, R84, R91, R100: RENEGOTIATE and RECALL; LINE_CTRL rows carry the characters after the action, log 24. A
drawing line selects again, its queries one after another (log 29): it claims, ends in BASELINE, or goes to CHOOSING. Where a
point is forwarded no MENU has just arrived: that the arrival held is this instant, from which the verdict deadline runs 20 ms,
and the tag that of the stored MENU, is the model's choice, log 13, and that the forwarded point stays UNQUERIED with capacity
0 is log 38; that RELAY part 1 sends the stored flag beside absent far fields is log 39; the watch of CHOOSING from ACTIVE is
log 26. The points that a supplying line offers are those of R89, as WritesAreStored gives them. A RECALL while one is outstanding
or in POWERING becomes the pending target, unless the one pending has a level no higher. -/
def Obligations.RenegotiateAndRecallAct : Prop :=
  ∀ (l : Line) (s : State) (num : Byte) (a b : Byte), s.Takes →
    let r := fun (action : Byte) => Req.control action (.line l) num [a, b]
    let asked := a.toNat * 256 + b.toNat
    let gives := fun (t : State) (res : Result) => Host.Outcome.next (σ := State) (φ := Fault) (ρ := Refusal)
      (t.respond ⟨.line l, num, 0x31, res, []⟩)
    let ok : List Response := s.link.responses ++ [⟨.line l, num, 0x31, .ok, []⟩]
    let draws := (s.contract l).role = .draw ∧ ((s.contract l).state = .active ∨
      ((s.contract l).state = .baseline ∧ (s.contract l).farMenu.isSome = true))
    let supplies := (s.contract l).role = .supply ∧ ((s.contract l).state = .offering ∨ (s.contract l).state = .active)
    ((s.contract l).paused = true ∨ (¬draws ∧ ¬supplies) → exec (.renegotiate (r 7)) s = gives s.acting .wrongState) ∧
    ((s.contract l).paused = false → draws → (s.contract l).farMenu = none →
      s.LineSettled l → exec (.renegotiate (r 7)) s = gives s.acting .ok) ∧
    (∀ m, (s.contract l).paused = false → draws → (s.contract l).farMenu = some m → s.LineSettled l →
      let pts := m.points.map FarPoint.point
      (s.NoForward l pts →
        let marks := pts.mapIdx (s.markOf l)
        ∃ t, exec (.renegotiate (r 7)) s = .next t ∧ (t.contract l).farMenu = some ⟨m.raw, marks⟩ ∧
          (∀ k f, s.firstClaim l marks = some (k, f) → ClaimSent l s t k f) ∧
          (s.firstClaim l marks = none → (t.contract l).state = .baseline ∧ (t.contract l).role = .draw ∧
            (t.contract l).lastOutcome = some .noSuitablePoint ∧ (t.contract l).agreement = none ∧
            t.budget.drawCommit.get l = 0 ∧
            HandedOrDropped l s t ⟨(s.contract l).tagCounter, .ending .noSuitablePoint⟩) ∧
          t.link.responses = ok ∧ LineFrame l s t) ∧
      (∀ j p h hs, m.raw = h :: hs → pts[j]? = some p → (s.pointAnswer l p j).action = .forward →
        (∀ i o, i < j → pts[i]? = some o → (s.pointAnswer l o i).action ≠ .forward) →
        let ans := s.pointAnswer l p j
        let tag := s.link.verdictTag
        let marks := pts.mapIdx fun i o => if i < j then s.markOf l i o else ⟨o, .unqueried, 0⟩
        ∃ t, exec (.renegotiate (r 7)) s = .next t ∧
          ForwardOpened l s t .menuPoint .menu (h.extractLsb' 5 3) (s.contract l).state ans
            [tag :: 1 :: BitVec.ofNat 8 ans.rule :: (relayFar (s.contract l).far (s.contract l).farRecall ++ m.raw),
              tag :: 2 :: BitVec.ofNat 8 pts.length ::
                (marks.map fun m => [BitVec.ofNat 8 m.mark.code, BitVec.ofNat 8 (m.capacity / 256),
                  BitVec.ofNat 8 m.capacity]).flatten] ∧
          (t.contract l).state = .choosing ∧ (t.contract l).role = .draw ∧
          (t.contract l).farMenu = some ⟨m.raw, marks⟩ ∧ (t.contract l).agreement = (s.contract l).agreement ∧
          t.link.responses = ok)) ∧
    ((s.contract l).paused = false → supplies → (s.engine l).accepts = true →
      let points := s.menu.toList.filterMap fun e =>
        e.offer (capBy (s.budget.supplyHeadroom + s.budget.supplyCommit.get l) (s.contract l).lineClamp)
      ∃ t, exec (.renegotiate (r 7)) s = .next t ∧ (t.contract l).offered = some ⟨points, points.isEmpty⟩ ∧
        (t.contract l).state = (s.contract l).state ∧ (t.contract l).agreement = (s.contract l).agreement ∧
        (points ≠ [] → Handed l s t ⟨(s.contract l).tagCounter, .menu true points⟩) ∧
        (points = [] → t.engine l = s.engine l) ∧ t.link.responses = ok ∧ LineFrame l s t) ∧
    (320 < asked → exec (.recallRequest (r 8)) s = gives s.acting .badEntry) ∧
    (asked ≤ 320 → ¬((s.contract l).role = .supply ∧ ((s.contract l).state = .active ∨ (s.contract l).state = .powering)) →
      exec (.recallRequest (r 8)) s = gives s.acting .wrongState) ∧
    (asked ≤ 320 → (s.contract l).role = .supply →
      let level := max asked (s.contract l).options.baseline
      ((s.contract l).state = .powering ∨ ((s.contract l).state = .active ∧ (s.contract l).recallOut.isSome = true) →
        exec (.recallRequest (r 8)) s = gives (s.acting.onContract l fun c =>
          { c with target := some (match c.target with
            | some old => if old.level ≤ level then old else ⟨level, .controller⟩
            | none => ⟨level, .controller⟩) }) .ok) ∧
      (∀ ag, (s.contract l).state = .active → (s.contract l).recallOut = none → (s.contract l).agreement = some ag →
        (ag.current ≤ level → exec (.recallRequest (r 8)) s = gives s.acting .ok) ∧
        (level < ag.current → s.MaySend l →
          ∃ t, exec (.recallRequest (r 8)) s = .next t ∧ (t.contract l).recallOut = some ⟨level, none, .controller⟩ ∧
            (t.contract l).agreement = some ag ∧ Handed l s t ⟨(s.contract l).tagCounter, .recall level 10⟩ ∧
            t.link.responses = ok ∧ LineFrame l s t)))

/-! ### Verdicts -/

/-- R49, R69, R93, R95, R96, R117, R146, R164, R165: a VERDICT for no entry, with another tag, or of a decision the entry's kind
does not take; AUTO and REFUSE of an ANNOUNCE and of a MENU; AUTO, DENY and WAIT of a CLAIM, whose grant reports the cap event of
a capped line without allowance (log 9); and the deadline of an entry, whose fallback is applied to what the decision slot
holds; the receiver by log 22, the deadline by log 2. The CLAIM that a MENU leads to waits behind a request outstanding (R32;
log 12 for one that it displaces). A CHOOSE on a MENU is ChooseAndGrantAreCarriedOut. -/
def Obligations.VerdictsAreApplied : Prop :=
  ∀ (l : Line) (s : State) (vtag point : Byte) (value : BitVec 16),
    let c := s.contract l
    let v := fun (decision : Byte) => VerdictReq.framed decision (.line l) vtag point value
    let gives := fun (t : State) (res : Result) => Host.Outcome.next (σ := State) (φ := Fault) (ρ := Refusal)
      (t.respond ⟨.line l, vtag, 0x00, res, []⟩)
    (s.Takes → (∀ e, s.verdictOf l = some e → e.tag ≠ vtag) → ∀ c ∈ [Instr.verdictAuto (v 0), .verdictRefuse (v 1),
      .verdictChoose (v 2), .verdictGrant (v 3), .verdictDeny (v 4), .verdictWait (v 5)],
      exec c s = gives s.acting .unknownTag) ∧
    (∀ e, s.verdictOf l = some e → VerdictsDistinct s.link.verdicts → s.LineSettled l →
      (s.Takes → e.tag = vtag →
        (∀ code, 5 < code.toNat → exec (.verdictUnassigned code (v code)) s = gives s.acting .badRequest) ∧
        (e.kind = .claim → exec (.verdictRefuse (v 1)) s = gives s.acting .badRequest) ∧
        (e.kind = .claim ∨ e.kind = .announce → exec (.verdictChoose (v 2)) s = gives s.acting .badRequest) ∧
        (e.kind ≠ .claim → exec (.verdictDeny (v 4)) s = gives s.acting .badRequest ∧
          exec (.verdictWait (v 5)) s = gives s.acting .badRequest ∧
          exec (.verdictGrant (v 3)) s = gives s.acting .badRequest)) ∧
      (∀ (d : Decision) (i : Instr) (act : Action) (more : List Response), c.decision = some d →
        (s.Takes ∧ e.tag = vtag ∧ more = [⟨.line l, vtag, 0x00, .accepted, []⟩] ∧
            ((i = .verdictAuto (v 0) ∧ act = .auto) ∨ (i = .verdictRefuse (v 1) ∧ act = .refuse ∧ e.kind ≠ .claim) ∨
              (i = .verdictDeny (v 4) ∧ act = .refuse ∧ e.kind = .claim) ∨
              (i = .verdictWait (v 5) ∧ act = .wait ∧ e.kind = .claim))) ∨
          (i = .verdictDeadline l ∧ act = e.fallback ∧ act ≠ .forward ∧ more = [] ∧
            (s.now - e.deadline).toNat < 2147483648) →
        let done := fun (t : State) => (t.contract l).decision = none ∧ t.verdictOf l = none ∧
          t.link.responses = s.link.responses ++ more ∧ LineFrame l s t
        (∀ answering far, d.what = .announce answering → e.kind = .announce → c.state = .greeting → c.far = some far →
          (s.engine l).accepts = true →
          (act = .auto ∨ act = .clamp → ∃ t, exec i s = .next t ∧ done t ∧
            RoleDecided l s t answering far.cls (if act = .clamp then some e.clamp else c.lineClamp)) ∧
          (act = .refuse → ∃ t, exec i s = .next t ∧ done t ∧ ClosedTo l s t .blocked .none (some .refused) ∧
            Handed l s t ⟨c.tagCounter, .ending .refused⟩) ∧
          (act = .wait → ∃ t, exec i s = .next t ∧ done t ∧ t.contract l = { c with decision := none } ∧
            t.engine l = s.engine l ∧ t.budget = s.budget)) ∧
        (∀ m, d.what = .menu → e.kind = .menuPoint → c.state = .choosing → c.farMenu = some m →
          ∃ t, exec i s = .next t ∧ done t ∧
            Selected l s t m.raw (m.points.map fun p => markedBy act e.clamp c.lineClamp p.point) ∧
            (act = .refuse ∨ act = .wait → (t.contract l).state = .baseline)) ∧
        (∀ f, d.what = .claim f → e.kind = .claim → c.state = .deciding ∨ (c.state = .active ∧ c.role = .supply) →
          (s.engine l).accepts = true →
          let back := fun (t : State) => done t ∧ t.budget = s.budget ∧ (t.contract l).agreement = c.agreement ∧
            (t.contract l).state = (if c.state = .deciding then .offering else .active) ∧
            (t.channel l).command = (s.channel l).command
          let room := capBy (s.budget.supplyHeadroom + s.budget.supplyCommit.get l) c.lineClamp
          let g := f.claimOfRoom (if act = .clamp then min room e.clamp else room)
          let may := c.recallOut = none ∧ c.target = none ∧ 1 ≤ g ∧ f.least ≤ g
          (act = .auto ∨ act = .clamp →
            (may → ∃ t, exec i s = .next t ∧ done t ∧ GrantGiven l s t d.tag f g) ∧
            (¬may → ∃ t, exec i s = .next t ∧ back t ∧ Handed l s t ⟨d.tag, .wait 50⟩)) ∧
          (act = .refuse → ∃ t, exec i s = .next t ∧ back t ∧ Handed l s t ⟨d.tag, .deny .policy⟩) ∧
          (act = .wait → ∃ t, exec i s = .next t ∧ back t ∧ Handed l s t ⟨d.tag, .wait 50⟩))))

/-- R32, R69, R71, R72, R73, R86, R93, R95, R96, R146, R164: VERDICT_CHOOSE claims its point under the first preference that the
point suits, its CLAIM behind a request outstanding (log 12 for one that it displaces), or ends the line with NO_SUITABLE_POINT:
where the point is STRUCK, no preference suits it, the claim power is under that preference's least power, or the currents of the
claim are 0 or below their least (log 16). VERDICT_GRANT grants a CLAIM no more than its value, its claimed current and the
headroom, and reports the cap event of a capped line without allowance (log 9). A CHOOSE of a point off the menu or of more than
2500, and a GRANT of more than 320, are refused. The point whose query was answered FORWARD is UNQUERIED (log 38). -/
def Obligations.ChooseAndGrantAreCarriedOut : Prop :=
  ∀ (l : Line) (s : State) (vtag point : Byte) (value : BitVec 16) (e : VerdictEntry), s.Takes → s.verdictOf l = some e →
    e.tag = vtag → VerdictsDistinct s.link.verdicts → s.LineSettled l →
    let v := fun (decision : Byte) => VerdictReq.framed decision (.line l) vtag point value
    let answered := fun (t : State) (res : Result) =>
      t.link.responses = s.link.responses ++ [⟨.line l, vtag, 0x00, res, []⟩] ∧ (t.contract l).decision = none ∧
      t.verdictOf l = none ∧ LineFrame l s t
    let refused := Host.Outcome.next (σ := State) (φ := Fault) (ρ := Refusal)
      (s.acting.respond ⟨.line l, vtag, 0x00, .badRequest, []⟩)
    (∀ m tag arrival began, e.kind = .menuPoint → (s.contract l).state = .choosing →
      (s.contract l).decision = some ⟨.menu, tag, arrival, began⟩ → (s.contract l).farMenu = some m →
      (m.points.length ≤ point.toNat ∨ 2500 < value.toNat → exec (.verdictChoose (v 2)) s = refused) ∧
      (∀ fp, m.points[point.toNat]? = some fp → value.toNat ≤ 2500 →
        let ended := ∃ t, exec (.verdictChoose (v 2)) s = .next t ∧ (t.contract l).state = .baseline ∧
          (t.contract l).role = .draw ∧ (t.contract l).agreement = none ∧ t.budget.drawCommit.get l = 0 ∧
          (t.contract l).lastOutcome = some .noSuitablePoint ∧ (t.contract l).farMenu = some m ∧
          HandedOrDropped l s t ⟨(s.contract l).tagCounter, .ending .noSuitablePoint⟩ ∧ answered t .adjusted
        (∀ (i : Fin 8) (cap volts : Nat),
          (fp.mark = .survives ∧ cap = fp.capacity) ∨
            (fp.mark = .unqueried ∧ cap = capBy fp.point.rawCapacity (s.contract l).lineClamp) →
          (s.prefs.get i).enabled = true → (s.prefs.get i).suits fp.point = some volts →
          (∀ j : Fin 8, j < i → (s.prefs.get j).enabled = false ∨ (s.prefs.get j).suits fp.point = none) →
          let commitment := max (((s.contract l).agreement.map fun a => a.voltage * a.current / 200).getD 0)
            (((s.contract l).claim.map fun o => o.fields.voltage * o.fields.claimed / 200).getD 0)
          let p := min value.toNat (min cap (s.budget.drawHeadroom + commitment))
          let claimed := min 320 (p * 200 / volts)
          let least := min 320 (max 1 ((s.prefs.get i).least * 200 / volts))
          ((s.prefs.get i).least ≤ p → 1 ≤ claimed → least ≤ claimed →
            ∃ t, exec (.verdictChoose (v 2)) s = .next t ∧
              ClaimSent l s t ⟨i.val, point.toNat⟩ ⟨point.toNat, volts, claimed, least⟩ ∧
              answered t (if p < value.toNat then .adjusted else .accepted)) ∧
          (p < (s.prefs.get i).least ∨ claimed = 0 ∨ claimed < least → ended)) ∧
        (fp.mark = .struck ∨
          (∀ i : Fin 8, (s.prefs.get i).enabled = false ∨ (s.prefs.get i).suits fp.point = none) → ended))) ∧
    (∀ f tag arrival began, e.kind = .claim →
      (s.contract l).state = .deciding ∨ ((s.contract l).state = .active ∧ (s.contract l).role = .supply) →
      (s.contract l).decision = some ⟨.claim f, tag, arrival, began⟩ →
      (320 < value.toNat → exec (.verdictGrant (v 3)) s = refused) ∧
      (value.toNat ≤ 320 → (s.engine l).accepts = true →
        let room := capBy (s.budget.supplyHeadroom + s.budget.supplyCommit.get l) (s.contract l).lineClamp
        let g := min value.toNat (f.claimOfRoom room)
        let may := (s.contract l).recallOut = none ∧ (s.contract l).target = none ∧ 1 ≤ g ∧ f.least ≤ g
        (may → ∃ t, exec (.verdictGrant (v 3)) s = .next t ∧ GrantGiven l s t tag f g ∧
          answered t (if g = value.toNat then .accepted else .adjusted)) ∧
        (¬may → ∃ t, exec (.verdictGrant (v 3)) s = .next t ∧
          (t.contract l).state = (if (s.contract l).state = .deciding then .offering else .active) ∧
          (t.contract l).agreement = (s.contract l).agreement ∧ t.budget = s.budget ∧ Handed l s t ⟨tag, .wait 50⟩ ∧
          answered t .adjusted)))
end

