-- ==== Sys2Proof/Laws/State.lean ====
section
/-! SUPPORT. The small lemmas of State: what each basic update leaves alone, what a line reads after it, and the laws of the
four-line record. -/

namespace Sys2Proof

set_option Elab.async false

@[simp] theorem Four.get_set_self {α : Type} (x : Four α) (l : Line) (a : α) : (x.set l a).get l = a := by
  cases l <;> rfl

@[simp] theorem Four.get_set_of_ne {α : Type} (x : Four α) {l m : Line} (a : α) (h : m ≠ l) :
    (x.set l a).get m = x.get m := by
  cases l <;> cases m <;> first | rfl | exact absurd rfl h

theorem Four.get_set {α : Type} (x : Four α) (l m : Line) (a : α) :
    (x.set l a).get m = if m = l then a else x.get m := by
  cases l <;> cases m <;> rfl

@[simp] theorem Four.get_all {α : Type} (a : α) (l : Line) : (Four.all a).get l = a := by cases l <;> rfl

@[simp] theorem Four.get_map {α β : Type} (f : α → β) (x : Four α) (l : Line) : (x.map f).get l = f (x.get l) := by
  cases l <;> rfl

theorem Four.ext_get {α : Type} {x y : Four α} (h : ∀ l, x.get l = y.get l) : x = y := by
  cases x; cases y
  have h0 := h .l0
  have h1 := h .l1
  have h2 := h .l2
  have h3 := h .l3
  simp only [Four.get] at h0 h1 h2 h3
  subst h0 h1 h2 h3
  rfl

/-- Only the last of two changes of a line stands. -/
theorem Four.set_set {α : Type} (x : Four α) (l : Line) (a b : α) : (x.set l a).set l b = x.set l b := by cases l <;> rfl

@[simp] theorem Four.set_get {α : Type} (x : Four α) (l : Line) : x.set l (x.get l) = x := by cases l <;> rfl

namespace Machine

variable (s : State)

@[simp] theorem State.onEngine_pending (l : Line) (f : LineEngine → LineEngine) : (s.onEngine l f).pending = s.pending := rfl
@[simp] theorem State.onEngine_now (l : Line) (f : LineEngine → LineEngine) : (s.onEngine l f).now = s.now := rfl
@[simp] theorem State.onEngine_straps (l : Line) (f : LineEngine → LineEngine) : (s.onEngine l f).straps = s.straps := rfl
@[simp] theorem State.onEngine_contracts (l : Line) (f : LineEngine → LineEngine) : (s.onEngine l f).contracts = s.contracts := rfl
@[simp] theorem State.onEngine_rules (l : Line) (f : LineEngine → LineEngine) : (s.onEngine l f).rules = s.rules := rfl
@[simp] theorem State.onEngine_prefs (l : Line) (f : LineEngine → LineEngine) : (s.onEngine l f).prefs = s.prefs := rfl
@[simp] theorem State.onEngine_menu (l : Line) (f : LineEngine → LineEngine) : (s.onEngine l f).menu = s.menu := rfl
@[simp] theorem State.onEngine_budget (l : Line) (f : LineEngine → LineEngine) : (s.onEngine l f).budget = s.budget := rfl
@[simp] theorem State.onEngine_channels (l : Line) (f : LineEngine → LineEngine) : (s.onEngine l f).channels = s.channels := rfl
@[simp] theorem State.onEngine_captures (l : Line) (f : LineEngine → LineEngine) : (s.onEngine l f).captures = s.captures := rfl
@[simp] theorem State.onEngine_strikes (l : Line) (f : LineEngine → LineEngine) : (s.onEngine l f).strikes = s.strikes := rfl
@[simp] theorem State.onEngine_link (l : Line) (f : LineEngine → LineEngine) : (s.onEngine l f).link = s.link := rfl
@[simp] theorem State.onEngine_freeCount (l : Line) (f : LineEngine → LineEngine) : (s.onEngine l f).freeCount = s.freeCount := rfl

@[simp] theorem State.onContract_pending (l : Line) (f : Contract → Contract) : (s.onContract l f).pending = s.pending := rfl
@[simp] theorem State.onContract_now (l : Line) (f : Contract → Contract) : (s.onContract l f).now = s.now := rfl
@[simp] theorem State.onContract_straps (l : Line) (f : Contract → Contract) : (s.onContract l f).straps = s.straps := rfl
@[simp] theorem State.onContract_engines (l : Line) (f : Contract → Contract) : (s.onContract l f).engines = s.engines := rfl
@[simp] theorem State.onContract_rules (l : Line) (f : Contract → Contract) : (s.onContract l f).rules = s.rules := rfl
@[simp] theorem State.onContract_prefs (l : Line) (f : Contract → Contract) : (s.onContract l f).prefs = s.prefs := rfl
@[simp] theorem State.onContract_menu (l : Line) (f : Contract → Contract) : (s.onContract l f).menu = s.menu := rfl
@[simp] theorem State.onContract_budget (l : Line) (f : Contract → Contract) : (s.onContract l f).budget = s.budget := rfl
@[simp] theorem State.onContract_channels (l : Line) (f : Contract → Contract) : (s.onContract l f).channels = s.channels := rfl
@[simp] theorem State.onContract_captures (l : Line) (f : Contract → Contract) : (s.onContract l f).captures = s.captures := rfl
@[simp] theorem State.onContract_strikes (l : Line) (f : Contract → Contract) : (s.onContract l f).strikes = s.strikes := rfl
@[simp] theorem State.onContract_link (l : Line) (f : Contract → Contract) : (s.onContract l f).link = s.link := rfl
@[simp] theorem State.onContract_freeCount (l : Line) (f : Contract → Contract) : (s.onContract l f).freeCount = s.freeCount := rfl

@[simp] theorem State.onChannel_pending (l : Line) (f : Channel → Channel) : (s.onChannel l f).pending = s.pending := rfl
@[simp] theorem State.onChannel_now (l : Line) (f : Channel → Channel) : (s.onChannel l f).now = s.now := rfl
@[simp] theorem State.onChannel_straps (l : Line) (f : Channel → Channel) : (s.onChannel l f).straps = s.straps := rfl
@[simp] theorem State.onChannel_engines (l : Line) (f : Channel → Channel) : (s.onChannel l f).engines = s.engines := rfl
@[simp] theorem State.onChannel_contracts (l : Line) (f : Channel → Channel) : (s.onChannel l f).contracts = s.contracts := rfl
@[simp] theorem State.onChannel_rules (l : Line) (f : Channel → Channel) : (s.onChannel l f).rules = s.rules := rfl
@[simp] theorem State.onChannel_prefs (l : Line) (f : Channel → Channel) : (s.onChannel l f).prefs = s.prefs := rfl
@[simp] theorem State.onChannel_menu (l : Line) (f : Channel → Channel) : (s.onChannel l f).menu = s.menu := rfl
@[simp] theorem State.onChannel_budget (l : Line) (f : Channel → Channel) : (s.onChannel l f).budget = s.budget := rfl
@[simp] theorem State.onChannel_captures (l : Line) (f : Channel → Channel) : (s.onChannel l f).captures = s.captures := rfl
@[simp] theorem State.onChannel_strikes (l : Line) (f : Channel → Channel) : (s.onChannel l f).strikes = s.strikes := rfl
@[simp] theorem State.onChannel_link (l : Line) (f : Channel → Channel) : (s.onChannel l f).link = s.link := rfl
@[simp] theorem State.onChannel_freeCount (l : Line) (f : Channel → Channel) : (s.onChannel l f).freeCount = s.freeCount := rfl

@[simp] theorem State.onHealth_pending (l : Line) (f : Health → Health) : (s.onHealth l f).pending = s.pending := rfl
@[simp] theorem State.onHealth_now (l : Line) (f : Health → Health) : (s.onHealth l f).now = s.now := rfl
@[simp] theorem State.onHealth_straps (l : Line) (f : Health → Health) : (s.onHealth l f).straps = s.straps := rfl
@[simp] theorem State.onHealth_contracts (l : Line) (f : Health → Health) : (s.onHealth l f).contracts = s.contracts := rfl
@[simp] theorem State.onHealth_rules (l : Line) (f : Health → Health) : (s.onHealth l f).rules = s.rules := rfl
@[simp] theorem State.onHealth_prefs (l : Line) (f : Health → Health) : (s.onHealth l f).prefs = s.prefs := rfl
@[simp] theorem State.onHealth_menu (l : Line) (f : Health → Health) : (s.onHealth l f).menu = s.menu := rfl
@[simp] theorem State.onHealth_budget (l : Line) (f : Health → Health) : (s.onHealth l f).budget = s.budget := rfl
@[simp] theorem State.onHealth_channels (l : Line) (f : Health → Health) : (s.onHealth l f).channels = s.channels := rfl
@[simp] theorem State.onHealth_captures (l : Line) (f : Health → Health) : (s.onHealth l f).captures = s.captures := rfl
@[simp] theorem State.onHealth_strikes (l : Line) (f : Health → Health) : (s.onHealth l f).strikes = s.strikes := rfl
@[simp] theorem State.onHealth_link (l : Line) (f : Health → Health) : (s.onHealth l f).link = s.link := rfl
@[simp] theorem State.onHealth_freeCount (l : Line) (f : Health → Health) : (s.onHealth l f).freeCount = s.freeCount := rfl

@[simp] theorem State.onLink_pending (f : LinkUnit → LinkUnit) : (s.onLink f).pending = s.pending := rfl
@[simp] theorem State.onLink_now (f : LinkUnit → LinkUnit) : (s.onLink f).now = s.now := rfl
@[simp] theorem State.onLink_straps (f : LinkUnit → LinkUnit) : (s.onLink f).straps = s.straps := rfl
@[simp] theorem State.onLink_engines (f : LinkUnit → LinkUnit) : (s.onLink f).engines = s.engines := rfl
@[simp] theorem State.onLink_contracts (f : LinkUnit → LinkUnit) : (s.onLink f).contracts = s.contracts := rfl
@[simp] theorem State.onLink_rules (f : LinkUnit → LinkUnit) : (s.onLink f).rules = s.rules := rfl
@[simp] theorem State.onLink_prefs (f : LinkUnit → LinkUnit) : (s.onLink f).prefs = s.prefs := rfl
@[simp] theorem State.onLink_menu (f : LinkUnit → LinkUnit) : (s.onLink f).menu = s.menu := rfl
@[simp] theorem State.onLink_budget (f : LinkUnit → LinkUnit) : (s.onLink f).budget = s.budget := rfl
@[simp] theorem State.onLink_channels (f : LinkUnit → LinkUnit) : (s.onLink f).channels = s.channels := rfl
@[simp] theorem State.onLink_captures (f : LinkUnit → LinkUnit) : (s.onLink f).captures = s.captures := rfl
@[simp] theorem State.onLink_strikes (f : LinkUnit → LinkUnit) : (s.onLink f).strikes = s.strikes := rfl
@[simp] theorem State.onLink_freeCount (f : LinkUnit → LinkUnit) : (s.onLink f).freeCount = s.freeCount := rfl

@[simp] theorem State.clearStrikes_pending (l : Line) : (s.clearStrikes l).pending = s.pending := rfl
@[simp] theorem State.clearStrikes_now (l : Line) : (s.clearStrikes l).now = s.now := rfl
@[simp] theorem State.clearStrikes_straps (l : Line) : (s.clearStrikes l).straps = s.straps := rfl
@[simp] theorem State.clearStrikes_engines (l : Line) : (s.clearStrikes l).engines = s.engines := rfl
@[simp] theorem State.clearStrikes_contracts (l : Line) : (s.clearStrikes l).contracts = s.contracts := rfl
@[simp] theorem State.clearStrikes_rules (l : Line) : (s.clearStrikes l).rules = s.rules := rfl
@[simp] theorem State.clearStrikes_prefs (l : Line) : (s.clearStrikes l).prefs = s.prefs := rfl
@[simp] theorem State.clearStrikes_menu (l : Line) : (s.clearStrikes l).menu = s.menu := rfl
@[simp] theorem State.clearStrikes_budget (l : Line) : (s.clearStrikes l).budget = s.budget := rfl
@[simp] theorem State.clearStrikes_channels (l : Line) : (s.clearStrikes l).channels = s.channels := rfl
@[simp] theorem State.clearStrikes_captures (l : Line) : (s.clearStrikes l).captures = s.captures := rfl
@[simp] theorem State.clearStrikes_link (l : Line) : (s.clearStrikes l).link = s.link := rfl
@[simp] theorem State.clearStrikes_freeCount (l : Line) : (s.clearStrikes l).freeCount = s.freeCount := rfl

@[simp] theorem State.hand_pending (l : Line) (f : Frame) : (s.hand l f).pending = s.pending := rfl
@[simp] theorem State.hand_now (l : Line) (f : Frame) : (s.hand l f).now = s.now := rfl
@[simp] theorem State.hand_straps (l : Line) (f : Frame) : (s.hand l f).straps = s.straps := rfl
@[simp] theorem State.hand_contracts (l : Line) (f : Frame) : (s.hand l f).contracts = s.contracts := rfl
@[simp] theorem State.hand_rules (l : Line) (f : Frame) : (s.hand l f).rules = s.rules := rfl
@[simp] theorem State.hand_prefs (l : Line) (f : Frame) : (s.hand l f).prefs = s.prefs := rfl
@[simp] theorem State.hand_menu (l : Line) (f : Frame) : (s.hand l f).menu = s.menu := rfl
@[simp] theorem State.hand_budget (l : Line) (f : Frame) : (s.hand l f).budget = s.budget := rfl
@[simp] theorem State.hand_channels (l : Line) (f : Frame) : (s.hand l f).channels = s.channels := rfl
@[simp] theorem State.hand_captures (l : Line) (f : Frame) : (s.hand l f).captures = s.captures := rfl
@[simp] theorem State.hand_strikes (l : Line) (f : Frame) : (s.hand l f).strikes = s.strikes := rfl
@[simp] theorem State.hand_link (l : Line) (f : Frame) : (s.hand l f).link = s.link := rfl
@[simp] theorem State.hand_freeCount (l : Line) (f : Frame) : (s.hand l f).freeCount = s.freeCount := rfl

@[simp] theorem State.stepTag_pending (l : Line) : (s.stepTag l).pending = s.pending := rfl
@[simp] theorem State.stepTag_now (l : Line) : (s.stepTag l).now = s.now := rfl
@[simp] theorem State.stepTag_straps (l : Line) : (s.stepTag l).straps = s.straps := rfl
@[simp] theorem State.stepTag_engines (l : Line) : (s.stepTag l).engines = s.engines := rfl
@[simp] theorem State.stepTag_rules (l : Line) : (s.stepTag l).rules = s.rules := rfl
@[simp] theorem State.stepTag_prefs (l : Line) : (s.stepTag l).prefs = s.prefs := rfl
@[simp] theorem State.stepTag_menu (l : Line) : (s.stepTag l).menu = s.menu := rfl
@[simp] theorem State.stepTag_budget (l : Line) : (s.stepTag l).budget = s.budget := rfl
@[simp] theorem State.stepTag_channels (l : Line) : (s.stepTag l).channels = s.channels := rfl
@[simp] theorem State.stepTag_captures (l : Line) : (s.stepTag l).captures = s.captures := rfl
@[simp] theorem State.stepTag_strikes (l : Line) : (s.stepTag l).strikes = s.strikes := rfl
@[simp] theorem State.stepTag_link (l : Line) : (s.stepTag l).link = s.link := rfl
@[simp] theorem State.stepTag_freeCount (l : Line) : (s.stepTag l).freeCount = s.freeCount := rfl

@[simp] theorem State.command_pending (l : Line) (cmd : PathCommand) : (s.command l cmd).pending = s.pending := rfl
@[simp] theorem State.command_now (l : Line) (cmd : PathCommand) : (s.command l cmd).now = s.now := rfl
@[simp] theorem State.command_straps (l : Line) (cmd : PathCommand) : (s.command l cmd).straps = s.straps := rfl
@[simp] theorem State.command_engines (l : Line) (cmd : PathCommand) : (s.command l cmd).engines = s.engines := rfl
@[simp] theorem State.command_contracts (l : Line) (cmd : PathCommand) : (s.command l cmd).contracts = s.contracts := rfl
@[simp] theorem State.command_rules (l : Line) (cmd : PathCommand) : (s.command l cmd).rules = s.rules := rfl
@[simp] theorem State.command_prefs (l : Line) (cmd : PathCommand) : (s.command l cmd).prefs = s.prefs := rfl
@[simp] theorem State.command_menu (l : Line) (cmd : PathCommand) : (s.command l cmd).menu = s.menu := rfl
@[simp] theorem State.command_budget (l : Line) (cmd : PathCommand) : (s.command l cmd).budget = s.budget := rfl
@[simp] theorem State.command_captures (l : Line) (cmd : PathCommand) : (s.command l cmd).captures = s.captures := rfl
@[simp] theorem State.command_strikes (l : Line) (cmd : PathCommand) : (s.command l cmd).strikes = s.strikes := rfl
@[simp] theorem State.command_link (l : Line) (cmd : PathCommand) : (s.command l cmd).link = s.link := rfl
@[simp] theorem State.command_freeCount (l : Line) (cmd : PathCommand) : (s.command l cmd).freeCount = s.freeCount := rfl

@[simp] theorem State.raise_pending (src : Source) (body : NoticeBody) : (s.raise src body).pending = s.pending := rfl
@[simp] theorem State.raise_now (src : Source) (body : NoticeBody) : (s.raise src body).now = s.now := rfl
@[simp] theorem State.raise_straps (src : Source) (body : NoticeBody) : (s.raise src body).straps = s.straps := rfl
@[simp] theorem State.raise_engines (src : Source) (body : NoticeBody) : (s.raise src body).engines = s.engines := rfl
@[simp] theorem State.raise_contracts (src : Source) (body : NoticeBody) : (s.raise src body).contracts = s.contracts := rfl
@[simp] theorem State.raise_rules (src : Source) (body : NoticeBody) : (s.raise src body).rules = s.rules := rfl
@[simp] theorem State.raise_prefs (src : Source) (body : NoticeBody) : (s.raise src body).prefs = s.prefs := rfl
@[simp] theorem State.raise_menu (src : Source) (body : NoticeBody) : (s.raise src body).menu = s.menu := rfl
@[simp] theorem State.raise_budget (src : Source) (body : NoticeBody) : (s.raise src body).budget = s.budget := rfl
@[simp] theorem State.raise_channels (src : Source) (body : NoticeBody) : (s.raise src body).channels = s.channels := rfl
@[simp] theorem State.raise_captures (src : Source) (body : NoticeBody) : (s.raise src body).captures = s.captures := rfl
@[simp] theorem State.raise_strikes (src : Source) (body : NoticeBody) : (s.raise src body).strikes = s.strikes := rfl
@[simp] theorem State.raise_freeCount (src : Source) (body : NoticeBody) : (s.raise src body).freeCount = s.freeCount := rfl

@[simp] theorem State.dropVerdict_pending (l : Line) : (s.dropVerdict l).pending = s.pending := rfl
@[simp] theorem State.dropVerdict_now (l : Line) : (s.dropVerdict l).now = s.now := rfl
@[simp] theorem State.dropVerdict_straps (l : Line) : (s.dropVerdict l).straps = s.straps := rfl
@[simp] theorem State.dropVerdict_engines (l : Line) : (s.dropVerdict l).engines = s.engines := rfl
@[simp] theorem State.dropVerdict_contracts (l : Line) : (s.dropVerdict l).contracts = s.contracts := rfl
@[simp] theorem State.dropVerdict_rules (l : Line) : (s.dropVerdict l).rules = s.rules := rfl
@[simp] theorem State.dropVerdict_prefs (l : Line) : (s.dropVerdict l).prefs = s.prefs := rfl
@[simp] theorem State.dropVerdict_menu (l : Line) : (s.dropVerdict l).menu = s.menu := rfl
@[simp] theorem State.dropVerdict_budget (l : Line) : (s.dropVerdict l).budget = s.budget := rfl
@[simp] theorem State.dropVerdict_channels (l : Line) : (s.dropVerdict l).channels = s.channels := rfl
@[simp] theorem State.dropVerdict_captures (l : Line) : (s.dropVerdict l).captures = s.captures := rfl
@[simp] theorem State.dropVerdict_strikes (l : Line) : (s.dropVerdict l).strikes = s.strikes := rfl
@[simp] theorem State.dropVerdict_freeCount (l : Line) : (s.dropVerdict l).freeCount = s.freeCount := rfl

@[simp] theorem State.enter_pending (l : Line) (st : CState) : (s.enter l st).pending = s.pending := rfl
@[simp] theorem State.enter_now (l : Line) (st : CState) : (s.enter l st).now = s.now := rfl
@[simp] theorem State.enter_straps (l : Line) (st : CState) : (s.enter l st).straps = s.straps := rfl
@[simp] theorem State.enter_engines (l : Line) (st : CState) : (s.enter l st).engines = s.engines := rfl
@[simp] theorem State.enter_rules (l : Line) (st : CState) : (s.enter l st).rules = s.rules := rfl
@[simp] theorem State.enter_prefs (l : Line) (st : CState) : (s.enter l st).prefs = s.prefs := rfl
@[simp] theorem State.enter_menu (l : Line) (st : CState) : (s.enter l st).menu = s.menu := rfl
@[simp] theorem State.enter_budget (l : Line) (st : CState) : (s.enter l st).budget = s.budget := rfl
@[simp] theorem State.enter_channels (l : Line) (st : CState) : (s.enter l st).channels = s.channels := rfl
@[simp] theorem State.enter_captures (l : Line) (st : CState) : (s.enter l st).captures = s.captures := rfl
@[simp] theorem State.enter_strikes (l : Line) (st : CState) : (s.enter l st).strikes = s.strikes := rfl
@[simp] theorem State.enter_link (l : Line) (st : CState) : (s.enter l st).link = s.link := rfl
@[simp] theorem State.enter_freeCount (l : Line) (st : CState) : (s.enter l st).freeCount = s.freeCount := rfl

@[simp] theorem State.record_pending (l : Line) (o : Outcome) : (s.record l o).pending = s.pending := rfl
@[simp] theorem State.record_now (l : Line) (o : Outcome) : (s.record l o).now = s.now := rfl
@[simp] theorem State.record_straps (l : Line) (o : Outcome) : (s.record l o).straps = s.straps := rfl
@[simp] theorem State.record_engines (l : Line) (o : Outcome) : (s.record l o).engines = s.engines := rfl
@[simp] theorem State.record_rules (l : Line) (o : Outcome) : (s.record l o).rules = s.rules := rfl
@[simp] theorem State.record_prefs (l : Line) (o : Outcome) : (s.record l o).prefs = s.prefs := rfl
@[simp] theorem State.record_menu (l : Line) (o : Outcome) : (s.record l o).menu = s.menu := rfl
@[simp] theorem State.record_budget (l : Line) (o : Outcome) : (s.record l o).budget = s.budget := rfl
@[simp] theorem State.record_channels (l : Line) (o : Outcome) : (s.record l o).channels = s.channels := rfl
@[simp] theorem State.record_captures (l : Line) (o : Outcome) : (s.record l o).captures = s.captures := rfl
@[simp] theorem State.record_strikes (l : Line) (o : Outcome) : (s.record l o).strikes = s.strikes := rfl
@[simp] theorem State.record_link (l : Line) (o : Outcome) : (s.record l o).link = s.link := rfl
@[simp] theorem State.record_freeCount (l : Line) (o : Outcome) : (s.record l o).freeCount = s.freeCount := rfl

@[simp] theorem State.closeExchange_pending (l : Line) : (s.closeExchange l).pending = s.pending := rfl
@[simp] theorem State.closeExchange_now (l : Line) : (s.closeExchange l).now = s.now := rfl
@[simp] theorem State.closeExchange_straps (l : Line) : (s.closeExchange l).straps = s.straps := rfl
@[simp] theorem State.closeExchange_engines (l : Line) : (s.closeExchange l).engines = s.engines := rfl
@[simp] theorem State.closeExchange_rules (l : Line) : (s.closeExchange l).rules = s.rules := rfl
@[simp] theorem State.closeExchange_prefs (l : Line) : (s.closeExchange l).prefs = s.prefs := rfl
@[simp] theorem State.closeExchange_menu (l : Line) : (s.closeExchange l).menu = s.menu := rfl
@[simp] theorem State.closeExchange_budget (l : Line) : (s.closeExchange l).budget = s.budget := rfl
@[simp] theorem State.closeExchange_channels (l : Line) : (s.closeExchange l).channels = s.channels := rfl
@[simp] theorem State.closeExchange_captures (l : Line) : (s.closeExchange l).captures = s.captures := rfl
@[simp] theorem State.closeExchange_strikes (l : Line) : (s.closeExchange l).strikes = s.strikes := rfl
@[simp] theorem State.closeExchange_link (l : Line) : (s.closeExchange l).link = s.link := rfl
@[simp] theorem State.closeExchange_freeCount (l : Line) : (s.closeExchange l).freeCount = s.freeCount := rfl

@[simp] theorem State.respond_pending (r : Response) : (s.respond r).pending = s.pending := rfl
@[simp] theorem State.respond_now (r : Response) : (s.respond r).now = s.now := rfl
@[simp] theorem State.respond_straps (r : Response) : (s.respond r).straps = s.straps := rfl
@[simp] theorem State.respond_engines (r : Response) : (s.respond r).engines = s.engines := rfl
@[simp] theorem State.respond_contracts (r : Response) : (s.respond r).contracts = s.contracts := rfl
@[simp] theorem State.respond_rules (r : Response) : (s.respond r).rules = s.rules := rfl
@[simp] theorem State.respond_prefs (r : Response) : (s.respond r).prefs = s.prefs := rfl
@[simp] theorem State.respond_menu (r : Response) : (s.respond r).menu = s.menu := rfl
@[simp] theorem State.respond_budget (r : Response) : (s.respond r).budget = s.budget := rfl
@[simp] theorem State.respond_channels (r : Response) : (s.respond r).channels = s.channels := rfl
@[simp] theorem State.respond_captures (r : Response) : (s.respond r).captures = s.captures := rfl
@[simp] theorem State.respond_strikes (r : Response) : (s.respond r).strikes = s.strikes := rfl
@[simp] theorem State.respond_freeCount (r : Response) : (s.respond r).freeCount = s.freeCount := rfl

@[simp] theorem State.stray_pending (l : Line) : (s.stray l).pending = s.pending := rfl
@[simp] theorem State.stray_now (l : Line) : (s.stray l).now = s.now := rfl
@[simp] theorem State.stray_straps (l : Line) : (s.stray l).straps = s.straps := rfl
@[simp] theorem State.stray_contracts (l : Line) : (s.stray l).contracts = s.contracts := rfl
@[simp] theorem State.stray_rules (l : Line) : (s.stray l).rules = s.rules := rfl
@[simp] theorem State.stray_prefs (l : Line) : (s.stray l).prefs = s.prefs := rfl
@[simp] theorem State.stray_menu (l : Line) : (s.stray l).menu = s.menu := rfl
@[simp] theorem State.stray_budget (l : Line) : (s.stray l).budget = s.budget := rfl
@[simp] theorem State.stray_channels (l : Line) : (s.stray l).channels = s.channels := rfl
@[simp] theorem State.stray_captures (l : Line) : (s.stray l).captures = s.captures := rfl
@[simp] theorem State.stray_strikes (l : Line) : (s.stray l).strikes = s.strikes := rfl
@[simp] theorem State.stray_link (l : Line) : (s.stray l).link = s.link := rfl
@[simp] theorem State.stray_freeCount (l : Line) : (s.stray l).freeCount = s.freeCount := rfl

@[simp] theorem State.onEngine_contract (l : Line) (f : LineEngine → LineEngine) (m : Line) : (s.onEngine l f).contract m = s.contract m := rfl
@[simp] theorem State.onEngine_channel (l : Line) (f : LineEngine → LineEngine) (m : Line) : (s.onEngine l f).channel m = s.channel m := rfl

@[simp] theorem State.onContract_engine (l : Line) (f : Contract → Contract) (m : Line) : (s.onContract l f).engine m = s.engine m := rfl
@[simp] theorem State.onContract_channel (l : Line) (f : Contract → Contract) (m : Line) : (s.onContract l f).channel m = s.channel m := rfl

@[simp] theorem State.onChannel_engine (l : Line) (f : Channel → Channel) (m : Line) : (s.onChannel l f).engine m = s.engine m := rfl
@[simp] theorem State.onChannel_contract (l : Line) (f : Channel → Channel) (m : Line) : (s.onChannel l f).contract m = s.contract m := rfl

@[simp] theorem State.onHealth_contract (l : Line) (f : Health → Health) (m : Line) : (s.onHealth l f).contract m = s.contract m := rfl
@[simp] theorem State.onHealth_channel (l : Line) (f : Health → Health) (m : Line) : (s.onHealth l f).channel m = s.channel m := rfl

@[simp] theorem State.onLink_engine (f : LinkUnit → LinkUnit) (m : Line) : (s.onLink f).engine m = s.engine m := rfl
@[simp] theorem State.onLink_contract (f : LinkUnit → LinkUnit) (m : Line) : (s.onLink f).contract m = s.contract m := rfl
@[simp] theorem State.onLink_channel (f : LinkUnit → LinkUnit) (m : Line) : (s.onLink f).channel m = s.channel m := rfl

@[simp] theorem State.clearStrikes_engine (l : Line) (m : Line) : (s.clearStrikes l).engine m = s.engine m := rfl
@[simp] theorem State.clearStrikes_contract (l : Line) (m : Line) : (s.clearStrikes l).contract m = s.contract m := rfl
@[simp] theorem State.clearStrikes_channel (l : Line) (m : Line) : (s.clearStrikes l).channel m = s.channel m := rfl

@[simp] theorem State.hand_contract (l : Line) (f : Frame) (m : Line) : (s.hand l f).contract m = s.contract m := rfl
@[simp] theorem State.hand_channel (l : Line) (f : Frame) (m : Line) : (s.hand l f).channel m = s.channel m := rfl

@[simp] theorem State.stepTag_engine (l : Line) (m : Line) : (s.stepTag l).engine m = s.engine m := rfl
@[simp] theorem State.stepTag_channel (l : Line) (m : Line) : (s.stepTag l).channel m = s.channel m := rfl

@[simp] theorem State.command_engine (l : Line) (cmd : PathCommand) (m : Line) : (s.command l cmd).engine m = s.engine m := rfl
@[simp] theorem State.command_contract (l : Line) (cmd : PathCommand) (m : Line) : (s.command l cmd).contract m = s.contract m := rfl

@[simp] theorem State.raise_engine (src : Source) (body : NoticeBody) (m : Line) : (s.raise src body).engine m = s.engine m := rfl
@[simp] theorem State.raise_contract (src : Source) (body : NoticeBody) (m : Line) : (s.raise src body).contract m = s.contract m := rfl
@[simp] theorem State.raise_channel (src : Source) (body : NoticeBody) (m : Line) : (s.raise src body).channel m = s.channel m := rfl

@[simp] theorem State.dropVerdict_engine (l : Line) (m : Line) : (s.dropVerdict l).engine m = s.engine m := rfl
@[simp] theorem State.dropVerdict_contract (l : Line) (m : Line) : (s.dropVerdict l).contract m = s.contract m := rfl
@[simp] theorem State.dropVerdict_channel (l : Line) (m : Line) : (s.dropVerdict l).channel m = s.channel m := rfl

@[simp] theorem State.enter_engine (l : Line) (st : CState) (m : Line) : (s.enter l st).engine m = s.engine m := rfl
@[simp] theorem State.enter_channel (l : Line) (st : CState) (m : Line) : (s.enter l st).channel m = s.channel m := rfl

@[simp] theorem State.record_engine (l : Line) (o : Outcome) (m : Line) : (s.record l o).engine m = s.engine m := rfl
@[simp] theorem State.record_channel (l : Line) (o : Outcome) (m : Line) : (s.record l o).channel m = s.channel m := rfl

@[simp] theorem State.closeExchange_engine (l : Line) (m : Line) : (s.closeExchange l).engine m = s.engine m := rfl
@[simp] theorem State.closeExchange_channel (l : Line) (m : Line) : (s.closeExchange l).channel m = s.channel m := rfl

@[simp] theorem State.respond_engine (r : Response) (m : Line) : (s.respond r).engine m = s.engine m := rfl
@[simp] theorem State.respond_contract (r : Response) (m : Line) : (s.respond r).contract m = s.contract m := rfl
@[simp] theorem State.respond_channel (r : Response) (m : Line) : (s.respond r).channel m = s.channel m := rfl

@[simp] theorem State.stray_contract (l : Line) (m : Line) : (s.stray l).contract m = s.contract m := rfl
@[simp] theorem State.stray_channel (l : Line) (m : Line) : (s.stray l).channel m = s.channel m := rfl

@[simp] theorem State.onEngine_engine_self (l : Line) (f : LineEngine → LineEngine) : (s.onEngine l f).engine l = f (s.engine l) :=
  Four.get_set_self ..

theorem State.onEngine_engine (l m : Line) (f : LineEngine → LineEngine) :
    (s.onEngine l f).engine m = if m = l then f (s.engine l) else s.engine m := Four.get_set ..

@[simp] theorem State.onContract_contract_self (l : Line) (f : Contract → Contract) : (s.onContract l f).contract l = f (s.contract l) :=
  Four.get_set_self ..

theorem State.onContract_contract (l m : Line) (f : Contract → Contract) :
    (s.onContract l f).contract m = if m = l then f (s.contract l) else s.contract m := Four.get_set ..

@[simp] theorem State.onChannel_channel_self (l : Line) (f : Channel → Channel) : (s.onChannel l f).channel l = f (s.channel l) :=
  Four.get_set_self ..

theorem State.onChannel_channel (l m : Line) (f : Channel → Channel) :
    (s.onChannel l f).channel m = if m = l then f (s.channel l) else s.channel m := Four.get_set ..

@[simp] theorem State.onLink_link (f : LinkUnit → LinkUnit) : (s.onLink f).link = f s.link := rfl

end Machine

end Sys2Proof
end

