-- ==== Sys2Proof/Laws/Claims.lean ====
section
/-! SUPPORT. What the originating of a request and the claiming of a candidate leave, said once, and which candidate selection
claims. -/

namespace Sys2Proof.Machine

set_option Elab.async false

variable {s : State} {l : Line}

/-! ### The exchange slot (R32, R34) -/

/-- The answer timer of the operations is the one the statements write out. -/
theorem State.answerDue_eq : s.answerDue l = s.answerEnd l := by
  unfold State.answerDue State.answerEnd State.after answerMs
  rcases (s.contract l).options.timeoutIndex with _ | _ | _ | n <;> rfl

/-- The requests that the answer timeout times, by their kinds. -/
theorem Request.answerTimed_iff (r : Request) : r.kind.answerTimed = true ↔ r.Timed := by
  cases h : r.kind <;> simp [ReqKind.answerTimed, Request.Timed, h]

/-- A report's further effects leave the slot, the request that waits and those displaced. -/
theorem Contract.noteReport_slot (c : Contract) (k : ReqKind) (now : Time) :
    (c.noteReport k now).exchange = c.exchange ∧ (c.noteReport k now).waiting = c.waiting ∧
      (c.noteReport k now).displaced = c.displaced := by
  unfold Contract.noteReport
  repeat' split
  all_goals exact ⟨rfl, rfl, rfl⟩

/-- The queue after a frame is handed: one frame longer where the transmit side takes it. -/
theorem LineEngine.hand_txQueue (e : LineEngine) (chars : List Byte) :
    (e.hand chars).txQueue = e.txQueue ++ (if e.accepts then [⟨e.nextId, chars, 0⟩] else []) := by
  unfold LineEngine.hand
  split <;> simp

/-- What the sending of a request leaves: the request is outstanding, and nothing else of the slot's neighbours changes. -/
theorem State.sendRequest_handed (r : Request) :
    RequestHanded l s (s.sendRequest l r) r ∧ ((s.sendRequest l r).contract l).waiting = (s.contract l).waiting ∧
      ((s.sendRequest l r).contract l).displaced = (s.contract l).displaced := by
  by_cases ha : (s.engine l).accepts = true
  · have ht : s.sendRequest l r = (s.onEngine l fun e => e.hand r.chars).onContract l fun c =>
        { c with exchange := some ⟨r.kind, r.tag, r.chars, (s.engine l).nextId, r.expiries, none, none⟩ } := by
      simp [State.sendRequest, ha]
    refine ⟨⟨?_, ?_⟩, ?_, ?_⟩ <;> simp [ht, ha, LineEngine.hand_txQueue]
  · have ht : s.sendRequest l r = ((s.onEngine l fun e => e.hand r.chars).onContract l fun c =>
        { c with exchange := some ⟨r.kind, r.tag, r.chars, (s.engine l).nextId, r.expiries, none, none⟩ }).startTimer l := by
      simp [State.sendRequest, ha]
    have hd : ((s.onEngine l fun e => e.hand r.chars).onContract l fun c =>
        { c with exchange := some ⟨r.kind, r.tag, r.chars, (s.engine l).nextId, r.expiries, none, none⟩ }).answerDue l =
        s.answerEnd l := by
      rw [State.answerDue_eq]; simp [State.answerEnd]
    by_cases hk : r.kind.answerTimed = true
    · have hr := (Request.answerTimed_iff r).1 hk
      refine ⟨⟨?_, ?_⟩, ?_, ?_⟩ <;> rw [ht] <;>
        simp only [State.startTimer, State.onContract_contract_self, State.onContract_engine, State.onEngine_engine_self,
          State.onEngine_contract, State.onContract_now, State.onEngine_now, Contract.noteReport_slot, hk, if_true, hd] <;>
        simp [ha, hr, LineEngine.hand_txQueue]
    · have hr : ¬r.Timed := fun h => hk ((Request.answerTimed_iff r).2 h)
      refine ⟨⟨?_, ?_⟩, ?_, ?_⟩ <;> rw [ht] <;>
        simp only [State.startTimer, State.onContract_contract_self, State.onContract_engine, State.onEngine_engine_self,
          State.onEngine_contract, Contract.noteReport_slot, hk] <;>
        simp [ha, hr, LineEngine.hand_txQueue]

/-- What displacing a waiting request leaves: it is timed aside where the answer timeout times it. -/
theorem State.displace_slot (w : Request) :
    ((s.displace l w).contract l).exchange = (s.contract l).exchange ∧ (s.displace l w).engine l = s.engine l ∧
      ((s.displace l w).contract l).displaced = (s.contract l).displaced ++
        (if w.Timed then [⟨w.kind, w.tag, w.chars, 0, w.expiries, some (s.answerEnd l), some s.now⟩] else []) := by
  by_cases hk : w.kind.answerTimed = true
  · have hw := (Request.answerTimed_iff w).1 hk
    simp [State.displace, Contract.noteReport_slot, hk, hw, State.answerDue_eq]
  · have hw : ¬w.Timed := fun h => hk ((Request.answerTimed_iff w).2 h)
    simp [State.displace, Contract.noteReport_slot, hk, hw]

/-- R32: everything that the originating of a request does to its line's slot, queue and waiting requests. -/
theorem State.originate_requested (r : Request) : Requested l s (s.originate l r) r := by
  cases hx : (s.contract l).exchange with
  | some x =>
      have ho : s.originate l r = s.wait l r := by simp [State.originate, State.handWaiting, hx]
      refine ⟨fun h => by simp [hx] at h, fun w h => by simp [hx] at h, fun y hy => ?_⟩
      obtain rfl : x = y := Option.some.inj (hx ▸ hy)
      rw [ho]
      cases hw : (s.contract l).waiting with
      | none => simp [State.wait, hw, hx]
      | some w =>
          have hd := State.displace_slot (s := s) (l := l) w
          simp only [State.wait, hw, State.onContract_contract_self, State.onContract_engine]
          refine ⟨hd.1.trans hx, trivial, by rw [hd.2.1], fun h => by simp at h, fun v hv => ?_⟩
          obtain rfl : w = v := Option.some.inj hv
          exact hd.2.2
  | none =>
      cases hw : (s.contract l).waiting with
      | none =>
          have ho : s.originate l r = s.sendRequest l r := by simp [State.originate, State.handWaiting, hx, hw]
          have hs := State.sendRequest_handed (s := s) (l := l) r
          refine ⟨fun _ _ => ?_, fun w _ h => by simp [hw] at h, fun y hy => by simp [hx] at hy⟩
          rw [ho]
          exact ⟨hs.1, hs.2.1.trans hw, hs.2.2⟩
      | some w =>
          let before := s.onContract l fun c => { c with waiting := none }
          have hs := State.sendRequest_handed (s := before) (l := l) w
          have hy : ((before.sendRequest l w).contract l).exchange.isNone = false := by rw [hs.1.outstanding]; rfl
          have hq : ((before.sendRequest l w).contract l).waiting = none := hs.2.1.trans (by simp [before])
          have ho : s.originate l r =
              (before.sendRequest l w).onContract l fun c => { c with waiting := some r } := by
            show (if ((s.handWaiting l).contract l).exchange.isNone then (s.handWaiting l).sendRequest l r
              else (s.handWaiting l).wait l r) = _
            have hh : s.handWaiting l = before.sendRequest l w := by simp [State.handWaiting, hx, hw, before]
            rw [hh, hy]
            simp [State.wait, hq]
          refine ⟨fun _ h => by simp [hw] at h, fun v _ hv => ?_, fun y hy => by simp [hx] at hy⟩
          obtain rfl : w = v := Option.some.inj (hw ▸ hv)
          have he : before.answerEnd l = s.answerEnd l := by simp [before, State.answerEnd]
          have hout := hs.1.outstanding
          rw [he] at hout
          have hd : (before.contract l).displaced = (s.contract l).displaced := by simp [before]
          rw [ho]
          refine ⟨⟨?_, hs.1.queue⟩, ?_, ?_⟩ <;> rw [State.onContract_contract_self]
          exacts [hout, hs.2.2.trans hd]

/-- What a request's originating leaves is read from the engine, the slot, the options and the counter alone. -/
theorem Requested.of_same {s' t : State} {r : Request} (h : Requested l s' t r) (he : s'.engine l = s.engine l)
    (hx : (s'.contract l).exchange = (s.contract l).exchange) (hw : (s'.contract l).waiting = (s.contract l).waiting)
    (hd : (s'.contract l).displaced = (s.contract l).displaced)
    (ho : (s'.contract l).options = (s.contract l).options) (hn : s'.now = s.now) : Requested l s t r := by
  have ha : s'.answerEnd l = s.answerEnd l := by unfold State.answerEnd; rw [ho, hn]
  have hand : ∀ q, RequestHanded l s' t q → RequestHanded l s t q := fun q hq => by
    have h1 := hq.outstanding
    have h2 := hq.queue
    rw [he, ha, hn] at h1
    rw [he] at h2
    exact ⟨h1, h2⟩
  refine ⟨fun h1 h2 => ?_, fun w h1 h2 => ?_, fun x h1 => ?_⟩
  · obtain ⟨a, b, c⟩ := h.atOnce (hx.trans h1) (hw.trans h2)
    exact ⟨hand _ a, b, c.trans hd⟩
  · obtain ⟨a, b, c⟩ := h.afterWaiting w (hx.trans h1) (hw.trans h2)
    exact ⟨hand _ a, b, c.trans hd⟩
  · obtain ⟨a, b, c, d, e⟩ := h.behind x (hx.trans h1)
    refine ⟨a, b, by rw [c, he], fun h2 => (d (hw.trans h2)).trans hd, fun w h2 => ?_⟩
    rw [e w (hw.trans h2), hd, ha, hn]

/-! ### Claims (R71 to R73) -/

/-- A change of the budget leaves the engines, the contracts and the counter, and stores its fields with their sums. -/
theorem State.setBudget_leaves (b : Budget) : (s.setBudget b).engines = s.engines ∧
    (s.setBudget b).contracts = s.contracts ∧ (s.setBudget b).now = s.now ∧ (s.setBudget b).budget = b.resum := by
  unfold State.setBudget
  by_cases h : ((b.resum.drawOver && !b.drawOver) || (b.resum.supplyOver && !b.supplyOver)) = true
  · rw [if_pos h]; exact ⟨rfl, rfl, rfl, rfl⟩
  · rw [if_neg h]; exact ⟨rfl, rfl, rfl, rfl⟩

/-- A draw-side claim leaves the engines, the contracts and the counter, and the line's commitment is the contract's (R86). -/
theorem State.claimDraw_leaves : (s.claimDraw l).engines = s.engines ∧ (s.claimDraw l).contracts = s.contracts ∧
    (s.claimDraw l).now = s.now ∧ (s.claimDraw l).budget.drawCommit.get l = (s.contract l).drawCommitment := by
  obtain ⟨h1, h2, h3, h4⟩ := State.setBudget_leaves (s := s) { s.budget with
    drawCommit := s.budget.drawCommit.set l (s.contract l).drawCommitment
    drawCopy := s.budget.drawCopy.set l ((s.contract l).agreement.map fun a => ⟨a.voltage, a.current⟩) }
  refine ⟨h1, h2, h3, (congrArg (fun b : Budget => b.drawCommit.get l) h4).trans ?_⟩
  exact Four.get_set_self _ _ _

/-- The sending of a request, displacing and waiting leave the budget and all of the record but slot, timers and recall. -/
theorem State.originate_keeps (r : Request) : (s.originate l r).budget = s.budget ∧
    ((s.originate l r).contract l).state = (s.contract l).state ∧
    ((s.originate l r).contract l).cursor = (s.contract l).cursor ∧
    ((s.originate l r).contract l).claim = (s.contract l).claim ∧
    ((s.originate l r).contract l).tagCounter = (s.contract l).tagCounter ∧
    ((s.originate l r).contract l).agreement = (s.contract l).agreement := by
  have note : ∀ (c : Contract) (k : ReqKind) (now : Time), (c.noteReport k now).state = c.state ∧
      (c.noteReport k now).cursor = c.cursor ∧ (c.noteReport k now).claim = c.claim ∧
      (c.noteReport k now).tagCounter = c.tagCounter ∧ (c.noteReport k now).agreement = c.agreement := by
    intro c k now
    unfold Contract.noteReport
    repeat' split
    all_goals exact ⟨rfl, rfl, rfl, rfl, rfl⟩
  have send : ∀ (s : State) (r : Request), (s.sendRequest l r).budget = s.budget ∧
      ((s.sendRequest l r).contract l).state = (s.contract l).state ∧
      ((s.sendRequest l r).contract l).cursor = (s.contract l).cursor ∧
      ((s.sendRequest l r).contract l).claim = (s.contract l).claim ∧
      ((s.sendRequest l r).contract l).tagCounter = (s.contract l).tagCounter ∧
      ((s.sendRequest l r).contract l).agreement = (s.contract l).agreement := by
    intro s r
    by_cases ha : (s.engine l).accepts = true
    · simp [State.sendRequest, ha]
    · cases hk : r.kind.answerTimed <;> simp [State.sendRequest, ha, State.startTimer, hk, note]
  have wait : ∀ (s : State) (r : Request), (s.wait l r).budget = s.budget ∧
      ((s.wait l r).contract l).state = (s.contract l).state ∧ ((s.wait l r).contract l).cursor = (s.contract l).cursor ∧
      ((s.wait l r).contract l).claim = (s.contract l).claim ∧
      ((s.wait l r).contract l).tagCounter = (s.contract l).tagCounter ∧
      ((s.wait l r).contract l).agreement = (s.contract l).agreement := by
    intro s r
    cases hw : (s.contract l).waiting with
    | none => simp [State.wait, hw]
    | some w => cases hk : w.kind.answerTimed <;> simp [State.wait, hw, State.displace, hk, note]
  have first : ∀ s : State, (s.handWaiting l).budget = s.budget ∧
      ((s.handWaiting l).contract l).state = (s.contract l).state ∧
      ((s.handWaiting l).contract l).cursor = (s.contract l).cursor ∧
      ((s.handWaiting l).contract l).claim = (s.contract l).claim ∧
      ((s.handWaiting l).contract l).tagCounter = (s.contract l).tagCounter ∧
      ((s.handWaiting l).contract l).agreement = (s.contract l).agreement := by
    intro s
    unfold State.handWaiting
    split
    · have h := send (s.onContract l fun c => { c with waiting := none }) ‹Request›
      simpa using h
    · exact ⟨rfl, rfl, rfl, rfl, rfl, rfl⟩
  obtain ⟨a1, a2, a3, a4, a5, a6⟩ := first s
  unfold State.originate
  dsimp only
  split
  · obtain ⟨b1, b2, b3, b4, b5, b6⟩ := send (s.handWaiting l) r
    exact ⟨b1.trans a1, b2.trans a2, b3.trans a3, b4.trans a4, b5.trans a5, b6.trans a6⟩
  · obtain ⟨b1, b2, b3, b4, b5, b6⟩ := wait (s.handWaiting l) r
    exact ⟨b1.trans a1, b2.trans a2, b3.trans a3, b4.trans a4, b5.trans a5, b6.trans a6⟩

/-- R73: everything that the claiming of a candidate does to its line. -/
theorem State.sendClaim_claimSent (k : Cursor) (f : ClaimFields) : ClaimSent l s (s.sendClaim l k f) k f := by
  let claiming : Contract :=
    { (s.contract l).enter .claiming with cursor := k, claim := some ⟨f, (s.contract l).tagCounter⟩ }
  let named := s.onContract l fun c => { c.enter .claiming with cursor := k, claim := some ⟨f, (s.contract l).tagCounter⟩ }
  let before := (named.claimDraw l).stepTag l
  let r : Request := ⟨.claim, (s.contract l).tagCounter, (Frame.mk (s.contract l).tagCounter (.claim f)).chars, 0⟩
  have hn : named.contract l = claiming := State.onContract_contract_self ..
  obtain ⟨l1, l2, l3, l4⟩ := State.claimDraw_leaves (s := named) (l := l)
  have hc : (named.claimDraw l).contract l = claiming := (congrArg (fun x => Four.get x l) l2).trans hn
  have he : before.engine l = s.engine l := congrArg (fun x => Four.get x l) l1
  have hb : before.contract l = { claiming with tagCounter := (s.contract l).tagCounter + 1 } :=
    (State.onContract_contract_self ..).trans (by rw [hc]; rfl)
  have ht : s.sendClaim l k f = before.originate l r := by
    show (named.claimDraw l).originateNew l .claim (.claim f) = _
    unfold State.originateNew
    rw [hc]
    rfl
  obtain ⟨k1, k2, k3, k4, k5, k6⟩ := State.originate_keeps (s := before) (l := l) r
  have hr := State.originate_requested (s := before) (l := l) r
  rw [ht]
  refine ⟨k2.trans (by rw [hb]; rfl), k3.trans (by rw [hb]), k4.trans (by rw [hb]), k5.trans (by rw [hb]),
    hr.of_same he (by rw [hb]; rfl) (by rw [hb]; rfl) (by rw [hb]; rfl) (by rw [hb]; rfl) l3, ?_,
    k6.trans (by rw [hb]; rfl)⟩
  rw [k1]
  refine l4.trans ?_
  rw [hn]
  rfl

/-- The cursors of selection are in the order they are tried. -/
theorem cursorsFrom_sorted (k : Cursor) (n : Nat) : (cursorsFrom k n).Pairwise Cursor.before := by
  refine List.Pairwise.filter _ (List.pairwise_flatMap.2 ⟨fun i _ => ?_, ?_⟩)
  · exact List.pairwise_map.2 (List.pairwise_lt_range.imp fun h => Or.inr ⟨rfl, h⟩)
  · refine List.pairwise_lt_range.imp fun {i j} hij a ha b hb => Or.inl ?_
    obtain ⟨_, _, rfl⟩ := List.mem_map.1 ha
    obtain ⟨_, _, rfl⟩ := List.mem_map.1 hb
    exact hij

/-- Which cursors are tried from a given one on. -/
theorem mem_cursorsFrom {k c : Cursor} {n : Nat} :
    c ∈ cursorsFrom k n ↔ c.pref < 8 ∧ c.point < n ∧ (k.pref < c.pref ∨ (c.pref = k.pref ∧ k.point ≤ c.point)) := by
  simp only [cursorsFrom, List.mem_filter, List.mem_flatMap, List.mem_map, List.mem_range, Bool.or_eq_true,
    decide_eq_true_eq, Bool.and_eq_true, beq_iff_eq]
  constructor
  · rintro ⟨⟨i, hi, j, hj, rfl⟩, h⟩
    exact ⟨hi, hj, h⟩
  · rintro ⟨h1, h2, h3⟩
    exact ⟨⟨c.pref, h1, c.point, h2, rfl⟩, h3⟩

/-- The first hit of a search in an ordered list, and that there is none. -/
theorem findSome_ordered {β : Type} {cs : List Cursor} (hs : cs.Pairwise Cursor.before) (g : Cursor → Option β) :
    (∀ k f, (cs.findSome? fun c => (g c).map fun f => (c, f)) = some (k, f) ↔
      k ∈ cs ∧ g k = some f ∧ ∀ j ∈ cs, j.before k → g j = none) ∧
    ((cs.findSome? fun c => (g c).map fun f => (c, f)) = none ↔ ∀ k ∈ cs, g k = none) := by
  induction cs with
  | nil => simp
  | cons c cs ih =>
      obtain ⟨hc, hs⟩ := List.pairwise_cons.1 hs
      obtain ⟨ih1, ih2⟩ := ih hs
      have irr : ¬c.before c := by simp [Cursor.before]
      cases h : g c with
      | none =>
          refine ⟨fun k f => ?_, ?_⟩
          · simp only [List.findSome?_cons, h, Option.map_none, ih1, List.mem_cons]
            constructor
            · rintro ⟨a, b, d⟩
              exact ⟨.inr a, b, fun j hj hjk => hj.elim (fun e => e ▸ h) fun e => d j e hjk⟩
            · rintro ⟨a, b, d⟩
              refine ⟨a.resolve_left fun e => ?_, b, fun j hj => d j (.inr hj)⟩
              rw [e, h] at b
              cases b
          · simp only [List.findSome?_cons, h, Option.map_none, ih2, List.mem_cons]
            exact ⟨fun a k hk => hk.elim (fun e => e ▸ h) (a k), fun a k hk => a k (.inr hk)⟩
      | some b =>
          refine ⟨fun k f => ?_, ?_⟩
          · simp only [List.findSome?_cons, h, Option.map_some, Option.some.injEq, Prod.mk.injEq, List.mem_cons]
            constructor
            · rintro ⟨rfl, rfl⟩
              refine ⟨.inl rfl, h, fun j hj hjk => absurd hjk ?_⟩
              rcases hj with rfl | hj
              · exact irr
              · have := hc j hj
                simp only [Cursor.before] at this ⊢
                omega
            · rintro ⟨a, d, e⟩
              have hk : c = k := by
                rcases a with rfl | a
                · rfl
                · have := e c (.inl rfl) (hc k a)
                  rw [h] at this
                  cases this
              subst hk
              exact ⟨rfl, Option.some.inj (h ▸ d)⟩
          · simp [h]

/-- A cursor off the list or off the menu has no claim. -/
theorem State.claimOf_out {marked : List FarPoint} {k : Cursor} (h : ¬(k.pref < 8 ∧ k.point < marked.length)) :
    s.claimOf l marked k = none := by
  unfold State.claimOf
  split
  · rename_i pr p h1 h2
    refine absurd ⟨?_, ?_⟩ h
    · simpa using (List.getElem?_eq_some_iff.1 h1).1
    · exact (List.getElem?_eq_some_iff.1 h2).1
  · rfl

/-- R72: the first claim is that of the first cursor that has one. -/
theorem State.firstClaim_iff (marked : List FarPoint) :
    (∀ k f, s.firstClaim l marked = some (k, f) ↔
      s.claimOf l marked k = some f ∧ ∀ j, Cursor.before j k → s.claimOf l marked j = none) ∧
    (s.firstClaim l marked = none ↔ ∀ k, s.claimOf l marked k = none) := by
  have hm : ∀ k, k ∈ cursorsFrom ⟨0, 0⟩ marked.length ↔ k.pref < 8 ∧ k.point < marked.length := fun k => by
    rw [mem_cursorsFrom]
    refine ⟨fun h => ⟨h.1, h.2.1⟩, fun h => ⟨h.1, h.2, ?_⟩⟩
    show 0 < k.pref ∨ (k.pref = 0 ∧ 0 ≤ k.point)
    omega
  obtain ⟨h1, h2⟩ := findSome_ordered (cursorsFrom_sorted ⟨0, 0⟩ marked.length) (s.claimOf l marked)
  refine ⟨fun k f => (h1 k f).trans ⟨fun h => ⟨h.2.1, fun j hj => ?_⟩, fun h => ⟨?_, h.1, fun j _ => h.2 j⟩⟩,
    h2.trans ⟨fun h k => ?_, fun h k _ => h k⟩⟩
  · by_cases hj' : j.pref < 8 ∧ j.point < marked.length
    · exact h.2.2 j ((hm j).2 hj') hj
    · exact State.claimOf_out hj'
  · refine (hm k).2 (Classical.byContradiction fun hk => ?_)
    rw [State.claimOf_out hk] at h
    exact nomatch h.1
  · by_cases hk : k.pref < 8 ∧ k.point < marked.length
    · exact h k ((hm k).2 hk)
    · exact State.claimOf_out hk

/-- The candidate at a cursor is the claim of its point under the far menu's marks. -/
theorem State.candidate_eq (k : Cursor) :
    s.candidate l k = (s.contract l).farMenu.bind fun m => s.claimOf l m.points k := by
  unfold State.candidate
  cases (s.contract l).farMenu with
  | none => cases s.prefs.toList[k.pref]? <;> rfl
  | some m => rfl

/-- A cursor off the list or off the far menu has no candidate. -/
theorem State.candidate_out {k : Cursor}
    (h : ¬(k.pref < 8 ∧ k.point < ((s.contract l).farMenu.map fun m => m.points.length).getD 0)) :
    s.candidate l k = none := by
  rw [State.candidate_eq]
  cases hm : (s.contract l).farMenu with
  | none => rfl
  | some m => rw [hm] at h; exact State.claimOf_out h

/-- Only the cursors of the far menu, of the 8 preferences, can have a candidate beyond a cursor. -/
theorem State.noCandidate_of {k : Cursor} (P : Cursor → Prop)
    (h : ∀ j ∈ cursorsFrom ⟨k.pref, k.point + 1⟩ (((s.contract l).farMenu.map fun m => m.points.length).getD 0),
      P j → s.candidate l j = none) :
    ∀ j, k.before j → P j → s.candidate l j = none := by
  intro j hkj hP
  by_cases hr : j.pref < 8 ∧ j.point < ((s.contract l).farMenu.map fun m => m.points.length).getD 0
  · refine h j (mem_cursorsFrom.2 ⟨hr.1, hr.2, ?_⟩) hP
    simp only [Cursor.before] at hkj ⊢
    omega
  · exact State.candidate_out hr

/-- R72: the cursor moves forward to the first candidate after it that can be claimed, and none is left when there is none. -/
theorem State.advance_claims (k : Cursor) (hk : (s.contract l).cursor = k) :
    (∀ n f, s.candidate l n = some f → k.before n →
      (∀ j, k.before j → Cursor.before j n → s.candidate l j = none) → s.advance l = s.sendClaim l n f) ∧
    ((∀ n, k.before n → s.candidate l n = none) → s.advance l = s.noSuitablePoint l) := by
  let count := ((s.contract l).farMenu.map fun m => m.points.length).getD 0
  have hm : ∀ c, c ∈ cursorsFrom ⟨k.pref, k.point + 1⟩ count → k.before c := fun c hc => by
    have := (mem_cursorsFrom.1 hc).2.2
    simp only [Cursor.before] at this ⊢
    omega
  obtain ⟨h1, h2⟩ := findSome_ordered (cursorsFrom_sorted ⟨k.pref, k.point + 1⟩ count) (s.candidate l)
  refine ⟨fun n f hn hkn hb => ?_, fun hn => ?_⟩ <;> unfold State.advance State.select <;> dsimp only <;> rw [hk]
  · have hin : n ∈ cursorsFrom ⟨k.pref, k.point + 1⟩ count := by
      rw [mem_cursorsFrom]
      have hr : n.pref < 8 ∧ n.point < count := Classical.byContradiction fun hr => by
        rw [State.candidate_out hr] at hn
        cases hn
      refine ⟨hr.1, hr.2, ?_⟩
      simp only [Cursor.before] at hkn ⊢
      omega
    rw [(h1 n f).2 ⟨hin, hn, fun j hj hjn => hb j (hm j hj) hjn⟩]
  · rw [h2.2 fun c hc => hn c (hm c hc)]

end Sys2Proof.Machine
end

