-- ==== Sys2Proof/Laws/Moves.lean ====
section
/-! SUPPORT. What a step can do, said once. Every command is a chain of moves, each a change of one block under a bound that
every use of it meets (`exec_effect`). A property that every move keeps is kept by every command (`Moves.keeps`). A chain has a
scope: `some l` in it for a line it may change freely, `none` in it when it may report a trip's fault. To a line outside its
scope it may only send a MENU that was held. -/

namespace Sys2Proof.Machine

set_option Elab.async false

/-! ### The bounds -/

/-- What a change of the link unit keeps. Only the RESPONSE of a REQUEST or VERDICT joins the response queue (`Effect`). -/
structure LinkStep (u v : LinkUnit) : Prop where
  responses : v.responses.length ≤ u.responses.length
  notices : NoticesDistinct u.notices → NoticesDistinct v.notices
  verdicts : VerdictsDistinct u.verdicts → VerdictsDistinct v.verdicts
  quiet : u.quietEmpty → v.quietEmpty
  wake : u.wakeRests → v.wakeRests

/-- What a change of the link unit leaves to a line outside the scope. -/
structure LinkScope (sc : Option Line → Prop) (u v : LinkUnit) : Prop where
  verdicts : ∀ m, ¬ sc (some m) → (v.verdicts.find? fun x => x.line == m) = u.verdicts.find? fun x => x.line == m
  notices : ∀ m, ¬ sc (some m) → (v.notices.filter fun n => n.source == .line m) = u.notices.filter fun n => n.source == .line m

/-- What a change of the budget's fields keeps before its sums are recomputed. -/
structure BudgetStep (b c : Budget) : Prop where
  order : b.OrderOk → c.OrderOk
  rank : b.RankOk → c.RankOk
  alloc : c.alloc = b.alloc

/-- What a change of the budget's fields leaves to a line outside the scope. -/
structure BudgetScope (sc : Option Line → Prop) (b c : Budget) : Prop where
  commitments : ∀ m, ¬ sc (some m) → c.drawCommit.get m = b.drawCommit.get m ∧ c.drawCopy.get m = b.drawCopy.get m ∧
    c.supplyCommit.get m = b.supplyCommit.get m
  ceilings : (∀ m, sc (some m)) ∨
    (c.inputCeiling = b.inputCeiling ∧ c.supplyCeiling = b.supplyCeiling ∧ c.rank = b.rank)

/-- A change of the budget's fields that leaves the allocations what they are. -/
def Budget.DrawSame (b c : Budget) : Prop :=
  c.drawCopy = b.drawCopy ∧ c.inputCeiling = b.inputCeiling ∧ c.rank = b.rank

/-- One move: a change of one block. -/
inductive Move (sc : Option Line → Prop) : State → State → Prop where
  | engine (s : State) (l : Line) (f : LineEngine → LineEngine)
      (h : (f (s.engine l)).txQueue.length ≤ max 4 (s.engine l).txQueue.length)
      (hs : sc (some l) ∨ ((s.contract l).awaitsRise = true ∧ (f (s.engine l)).SameButQueue (s.engine l))) :
      Move sc s (s.onEngine l f)
  | contract (s : State) (l : Line) (f : Contract → Contract)
      (h : (f (s.contract l)).options = (s.contract l).options)
      (hs : sc (some l) ∨ ((s.contract l).awaitsRise = true ∧ (f (s.contract l)).SameButOffer (s.contract l))) :
      Move sc s (s.onContract l f)
  | options (s : State) (l : Line) (o : Options) (h : o.roles.within (s.straps.get l).roles = true) (hs : sc (some l))
      (hb : o.baseline = s.baseOf l ∨ s.budget.drawCopy.get l = none) :
      Move sc s (s.onContract l fun c => { c with options := o })
  | rebase (s : State) (l : Line) (o : Options) (h : o.roles.within (s.straps.get l).roles = true) (hs : sc (some l)) :
      Move sc s (s.onContract l fun c => { c with options := o }).reallocate
  | channel (s : State) (l : Line) (f : Channel → Channel)
      (h : (f (s.channel l)).allocation = (s.channel l).allocation)
      (ht : sc none ∨ ((s.channel l).TripPends → (f (s.channel l)).TripPends)) (hs : sc (some l)) : Move sc s (s.onChannel l f)
  | link (s : State) (f : LinkUnit → LinkUnit) (h : LinkStep s.link (f s.link)) (hs : LinkScope sc s.link (f s.link)) :
      Move sc s (s.onLink f)
  | budget (s : State) (b : Budget) (h : BudgetStep s.budget b) (hd : s.budget.DrawSame b)
      (hs : BudgetScope sc s.budget b) : Move sc s { s with budget := b.resum }
  | drawBudget (s : State) (b : Budget) (h : BudgetStep s.budget b) (hs : BudgetScope sc s.budget b) :
      Move sc s (State.reallocate { s with budget := b.resum })
  | rules (s : State) (i : Nat) (hi : i < 32) (e : RuleEntry) (h : e.hits ≤ 65535)
      (hs : (∀ m, sc (some m)) ∨ { e with hits := 0 } = { s.rules[i] with hits := 0 }) :
      Move sc s { s with rules := s.rules.set i e hi }
  | prefs (s : State) (p : Vector Preference 8) (hs : ∀ m, sc (some m)) : Move sc s { s with prefs := p }
  | menu (s : State) (m : Vector SupplyEntry 4) (hs : ∀ m, sc (some m)) : Move sc s { s with menu := m }
  | capture (s : State) (l : Line) (c : Capture) (h : c.count ≤ max 255 (s.captures.get l).count) (hs : sc (some l)) :
      Move sc s { s with captures := s.captures.set l c }
  | strikes (s : State) (l : Line) (n : Nat) (h : n ≤ 255) (hs : sc (some l)) : Move sc s { s with strikes := s.strikes.set l n }
  | free (s : State) (hs : ∀ m, sc (some m)) : Move sc s { s with freeCount := s.freeCount + 1 }
  | tick (s : State) (hs : ∀ m, sc (some m)) : Move sc s s.tick
  | resetBlocks (s : State) (hs : ∀ m, sc (some m)) : Move sc s s.resetBlocks
  | powerOn (s : State) (pins : Four ResetPins) (hs : ∀ m, sc (some m)) :
      Move sc s { State.powerOn (pins.map Straps.latch) (pins.map ResetPins.presence) with
        pending := s.pending, freeCount := s.freeCount }

/-- A chain of moves. -/
inductive Moves (sc : Option Line → Prop) : State → State → Prop where
  | refl (s : State) : Moves sc s s
  | snoc {s t u : State} (h : Moves sc s t) (m : Move sc t u) : Moves sc s u

/-- A property that every move keeps is kept by every chain. -/
theorem Moves.keeps {sc : Option Line → Prop} {P : State → Prop} (hm : ∀ s t, Move sc s t → P s → P t) {s t : State}
    (h : Moves sc s t) : P s → P t := by
  intro hp
  induction h with
  | refl => exact hp
  | snoc _ m ih => exact hm _ _ m ih

theorem Moves.trans {sc : Option Line → Prop} {s t u : State} (h : Moves sc s t) (k : Moves sc t u) : Moves sc s u := by
  induction k with
  | refl => exact h
  | snoc _ m ih => exact ih.snoc m

variable {sc : Option Line → Prop} {s t : State} {l : Line} [Fact (sc (some l))]

/-- The line is in the scope. -/
theorem inScope (sc : Option Line → Prop) (l : Line) [h : Fact (sc (some l))] : sc (some l) := h.out

/-- The whole part is the scope. -/
theorem allInScope (sc : Option Line → Prop) [h : ∀ m, Fact (sc (some m))] (m : Line) : sc (some m) := (h m).out


/-! ### Basic updates -/

theorem Moves.onEngine (h : Moves sc s t) {f : LineEngine → LineEngine}
    (hf : ∀ e, (f e).txQueue.length ≤ max 4 e.txQueue.length := by exact fun _ => Nat.le_max_right ..) :
    Moves sc s (t.onEngine l f) := h.snoc (.engine t l f (hf _) (.inl (inScope sc l)))

theorem Moves.onContract (h : Moves sc s t) {f : Contract → Contract}
    (hf : ∀ c, (f c).options = c.options := by exact fun _ => rfl) : Moves sc s (t.onContract l f) :=
  h.snoc (.contract t l f (hf _) (.inl (inScope sc l)))

theorem Moves.onChannel (h : Moves sc s t) {f : Channel → Channel}
    (hf : ∀ c, (f c).allocation = c.allocation := by exact fun _ => rfl)
    (ht : ∀ c, c.TripPends → (f c).TripPends := by exact fun _ h => h) : Moves sc s (t.onChannel l f) :=
  h.snoc (.channel t l f (hf _) (.inr (ht _)) (inScope sc l))

theorem Moves.onHealth (h : Moves sc s t) {f : Health → Health} : Moves sc s (t.onHealth l f) := by
  unfold State.onHealth
  exact h.onEngine

theorem Moves.clearStrikes (h : Moves sc s t) : Moves sc s (t.clearStrikes l) := h.snoc (.strikes t l 0 (by omega) (inScope sc l))

theorem Moves.record (h : Moves sc s t) (o : Outcome) : Moves sc s (t.record l o) := h.onContract

/-- A change of the link unit that touches neither responses, notices nor verdicts, and enters no mode but RUNNING. -/
theorem LinkStep.plain {u v : LinkUnit} (hr : v.responses = u.responses) (hn : v.notices = u.notices)
    (hv : v.verdicts = u.verdicts) (hm : v.mode = u.mode ∨ v.mode = .running)
    (hw : u.wakeRests → v.wakeRests) : LinkStep u v where
  wake := hw
  responses := by rw [hr]
  notices := by rw [hn]; exact id
  verdicts := by rw [hv]; exact id
  quiet := by
    intro h hq
    rcases hm with hm | hm
    · rw [hv]; exact h (hm ▸ hq)
    · rw [hm] at hq; cases hq

theorem mem_putNotice_key (n : Notice) (ns : List Notice) (k : Source × NoticeKind) :
    k ∈ (putNotice n ns).map (fun n => (n.source, n.body.kind)) ↔
      k = (n.source, n.body.kind) ∨ k ∈ ns.map (fun n => (n.source, n.body.kind)) := by
  induction ns with
  | nil => simp [putNotice]
  | cons m ms ih =>
      unfold putNotice
      split
      · next h =>
          simp only [Notice.sameKey, Bool.and_eq_true, beq_iff_eq] at h
          simp [h.1, h.2]
      · simp only [List.map_cons, List.mem_cons, ih]
        tauto

/-- R167: a raising keeps sources and kinds distinct. -/
theorem NoticesDistinct.put (n : Notice) {ns : List Notice} (h : NoticesDistinct ns) : NoticesDistinct (putNotice n ns) := by
  unfold NoticesDistinct at *
  induction ns with
  | nil => simp [putNotice]
  | cons m ms ih =>
      simp only [List.map_cons, List.nodup_cons] at h
      unfold putNotice
      split
      · next hk =>
          simp only [Notice.sameKey, Bool.and_eq_true, beq_iff_eq] at hk
          simp only [List.map_cons, List.nodup_cons]
          rw [← hk.1, ← hk.2]
          exact h
      · next hk =>
          simp only [List.map_cons, List.nodup_cons, mem_putNotice_key]
          refine ⟨?_, ih h.2⟩
          rintro (he | hm)
          · apply hk
            simp only [Prod.mk.injEq] at he
            simp [Notice.sameKey, he.1, he.2]
          · exact h.1 hm

theorem LinkStep.raise (u : LinkUnit) (n : Notice) : LinkStep u (u.raise n) where
  wake := fun h hm => by
    have hw := h hm
    simp only [LinkUnit.raise] at hm ⊢
    rw [hm, hw.1]
    exact ⟨rfl, hw.2⟩
  responses := Nat.le_refl _
  notices := fun h => h.put n
  verdicts := id
  quiet := id

/-- A change that touches neither notices nor verdicts leaves every line what it has of them. -/
theorem LinkScope.plain {u v : LinkUnit} (hn : v.notices = u.notices) (hv : v.verdicts = u.verdicts) :
    LinkScope sc u v where
  verdicts := fun _ _ => by rw [hv]
  notices := fun _ _ => by rw [hn]

/-- Any change, when the scope is the whole part. -/
theorem LinkScope.whole {u v : LinkUnit} (hs : ∀ m, sc (some m)) : LinkScope sc u v where
  verdicts := fun m h => absurd (hs m) h
  notices := fun m h => absurd (hs m) h

/-- R167: a raising leaves the notices of other sources as they stand. -/
theorem putNotice_filter (n : Notice) (src : Source) (h : n.source ≠ src) (ns : List Notice) :
    ((putNotice n ns).filter fun x => x.source == src) = ns.filter fun x => x.source == src := by
  induction ns with
  | nil => simp [putNotice, h]
  | cons m ms ih =>
      unfold putNotice
      split
      · next hk =>
          simp only [Notice.sameKey, Bool.and_eq_true, beq_iff_eq] at hk
          have hm : m.source ≠ src := by rw [hk.1]; exact h
          simp [h, hm]
      · simp only [List.filter_cons, ih]

theorem LinkScope.raise {u : LinkUnit} {n : Notice} (h : ∀ m, ¬ sc (some m) → n.source ≠ .line m) :
    LinkScope sc u (u.raise n) where
  verdicts := fun _ _ => rfl
  notices := fun m hm => putNotice_filter n _ (h m hm) _

theorem Moves.raise (h : Moves sc s t) (body : NoticeBody) : Moves sc s (t.raise (.line l) body) :=
  h.snoc (.link t _ (.raise ..) (.raise fun m hm he => hm (by cases he; exact inScope sc l)))

theorem Moves.raisePart (h : Moves sc s t) (body : NoticeBody) : Moves sc s (t.raise .part body) :=
  h.snoc (.link t _ (.raise ..) (.raise fun _ _ he => by cases he))

theorem Moves.raiseAgreed (h : Moves sc s t) : Moves sc s (t.raiseAgreed l) := by
  unfold State.raiseAgreed
  dsimp only
  split
  · exact h.raise ..
  · exact h

theorem VerdictsDistinct.filter (p : VerdictEntry → Bool) {vs : List VerdictEntry} (h : VerdictsDistinct vs) :
    VerdictsDistinct (vs.filter p) := List.Nodup.sublist ((List.filter_sublist).map _) h

theorem find_filter_line {m : Line} (h : m ≠ l) (vs : List VerdictEntry) :
    ((vs.filter fun v => !(v.line == l)).find? fun x => x.line == m) = vs.find? fun x => x.line == m := by
  rw [List.find?_filter]
  congr 1
  funext x
  by_cases hx : x.line = m
  · simp [hx, h]
  · simp [hx]

omit [Fact (sc (some l))] in
theorem outside_ne {m : Line} (h : ¬ sc (some m)) (hl : sc (some l)) : m ≠ l := fun he => h (he ▸ hl)

theorem Moves.dropVerdict (h : Moves sc s t) : Moves sc s (t.dropVerdict l) :=
  h.snoc (.link t _ {
    responses := Nat.le_refl _
    wake := id
    notices := id
    verdicts := fun hv => hv.filter _
    quiet := fun hq hm => by simp [hq hm] } {
    verdicts := fun _ hm => find_filter_line (outside_ne hm (inScope sc l)) _
    notices := fun _ _ => rfl })

theorem Moves.openVerdict (h : Moves sc s t) (k : QueryKind) (a : Answer) (r : List (List Byte))
    (hm : t.link.mode = .running) : Moves sc s (t.openVerdict l k a r) :=
  h.snoc (.link t _ {
    responses := Nat.le_refl _
    wake := id
    notices := id
    verdicts := fun hv => by
      unfold VerdictsDistinct
      rw [List.map_append, List.nodup_append]
      refine ⟨hv.filter _, by simp, ?_⟩
      intro x hx y hy hxy
      simp only [List.map_cons, List.map_nil, List.mem_singleton] at hy
      simp only [List.mem_map, List.mem_filter] at hx
      obtain ⟨v, ⟨_, hv⟩, rfl⟩ := hx
      rw [hxy, hy] at hv
      simp at hv
    quiet := fun _ hq => by rw [hm] at hq; cases hq } {
    verdicts := fun m hm => by
      have hne := outside_ne hm (inScope sc l)
      rw [List.find?_append, find_filter_line hne]
      simp [Ne.symm hne]
    notices := fun _ _ => rfl })

/-! ### Frames, requests, states, paths -/

theorem LineEngine.hand_length (e : LineEngine) (chars : List Byte) :
    (e.hand chars).txQueue.length ≤ max 4 e.txQueue.length := by
  unfold LineEngine.hand
  split
  · next h =>
      simp only [LineEngine.accepts, Bool.and_eq_true, decide_eq_true_eq] at h
      simp only [List.length_append, List.length_cons, List.length_nil]
      omega
  · exact Nat.le_max_right ..

theorem Moves.hand (h : Moves sc s t) (f : Frame) : Moves sc s (t.hand l f) := h.onEngine fun e => e.hand_length _

theorem Moves.stepTag (h : Moves sc s t) : Moves sc s (t.stepTag l) := h.onContract

theorem Moves.handNew (h : Moves sc s t) (b : FrameBody) : Moves sc s (t.handNew l b) := (h.hand _).stepTag

/-- A report leaves alone what moves, paths and roles speak of. -/
theorem Contract.noteReport_keeps (c : Contract) (k : ReqKind) (now : Time) :
    (c.noteReport k now).options = c.options ∧ (c.noteReport k now).path = c.path ∧
      (c.noteReport k now).state = c.state ∧ (c.noteReport k now).role = c.role := by
  unfold Contract.noteReport
  split
  · exact ⟨rfl, rfl, rfl, rfl⟩
  · split <;> exact ⟨rfl, rfl, rfl, rfl⟩
  all_goals exact ⟨rfl, rfl, rfl, rfl⟩

theorem Moves.startTimer (h : Moves sc s t) : Moves sc s (t.startTimer l) := by
  refine h.onContract fun c => ?_
  split
  · rfl
  · rw [(Contract.noteReport_keeps ..).1]
    split <;> rfl

theorem Moves.sendRequest (h : Moves sc s t) (r : Request) : Moves sc s (t.sendRequest l r) := by
  have k : Moves sc s ((t.onEngine l fun e => e.hand r.chars).onContract l fun c =>
      { c with exchange := some ⟨r.kind, r.tag, r.chars, (t.engine l).nextId, r.expiries, none, none⟩ }) :=
    (h.onEngine fun e => e.hand_length _).onContract
  unfold State.sendRequest
  dsimp only
  split
  · exact k
  · exact k.startTimer

theorem Moves.handWaiting (h : Moves sc s t) : Moves sc s (t.handWaiting l) := by
  unfold State.handWaiting
  split
  · exact (h.onContract).sendRequest ..
  · exact h

theorem Moves.displace (h : Moves sc s t) (r : Request) : Moves sc s (t.displace l r) := by
  refine h.onContract fun c => ?_
  rw [(Contract.noteReport_keeps ..).1]
  split <;> rfl

theorem Moves.wait (h : Moves sc s t) (r : Request) : Moves sc s (t.wait l r) := by
  refine Moves.onContract ?_
  split
  · exact h.displace _
  · exact h

theorem Moves.originate (h : Moves sc s t) (r : Request) : Moves sc s (t.originate l r) := by
  unfold State.originate
  dsimp only
  split
  · exact h.handWaiting.sendRequest ..
  · exact h.handWaiting.wait _

theorem Moves.originateNew (h : Moves sc s t) (k : ReqKind) (b : FrameBody) : Moves sc s (t.originateNew l k b) :=
  h.stepTag.originate _

theorem Moves.closeExchange (h : Moves sc s t) : Moves sc s (t.closeExchange l) := h.onContract

theorem Moves.stray (h : Moves sc s t) : Moves sc s (t.stray l) := h.onHealth

theorem Moves.enter (h : Moves sc s t) (st : CState) : Moves sc s (t.enter l st) := h.onContract

theorem Channel.take_allocation (ch : Channel) (cmd : PathCommand) (now : Time) (capped : Bool) :
    (ch.take cmd now capped).allocation = ch.allocation := by
  unfold Channel.take
  dsimp only
  split <;> rfl

/-- R136: a command leaves the pending report of a trip, and clears the trip flag or leaves it. -/
theorem Channel.take_tripPends (ch : Channel) (cmd : PathCommand) (now : Time) (capped : Bool) (h : ch.TripPends) :
    (ch.take cmd now capped).TripPends := by
  have k : (ch.tripped && !(cmd.form == .opened)) = true → ch.due.any = true := fun hb => h (by simp_all)
  unfold Channel.take
  dsimp only
  split <;> exact k

/-- R136: after a command the channel has tripped or the command is in force. -/
theorem Channel.take_settles (ch : Channel) (cmd : PathCommand) (now : Time) (capped : Bool) :
    (ch.take cmd now capped).tripped = true ∨ (ch.take cmd now capped).command = cmd := by
  unfold Channel.take
  dsimp only
  split
  · next h => exact h.imp id Eq.symm
  · exact .inr rfl

/-- R136: OPEN clears the trip flag and is in force, on any channel. -/
theorem Channel.take_opened (ch : Channel) (now : Time) (capped : Bool) :
    (ch.take .opened now capped).tripped = false ∧ (ch.take .opened now capped).command = .opened := by
  have h : (ch.tripped && !(PathCommand.opened.form == .opened)) = false := by
    cases ch.tripped <;> rfl
  unfold Channel.take
  dsimp only
  rw [h]
  split
  · next hq =>
      rcases hq with hq | hq
      · cases hq
      · exact ⟨rfl, hq.symm⟩
  · exact ⟨rfl, rfl⟩

theorem Moves.command (h : Moves sc s t) (cmd : PathCommand) : Moves sc s (t.command l cmd) :=
  h.onChannel (fun c => c.take_allocation ..) fun c hc => c.take_tripPends _ _ _ hc

theorem Moves.endEvent (h : Moves sc s t) : Moves sc s (t.endEvent l) := (h.onContract).command _

/-! ### Queries -/

theorem Moves.afterQuery (h : Moves sc s t) (q : Query) (hq : q.line = l) : Moves sc s (t.afterQuery q) := by
  subst hq
  unfold State.afterQuery
  split
  · exact h
  · next i _ =>
      have k := h.snoc (.rules t i.val i.isLt (t.rules.get i).hit (Nat.min_le_left ..) (.inr rfl))
      dsimp only
      split
      · exact k.raise ..
      · exact k

/-! ### The budget -/

theorem Moves.setBudget (h : Moves sc s t) {b : Budget} (hb : BudgetStep t.budget b) (hd : t.budget.DrawSame b)
    (hs : BudgetScope sc t.budget b) : Moves sc s (t.setBudget b) := by
  have k := h.snoc (.budget t b hb hd hs)
  unfold State.setBudget
  dsimp only
  split
  · exact k.raisePart ..
  · exact k

theorem Moves.setDrawBudget (h : Moves sc s t) {b : Budget} (hb : BudgetStep t.budget b)
    (hs : BudgetScope sc t.budget b) : Moves sc s (t.setBudget b).reallocate := by
  have k := h.snoc (.drawBudget t b hb hs)
  unfold State.setBudget
  dsimp only
  split
  · exact k.raisePart ..
  · exact k

theorem Moves.rebuildMenu (h : Moves sc s t) : Moves sc s (t.rebuildMenu l) := by
  unfold State.rebuildMenu
  dsimp only
  split
  · exact h.onContract
  · exact (h.handNew _).onContract

theorem LineEngine.hand_same (e : LineEngine) (chars : List Byte) :
    (e.hand chars).SameButQueue e := by
  unfold LineEngine.hand LineEngine.SameButQueue
  split <;> rfl

omit [Fact (sc (some l))] in
/-- R91, R127: the rebuilding of a held menu, on a line in or outside the scope. -/
theorem Moves.rebuildHeld (h : Moves sc s t) (hw : (t.contract l).awaitsRise = true) : Moves sc s (t.rebuildMenu l) := by
  unfold State.rebuildMenu
  dsimp only
  split
  · exact h.snoc (.contract _ _ _ rfl (.inr ⟨hw, rfl⟩))
  · have k1 := h.snoc (.engine t l (fun e => e.hand (Frame.mk (t.contract l).tagCounter
      (.menu true (t.menu.toList.filterMap fun e => e.offer (t.supplyRoom l)))).chars) (LineEngine.hand_length ..)
      (.inr ⟨hw, LineEngine.hand_same ..⟩))
    have k2 := k1.snoc (.contract _ l (fun c => { c with tagCounter := c.tagCounter + 1 }) rfl (.inr ⟨hw, rfl⟩))
    exact k2.snoc (.contract _ l _ rfl (.inr ⟨by simpa [State.contract, State.onContract, State.onEngine, Contract.awaitsRise] using hw, rfl⟩))

theorem Moves.foldl {α : Type} (f : State → α → State) (hf : ∀ {u : State} (a : α), Moves sc s u → Moves sc s (f u a))
    (xs : List α) (h : Moves sc s t) : Moves sc s (xs.foldl f t) := by
  induction xs generalizing t with
  | nil => exact h
  | cons a as ih => exact ih (hf a h)

theorem Moves.reoffer (h : Moves sc s t) : Moves sc s t.reoffer := by
  refine Moves.foldl _ (fun a k => ?_) _ h
  split
  · next hw => exact k.rebuildHeld hw
  · exact k

theorem Moves.passRise (h : Moves sc s t) (n : Nat) : Moves sc s (t.passRise n) := by
  unfold State.passRise
  split
  · exact h.reoffer
  · exact h

/-- A claim of a line in the scope changes that line's commitments only. -/
theorem BudgetScope.claim (b : Budget) (d n : Nat) (c : Option DrawCopy) (gs : List GrantEntry) :
    BudgetScope sc b { b with
      drawCommit := b.drawCommit.set l d
      drawCopy := b.drawCopy.set l c
      supplyCommit := b.supplyCommit.set l n
      order := gs } where
  commitments := fun m hm => by
    have hne := outside_ne hm (inScope sc l)
    simp [Four.get_set_of_ne _ _ hne]
  ceilings := .inr ⟨rfl, rfl, rfl⟩

theorem Moves.claimDraw (h : Moves sc s t) : Moves sc s (t.claimDraw l) :=
  h.setDrawBudget ⟨id, id, rfl⟩ {
    commitments := fun m hm => by
      have hne := outside_ne hm (inScope sc l)
      simp [Four.get_set_of_ne _ _ hne]
    ceilings := .inr ⟨rfl, rfl, rfl⟩ }

theorem mem_putGrant (e : GrantEntry) (gs : List GrantEntry) (l : Line) :
    l ∈ (putGrant e gs).map GrantEntry.line ↔ l = e.line ∨ l ∈ gs.map GrantEntry.line := by
  induction gs with
  | nil => simp [putGrant]
  | cons g gs ih =>
      unfold putGrant
      split
      · next h => simp [h]
      · simp only [List.map_cons, List.mem_cons, ih]
        tauto

theorem putGrant_nodup (e : GrantEntry) {gs : List GrantEntry} (h : (gs.map GrantEntry.line).Nodup) :
    ((putGrant e gs).map GrantEntry.line).Nodup := by
  induction gs with
  | nil => simp [putGrant]
  | cons g gs ih =>
      simp only [List.map_cons, List.nodup_cons] at h
      unfold putGrant
      split
      · next hk =>
          simp only [List.map_cons, List.nodup_cons]
          rw [← hk]
          exact h
      · next hk =>
          simp only [List.map_cons, List.nodup_cons, mem_putGrant]
          exact ⟨fun hm => hm.elim hk h.1, ih h.2⟩

theorem putGrant_find (e : GrantEntry) (gs : List GrantEntry) (l : Line) :
    (putGrant e gs).find? (fun g => g.line == l) =
      if l = e.line then some e else gs.find? fun g => g.line == l := by
  induction gs with
  | nil =>
      by_cases h : l = e.line
      · simp [putGrant, h]
      · simp [putGrant, h, Ne.symm h]
  | cons g gs ih =>
      unfold putGrant
      split
      · next hk =>
          by_cases h : l = e.line
          · simp [h]
          · simp [h, hk, Ne.symm h]
      · next hk =>
          by_cases hg : g.line = l
          · simp [hg] at hk ⊢
            simp [hk]
          · simp [hg, ih]

theorem Budget.OrderOk.put {b : Budget} (h : b.OrderOk) (e : GrantEntry) :
    Budget.OrderOk { b with supplyCommit := b.supplyCommit.set e.line e.commitment, order := putGrant e b.order } := by
  refine ⟨putGrant_nodup e h.1, fun l => ?_⟩
  dsimp only
  rw [putGrant_find, Four.get_set]
  split
  · rfl
  · exact h.2 l

theorem Budget.OrderOk.remove {b : Budget} (h : b.OrderOk) (l : Line) :
    Budget.OrderOk { b with supplyCommit := b.supplyCommit.set l 0, order := b.order.filter fun g => !(g.line == l) } := by
  refine ⟨List.Nodup.sublist ((List.filter_sublist).map _) h.1, fun m => ?_⟩
  dsimp only
  rw [Four.get_set, List.find?_filter]
  split
  · next hm =>
      subst hm
      have : (fun g : GrantEntry => decide ((!(g.line == m)) = true ∧ (g.line == m) = true)) = fun _ => false := by
        funext g
        cases g.line == m <;> rfl
      rw [this]
      have none_found : ∀ gs : List GrantEntry, gs.find? (fun _ => false) = none := fun gs => by
        induction gs with
        | nil => rfl
        | cons _ _ ih => exact ih
      rw [none_found]
      rfl
  · next hm =>
      have : (fun g : GrantEntry => decide ((!(g.line == l)) = true ∧ (g.line == m) = true)) = fun g => g.line == m := by
        funext g
        by_cases hg : g.line = m
        · simp [hg, hm]
        · simp [hg]
      rw [this]
      exact h.2 m

theorem Moves.claimSupply (h : Moves sc s t) : Moves sc s (t.claimSupply l) := by
  unfold State.claimSupply
  dsimp only
  apply Moves.passRise
  refine Moves.setBudget h ⟨fun hb => hb.put ⟨l, _, _⟩, id, rfl⟩ ⟨rfl, rfl, rfl⟩ ⟨fun m hm => ?_, .inr ⟨rfl, rfl, rfl⟩⟩
  have hne := outside_ne hm (inScope sc l)
  simp [Four.get_set_of_ne _ _ hne]

theorem Moves.releaseBoth (h : Moves sc s t) : Moves sc s (t.releaseBoth l) := by
  unfold State.releaseBoth
  apply Moves.passRise
  exact Moves.setDrawBudget h ⟨fun hb => hb.remove l, id, rfl⟩ (BudgetScope.claim ..)

theorem Moves.sendRecall (h : Moves sc s t) (n : Nat) (c : RecallCause) : Moves sc s (t.sendRecall l n c) :=
  (h.onContract).originateNew ..

theorem Moves.recallCause (h : Moves sc s t) (n : Nat) (c : RecallCause) : Moves sc s (t.recallCause l n c) := by
  have k : ∀ x : Contract → Option RecallTarget, Moves sc s (t.onContract l fun c => { c with target := x c }) :=
    fun x => h.onContract
  unfold State.recallCause
  dsimp only
  split
  · exact k _
  · split
    · split
      · exact k _
      · split
        · split
          · exact h.sendRecall ..
          · exact h
        · exact h
    · exact h

theorem Moves.takeTarget (h : Moves sc s t) : Moves sc s (t.takeTarget l) := by
  have k : Moves sc s (t.onContract l fun c => { c with target := none }) := h.onContract
  unfold State.takeTarget
  dsimp only
  split
  · exact h
  · split
    · split
      · exact k.sendRecall ..
      · exact k
    · exact k

omit [Fact (sc (some l))] in
theorem Moves.recallWalk [∀ m, Fact (sc (some m))] (h : Moves sc s t) (gs : List GrantEntry) (n : Nat) : Moves sc s (t.recallWalk gs n) := by
  induction gs generalizing t n with
  | nil => exact h
  | cons g gs ih =>
      unfold State.recallWalk
      split
      · exact h
      · dsimp only
        apply ih
        have k : ∀ (p : Prop) [Decidable p] n, Moves sc s (if p then t.recallCause g.line n .budget else t) := by
          intro p _ n
          split
          · exact h.recallCause ..
          · exact h
        exact k ..

/-! ### Closings, faults and the greeting -/

theorem Moves.closing (h : Moves sc s t) {f : Contract → Contract}
    (hf : ∀ c, (f c).options = c.options := by exact fun _ => rfl) : Moves sc s (t.closing l f) := by
  have k : Moves sc s ((((t.dropVerdict l).onContract l f).releaseBoth l).onChannel l fun ch => { ch with energy := 0 }) :=
    ((h.dropVerdict.onContract hf).releaseBoth).onChannel
  unfold State.closing
  dsimp only
  split
  · exact k
  · exact k.raise ..

theorem Moves.closeToGreeting (h : Moves sc s t) (o : Option Outcome) : Moves sc s (t.closeToGreeting l o) :=
  h.closing

theorem Moves.closeToBlocked (h : Moves sc s t) (o : Outcome) : Moves sc s (t.closeToBlocked l o) := h.closing

theorem Moves.endToGreeting (h : Moves sc s t) (r : EndReason) (o : Outcome) : Moves sc s (t.endToGreeting l r o) :=
  (h.handNew _).closeToGreeting _

theorem Moves.endToBlocked (h : Moves sc s t) (r : EndReason) (o : Outcome) : Moves sc s (t.endToBlocked l r o) :=
  (h.handNew _).closeToBlocked _

theorem Moves.noSuitablePoint (h : Moves sc s t) : Moves sc s (t.noSuitablePoint l) :=
  (h.handNew _).closing

theorem Moves.enterFaulted (h : Moves sc s t) : Moves sc s (t.enterFaulted l) := by
  unfold State.enterFaulted
  dsimp only
  split
  · exact h
  · refine Moves.closing ?_
    split
    · exact (h.command _).handNew _
    · exact h.command _

theorem Capture.take_count (c : Capture) (cause : Cause) (st : CState) (kind : Option FrameKind) (now : Time) :
    (c.take cause st kind now).1.count ≤ 255 := by
  unfold Capture.take
  dsimp only
  split
  · split <;> exact Nat.min_le_left ..
  · exact Nat.zero_le _

theorem Moves.capture (h : Moves sc s t) (c : Cause) (k : Option FrameKind) (w : Time) : Moves sc s (t.capture l c k w) := by
  have m := h.snoc (.capture t l _ (Nat.le_trans
    (Capture.take_count (t.captures.get l) c (t.contract l).state k w) (Nat.le_max_left ..)) (inScope sc l))
  unfold State.capture
  dsimp only
  split
  · exact m.raise ..
  · exact m

theorem Moves.strike (h : Moves sc s t) : Moves sc s (t.strike l) := by
  have m := h.snoc (.strikes t l (min 255 (t.strikes.get l + 1)) (Nat.min_le_left ..) (inScope sc l))
  unfold State.strike
  dsimp only
  split
  · exact m.enterFaulted
  · exact m

theorem Moves.takeFaultOf (h : Moves sc s t) (c : Cause) (k : Option FrameKind) (w : Time) :
    Moves sc s (t.takeFaultOf l c k w) := by
  unfold State.takeFaultOf
  dsimp only
  split
  · exact (h.capture ..).enterFaulted
  · exact (h.capture ..).strike
  · exact h.capture ..

theorem Moves.takeFault (h : Moves sc s t) (c : Cause) (k : Option FrameKind) : Moves sc s (t.takeFault l c k) :=
  h.takeFaultOf ..

theorem Moves.sendAnnounce (h : Moves sc s t) : Moves sc s (t.sendAnnounce l) := h.originate _

theorem Moves.decideRole (h : Moves sc s t) : Moves sc s (t.decideRole l) := by
  unfold State.decideRole
  dsimp only
  split
  · exact h.onContract
  · split
    · exact (h.onContract).rebuildMenu
    · exact h.endToBlocked ..

theorem Moves.applyAnnounce (h : Moves sc s t) (ans : Bool) (a : Action) (n : Nat) :
    Moves sc s (t.applyAnnounce l ans a n) := by
  have acc : ∀ {u}, Moves sc s u → Moves sc s ((if ans then u else u.hand l ⟨1, u.announce l true⟩).decideRole l) := by
    intro u k
    apply Moves.decideRole
    split
    · exact k
    · exact k.hand _
  unfold State.applyAnnounce
  dsimp only
  split
  · exact acc h
  · exact acc (h.onContract)
  · exact h.endToBlocked ..
  · exact h
  · exact h

theorem Moves.holdDecision (h : Moves sc s t) (w : Forwarded) (g : Tag) (b : CState) : Moves sc s (t.holdDecision l w g b) :=
  h.onContract

theorem Moves.processAnnounce (h : Moves sc s t) (ans : Bool) (far : FarFields) (r : Bool) (raw : List Byte) :
    Moves sc s (t.processAnnounce l ans far r raw) := by
  have k := (h.onContract (l := l) (f := fun c => { c with far := some far, farRecall := some r, lineClamp := none })).afterQuery ((t.onContract l fun c =>
      { c with far := some far, farRecall := some r, lineClamp := none }).contract l |>.queryBase l .announce) (l := l) rfl
  unfold State.processAnnounce
  dsimp only
  split
  · split
    · next hm => exact (k.holdDecision ..).openVerdict _ _ _ hm
    · exact k.applyAnnounce ..
  · exact k.applyAnnounce ..

theorem Moves.farRestart (h : Moves sc s t) : Moves sc s (t.farRestart l) := h.closing

theorem Moves.supersede (h : Moves sc s t) : Moves sc s (t.supersede l) := by
  unfold State.supersede
  split
  · exact h
  · refine h.dropVerdict.onContract fun c => ?_
    dsimp only
    split <;> rfl

/-! ### Drawing -/

theorem Moves.filter (h : Moves sc s t) (i : Nat) (ps : List FarPoint) : Moves sc s (State.filter l none t i ps).1 := by
  induction ps generalizing t i with
  | nil => exact h
  | cons p ps ih =>
      unfold State.filter
      dsimp only
      split
      · exact h.afterQuery (l := l) _ rfl
      · exact ih (h.afterQuery (l := l) _ rfl) _

theorem Moves.sendClaim (h : Moves sc s t) (k : Cursor) (f : ClaimFields) : Moves sc s (t.sendClaim l k f) :=
  ((h.onContract).claimDraw).originateNew ..

theorem Moves.select (h : Moves sc s t) (k : Cursor) : Moves sc s (t.select l k) := by
  unfold State.select
  dsimp only
  split
  · exact h.sendClaim ..
  · exact h.noSuitablePoint

theorem Moves.advance (h : Moves sc s t) : Moves sc s (t.advance l) := h.select _

theorem Moves.applyMenu (h : Moves sc s t) (a : Action) (n : Nat) : Moves sc s (t.applyMenu l a n) :=
  (h.onContract).select _

theorem Moves.processMenu (h : Moves sc s t) : Moves sc s (t.processMenu l none) := by
  have k : Moves sc s (t.onContract l Contract.beginMenu) := h.onContract
  unfold State.processMenu
  dsimp only
  split
  · exact k
  · next m _ =>
      have j : ∀ x, Moves sc s ((State.filter l none (t.onContract l Contract.beginMenu) 0 m.points).1.onContract l fun c =>
          { c with farMenu := x }) := fun x => (k.filter _ _).onContract
      split
      · exact (j _).select _
      · split
        · exact (j _).applyMenu ..
        · next hm => exact (((j _).holdDecision ..).openVerdict _ _ _ hm).enter _

theorem Moves.reselect (h : Moves sc s t) : Moves sc s (t.reselect l none) := by
  unfold State.reselect
  dsimp only
  split
  · exact h.processMenu
  · exact h

theorem Moves.dropClaim (h : Moves sc s t) : Moves sc s (t.dropClaim l) := (h.onContract).claimDraw

theorem Moves.abandonClaim (h : Moves sc s t) : Moves sc s (t.abandonClaim l) := (h.onContract).dropClaim

theorem Moves.nowActive (h : Moves sc s t) : Moves sc s (t.nowActive l) :=
  ((h.record _).raiseAgreed.clearStrikes).onContract

theorem Moves.enterActiveDraw (h : Moves sc s t) (r : Time) : Moves sc s (t.enterActiveDraw l r none) := by
  unfold State.enterActiveDraw
  dsimp only
  split
  · exact ((h.onContract.command _).nowActive).reselect
  · exact (h.onContract.command _).nowActive

/-! ### Supplying, and decisions -/

theorem Moves.answerWait (h : Moves sc s t) (g : Tag) : Moves sc s (t.answerWait l g) := h.hand _

theorem Moves.deny (h : Moves sc s t) (g : Tag) (r : DenyReason) : Moves sc s (t.deny l g r) := h.hand _

theorem Moves.grantClaim (h : Moves sc s t) (g : Tag) (f : ClaimFields) (n : Nat) : Moves sc s (t.grantClaim l g f n) :=
  (((h.onContract).claimSupply).hand _).enter _

theorem Moves.admission (h : Moves sc s t) (g : Tag) (f : ClaimFields) (c : Option Nat) : Moves sc s (t.admission l g f c) := by
  unfold State.admission
  dsimp only
  split
  · exact h.grantClaim ..
  · exact h.answerWait _

theorem Moves.applyClaim (h : Moves sc s t) (g : Tag) (f : ClaimFields) (a : Action) (n : Nat) :
    Moves sc s (t.applyClaim l g f a n) := by
  unfold State.applyClaim
  split
  · exact h.admission ..
  · exact h.admission ..
  · exact h.deny ..
  · exact h.answerWait _
  · exact h.answerWait _

theorem Moves.queryClaim (h : Moves sc s t) (g : Tag) (f : ClaimFields) (raw : List Byte) :
    Moves sc s (t.queryClaim l g f raw) := by
  have k := h.afterQuery (l := l) ((t.contract l).claimQuery l f) rfl
  unfold State.queryClaim
  dsimp only
  split
  · split
    · next hm =>
        split
        · exact ((k.holdDecision ..).openVerdict _ _ _ hm).enter _
        · exact (k.holdDecision ..).openVerdict _ _ _ hm
    · exact k.applyClaim ..
  · exact k.applyClaim ..

theorem Moves.takeClaim (h : Moves sc s t) (g : Tag) (f : ClaimFields) (raw : List Byte) :
    Moves sc s (t.takeClaim l g f raw) := by
  unfold State.takeClaim
  dsimp only
  split
  · exact h.deny ..
  · split
    · exact h.deny ..
    · split
      · exact (h.deny ..).onContract
      · split
        · exact h.answerWait _
        · exact h.queryClaim ..

theorem Moves.lowerSupply (h : Moves sc s t) (n : Nat) : Moves sc s (t.lowerSupply l n) :=
  ((h.onContract).command _).claimSupply

theorem Moves.forceRecall (h : Moves sc s t) : Moves sc s (t.forceRecall l) := by
  unfold State.forceRecall
  split
  · exact h
  · exact (((h.lowerSupply _).record _).takeFault ..).raiseAgreed.takeTarget

theorem Moves.settled (h : Moves sc s t) (v : Nat) : Moves sc s (t.settled l v) := by
  unfold State.settled
  split
  · exact h
  · exact (((((h.hand _).onContract).claimSupply).onContract).command _).nowActive.takeTarget

theorem Moves.leaveDeciding (h : Moves sc s t) : Moves sc s (t.leaveDeciding l) := by
  refine h.onContract fun c => ?_
  dsimp only
  split <;> rfl

theorem Moves.emptyDecision (h : Moves sc s t) : Moves sc s (t.emptyDecision l) := h.onContract

theorem Moves.applyDecision (h : Moves sc s t) (a : Action) (n : Nat) : Moves sc s (t.applyDecision l a n) := by
  unfold State.applyDecision
  split
  · exact h
  · apply Moves.endEvent
    split
    · exact h.emptyDecision.applyAnnounce ..
    · exact h.emptyDecision.applyMenu ..
    · dsimp only
      split
      · exact h.leaveDeciding.answerWait _
      · exact h.leaveDeciding.applyClaim ..

omit [Fact (sc (some l))] in
theorem Moves.fallback (h : Moves sc s t) (v : VerdictEntry) [Fact (sc (some v.line))] : Moves sc s (t.fallback v) := h.dropVerdict.applyDecision ..

omit [Fact (sc (some l))] in
theorem Moves.resolveAll [∀ m, Fact (sc (some m))] (h : Moves sc s t) (f : LinkUnit → LinkUnit)
    (hf : LinkStep t.link { f t.link with verdicts := [] }) : Moves sc s (t.resolveAll f) := by
  refine Moves.foldl _ (fun v k => k.fallback v) _ ?_
  exact (h.snoc (.free t (allInScope sc))).snoc (.link _ (fun u => { f u with verdicts := [] }) hf (.whole (allInScope sc)))

/-! ### Exchanges and line engines -/

theorem Moves.giveUpAnnounce (h : Moves sc s t) (b : Time) (x : Bool) : Moves sc s (t.giveUpAnnounce l b x) := by
  refine h.onContract fun c => ?_
  split
  · split
    · rfl
    · split <;> rfl
  · split <;> rfl

theorem Moves.expire (h : Moves sc s t) (x : Exchange) (b : Bool) : Moves sc s (t.expire l x b) := by
  have k : Moves sc s (if x.expiries = 0 then t.sendRequest l ⟨x.kind, x.tag, x.chars, 1⟩
      else t.closeToGreeting l (if b then none else some .noAnswer)) := by
    split
    · exact h.sendRequest ..
    · exact h.closeToGreeting _
  unfold State.expire
  split
  · exact h.closeExchange.giveUpAnnounce ..
  · exact k
  · exact k
  · exact h
  · exact h.forceRecall

theorem Moves.expireDisplaced (h : Moves sc s t) (x : Exchange) : Moves sc s (t.expireDisplaced l x) := by
  have k : Moves sc s (if x.expiries = 0 then t.originate l ⟨x.kind, x.tag, x.chars, 1⟩
      else t.closeToGreeting l (some .noAnswer)) := by
    split
    · exact h.originate _
    · exact h.closeToGreeting _
  unfold State.expireDisplaced
  split
  · exact h.giveUpAnnounce ..
  · exact k
  · exact k
  · exact h
  · exact h

theorem Moves.slowReport (h : Moves sc s t) (i : Nat) : Moves sc s (t.slowReport l i) := by
  unfold State.slowReport
  split
  · exact h.onContract
  · exact h

theorem Moves.reported (h : Moves sc s t) (i : Nat) : Moves sc s (t.reported l i) := by
  unfold State.reported
  split
  · split
    · exact h.startTimer
    · exact h.slowReport _
  · exact h.slowReport _

theorem Moves.reportFailed (h : Moves sc s t) (i : Nat) : Moves sc s (t.reportFailed l i) := by
  unfold State.reportFailed
  split
  · split
    · exact (h.record _).expire ..
    · exact h.slowReport _
  · exact h.slowReport _

theorem LineEngine.finishHead_length (e : LineEngine) : e.finishHead.txQueue.length ≤ max 4 e.txQueue.length := by
  simp only [LineEngine.finishHead, List.length_tail]
  omega

theorem Moves.failHead (h : Moves sc s t) (f : Health → Health) (c : Cause) : Moves sc s (t.failHead l f c) := by
  unfold State.failHead
  split
  · exact h
  · exact (((h.onHealth).takeFault ..).onEngine LineEngine.finishHead_length).reportFailed _

theorem Moves.clearRx (h : Moves sc s t) (side : RxSide) : Moves sc s (t.onEngine l fun e => e.clearRx side) :=
  h.onEngine

theorem Moves.retryHead (h : Moves sc s t) (f : TxFrame) (hq : (t.engine l).txQueue ≠ []) : Moves sc s (t.retryHead l f) := by
  unfold State.retryHead
  refine Moves.takeFault (Moves.onHealth (h.snoc (.engine t l _ ?_ (.inl (inScope sc l))))) ..
  have : 0 < (t.engine l).txQueue.length := List.length_pos_of_ne_nil hq
  simp only [List.length_cons, List.length_tail]
  omega

theorem Moves.restartDelay (h : Moves sc s t) : Moves sc s (t.restartDelay l) := h.onContract

theorem Moves.frameEvent (h : Moves sc s t) (f : Health → Health) : Moves sc s (t.frameEvent l f) := h.onHealth

theorem Moves.takeMalformed (h : Moves sc s t) (k : Option FrameKind) : Moves sc s (t.takeMalformed l k) := by
  unfold State.takeMalformed
  exact ((h.frameEvent _).restartDelay.onContract).takeFault ..

theorem Moves.conventionError (h : Moves sc s t) : Moves sc s (t.conventionError l) := by
  unfold State.conventionError
  exact ((h.clearRx _).frameEvent _).takeFault ..

end Sys2Proof.Machine
end

