-- ==== Sys2Proof/Laws/Frames.lean ====
section
/-! SUPPORT. What a chain of moves with a scope leaves to the lines outside it (`Moves.outside`, `Moves.frame`), and how events
settle a line's path (`Event`, `Part`). -/

namespace Sys2Proof.Machine

set_option Elab.async false

/-- The scope that is one line, without trips. -/
def only (l : Line) (o : Option Line) : Prop := o = some l

/-- The scope that is one line, with trips. -/
def oneLine (l : Line) (o : Option Line) : Prop := o = some l ∨ o = none

/-- The scope that is the whole part. -/
def whole (_ : Option Line) : Prop := True

theorem onlyFact (l : Line) : Fact (only l (some l)) := ⟨rfl⟩

theorem oneLineFact (l : Line) : Fact (oneLine l (some l)) := ⟨.inl rfl⟩

theorem wholeFact : ∀ m, Fact (whole (some m)) := fun _ => ⟨trivial⟩

theorem not_oneLine (l : Line) (h : ∀ m, oneLine l (some m)) : False := by
  have h0 := h .l0
  have h1 := h .l1
  simp only [oneLine, Option.some.injEq, reduceCtorEq, or_false] at h0 h1
  rw [← h0] at h1
  cases h1

theorem outside_oneLine {l m : Line} (h : m ≠ l) : ¬ oneLine l (some m) := by simp [oneLine, h]

/-- A wider scope allows what a narrower one does. -/
theorem Move.mono {sc sd : Option Line → Prop} (hs : ∀ o, sc o → sd o) {s t : State} (h : Move sc s t) : Move sd s t := by
  have hl : ∀ {u v : LinkUnit}, LinkScope sc u v → LinkScope sd u v := fun h =>
    ⟨fun m hm => h.verdicts m fun k => hm (hs _ k), fun m hm => h.notices m fun k => hm (hs _ k)⟩
  have hb : ∀ {b c : Budget}, BudgetScope sc b c → BudgetScope sd b c := fun h =>
    ⟨fun m hm => h.commitments m fun k => hm (hs _ k), h.ceilings.imp (fun k m => hs _ (k m)) id⟩
  cases h with
  | engine l f h k => exact .engine _ l f h (k.imp (hs _) id)
  | contract l f h k => exact .contract _ l f h (k.imp (hs _) id)
  | options l o h k b => exact .options _ l o h (hs _ k) b
  | rebase l o h k => exact .rebase _ l o h (hs _ k)
  | channel l f h ht k => exact .channel _ l f h (ht.imp (hs _) id) (hs _ k)
  | link f h k => exact .link _ f h (hl k)
  | budget b h hd k => exact .budget _ b h hd (hb k)
  | drawBudget b h k => exact .drawBudget _ b h (hb k)
  | rules i hi e h k => exact .rules _ i hi e h (k.imp (fun k m => hs _ (k m)) id)
  | prefs p k => exact .prefs _ p fun m => hs _ (k m)
  | menu p k => exact .menu _ p fun m => hs _ (k m)
  | capture l c h k => exact .capture _ l c h (hs _ k)
  | strikes l n h k => exact .strikes _ l n h (hs _ k)
  | free k => exact .free _ fun m => hs _ (k m)
  | tick k => exact .tick _ fun m => hs _ (k m)
  | resetBlocks k => exact .resetBlocks _ fun m => hs _ (k m)
  | powerOn pins k => exact .powerOn _ pins fun m => hs _ (k m)

theorem Moves.mono {sc sd : Option Line → Prop} (hs : ∀ o, sc o → sd o) {s t : State} (h : Moves sc s t) : Moves sd s t := by
  induction h with
  | refl => exact .refl _
  | snoc _ m ih => exact ih.snoc (m.mono hs)

/-! ### Reading a line after a basic update -/

theorem State.engine_onEngine (s : State) (l m : Line) (f : LineEngine → LineEngine) :
    (s.onEngine l f).engine m = if m = l then f (s.engine l) else s.engine m := by
  simp only [State.engine, State.onEngine, Four.get_set]

theorem State.contract_onContract (s : State) (l m : Line) (f : Contract → Contract) :
    (s.onContract l f).contract m = if m = l then f (s.contract l) else s.contract m := by
  simp only [State.contract, State.onContract, Four.get_set]

theorem State.channel_onChannel (s : State) (l m : Line) (f : Channel → Channel) :
    (s.onChannel l f).channel m = if m = l then f (s.channel l) else s.channel m := by
  simp only [State.channel, State.onChannel, Four.get_set]

/-- R128, R137: what a channel is after the allocations are handed out. -/
theorem State.channel_reallocate (s : State) (m : Line) :
    s.reallocate.channel m =
      { s.channel m with allocation := (s.reallocate.budget.alloc.get m).map Allocation.current } := by
  cases m <;> rfl

/-! ### Lines outside the scope -/

/-- What a move leaves to a line outside its scope. -/
structure Outside (m : Line) (s t : State) : Prop where
  waiting : (t.contract m).SameButOffer (s.contract m) ∧ (t.engine m).SameButQueue (s.engine m)
  lines : (s.contract m).awaitsRise = false → t.contract m = s.contract m ∧ t.engine m = s.engine m
  channel : { t.channel m with allocation := none } = { s.channel m with allocation := none }
  capture : t.captures.get m = s.captures.get m
  strikes : t.strikes.get m = s.strikes.get m
  commitments : t.budget.drawCommit.get m = s.budget.drawCommit.get m ∧
    t.budget.drawCopy.get m = s.budget.drawCopy.get m ∧ t.budget.supplyCommit.get m = s.budget.supplyCommit.get m
  verdict : t.verdictOf m = s.verdictOf m
  notices : (t.link.notices.filter fun n => n.source == .line m) = s.link.notices.filter fun n => n.source == .line m

theorem Outside.refl (m : Line) (s : State) : Outside m s s :=
  ⟨⟨rfl, rfl⟩, fun _ => ⟨rfl, rfl⟩, rfl, rfl, rfl, ⟨rfl, rfl, rfl⟩, rfl, rfl⟩

theorem Outside.trans {m : Line} {s t u : State} (h : Outside m s t) (k : Outside m t u) : Outside m s u where
  waiting := ⟨k.waiting.1.trans h.waiting.1, k.waiting.2.trans h.waiting.2⟩
  lines := fun hs => by
    have h1 := h.lines hs
    have k1 := k.lines (by rw [h1.1]; exact hs)
    exact ⟨k1.1.trans h1.1, k1.2.trans h1.2⟩
  channel := k.channel.trans h.channel
  capture := k.capture.trans h.capture
  strikes := k.strikes.trans h.strikes
  commitments := ⟨k.commitments.1.trans h.commitments.1, k.commitments.2.1.trans h.commitments.2.1,
    k.commitments.2.2.trans h.commitments.2.2⟩
  verdict := k.verdict.trans h.verdict
  notices := k.notices.trans h.notices

theorem Move.outside {sc : Option Line → Prop} {s t : State} (h : Move sc s t) {m : Line} (hm : ¬ sc (some m)) : Outside m s t := by
  have base := Outside.refl m s
  have bad : (∀ x, sc (some x)) → Outside m s t := fun k => absurd (k m) hm
  cases h with
  | engine l f h k =>
      refine { base with waiting := ?_, lines := ?_ }
      · refine ⟨rfl, ?_⟩
        rw [State.engine_onEngine]
        split
        · next he => subst he; exact (k.resolve_left hm).2
        · rfl
      · intro hw
        refine ⟨rfl, ?_⟩
        rw [State.engine_onEngine]
        split
        · next he => subst he; rw [hw] at k; exact absurd k (by simp [hm])
        · rfl
  | contract l f h k =>
      refine { base with waiting := ?_, lines := ?_ }
      · refine ⟨?_, rfl⟩
        rw [State.contract_onContract]
        split
        · next he => subst he; exact (k.resolve_left hm).2
        · rfl
      · intro hw
        refine ⟨?_, rfl⟩
        rw [State.contract_onContract]
        split
        · next he => subst he; rw [hw] at k; exact absurd k (by simp [hm])
        · rfl
  | options l o h k b =>
      have hc : (s.onContract l fun c => { c with options := o }).contract m = s.contract m := by
        rw [State.contract_onContract, if_neg (outside_ne hm k)]
      exact { base with waiting := ⟨by rw [hc]; rfl, rfl⟩, lines := fun _ => ⟨hc, rfl⟩ }
  | rebase l o h k =>
      have hc : (s.onContract l fun c => { c with options := o }).reallocate.contract m = s.contract m := by
        show (s.onContract l fun c => { c with options := o }).contract m = s.contract m
        rw [State.contract_onContract, if_neg (outside_ne hm k)]
      exact { base with
        waiting := ⟨by rw [hc]; rfl, rfl⟩
        lines := fun _ => ⟨hc, rfl⟩
        channel := by rw [State.channel_reallocate]; rfl }
  | channel l f h ht k =>
      refine { base with channel := ?_ }
      rw [State.channel_onChannel, if_neg (outside_ne hm k)]
  | link f h k => exact { base with verdict := k.verdicts m hm, notices := k.notices m hm }
  | budget b h hd k => exact { base with commitments := k.commitments m hm }
  | drawBudget b h k =>
      refine { base with commitments := k.commitments m hm, channel := ?_ }
      rw [State.channel_reallocate]
      rfl
  | rules i hi e h k => exact { base with }
  | prefs p k => exact bad k
  | menu p k => exact bad k
  | capture l c h k => exact { base with capture := Four.get_set_of_ne _ _ (outside_ne hm k) }
  | strikes l n h k => exact { base with strikes := Four.get_set_of_ne _ _ (outside_ne hm k) }
  | free k => exact bad k
  | tick k => exact bad k
  | resetBlocks k => exact bad k
  | powerOn pins k => exact bad k

/-- A line outside the scope of a chain. -/
theorem Moves.outside {sc : Option Line → Prop} {s t : State} (h : Moves sc s t) {m : Line} (hm : ¬ sc (some m)) : Outside m s t := by
  induction h with
  | refl => exact .refl m _
  | snoc _ k ih => exact ih.trans (k.outside hm)

/-- What a chain that is not of the whole part leaves alone of the part. -/
structure Common (s t : State) : Prop where
  now : t.now = s.now
  straps : t.straps = s.straps
  prefs : t.prefs = s.prefs
  menu : t.menu = s.menu
  rules : ∀ i : Fin 32, { t.rules.get i with hits := 0 } = { s.rules.get i with hits := 0 }
  ceilings : t.budget.inputCeiling = s.budget.inputCeiling ∧ t.budget.supplyCeiling = s.budget.supplyCeiling ∧
    t.budget.rank = s.budget.rank

theorem Moves.common {l : Line} {s t : State} (h : Moves (oneLine l) s t) : Common s t := by
  have no : (∀ m, oneLine l (some m)) → ∀ {p : Prop}, p := fun k => (not_oneLine l k).elim
  induction h with
  | refl => exact ⟨rfl, rfl, rfl, rfl, fun _ => rfl, rfl, rfl, rfl⟩
  | snoc _ k ih =>
      cases k with
      | budget b h hd k =>
          rcases k.ceilings with c | c
          · exact no c
          · exact { ih with ceilings := ⟨c.1.trans ih.ceilings.1, c.2.1.trans ih.ceilings.2.1, c.2.2.trans ih.ceilings.2.2⟩ }
      | drawBudget b h k =>
          rcases k.ceilings with c | c
          · exact no c
          · exact { ih with ceilings := ⟨c.1.trans ih.ceilings.1, c.2.1.trans ih.ceilings.2.1, c.2.2.trans ih.ceilings.2.2⟩ }
      | rules i hi e h k =>
          rcases k with c | c
          · exact no c
          · refine { ih with rules := fun j => ?_ }
            rw [← ih.rules j]
            simp only [Vector.get_eq_getElem, Vector.getElem_set]
            split
            · next hj => subst hj; exact c
            · rfl
      | prefs p k => exact no k
      | menu p k => exact no k
      | free k => exact no k
      | tick k => exact no k
      | resetBlocks k => exact no k
      | powerOn pins k => exact no k
      | _ => exact { ih with }

/-- What an event of one line leaves alone. -/
theorem Moves.frame {l : Line} {s t : State} (h : Moves (oneLine l) s t) : LineFrame l s t :=
  have c := h.common
  have o : ∀ m, m ≠ l → Outside m s t := fun _ hm => h.outside (outside_oneLine hm)
  { now := c.now
    straps := c.straps
    prefs := c.prefs
    menu := c.menu
    rules := c.rules
    ceilings := c.ceilings
    commitments := fun m hm => (o m hm).commitments
    captures := fun m hm => (o m hm).capture
    strikes := fun m hm => (o m hm).strikes
    channels := fun m hm => (o m hm).channel
    lines := fun m hm => (o m hm).lines
    waiting := fun m hm => (o m hm).waiting
    verdicts := fun m hm => (o m hm).verdict
    notices := fun m hm => (o m hm).notices }

/-! ### Settling -/

/-- Nothing a path command is made of has changed on the line. -/
structure Still (l : Line) (s t : State) : Prop where
  tripped : (t.channel l).tripped = (s.channel l).tripped
  due : (t.channel l).due = (s.channel l).due
  command : (t.channel l).command = (s.channel l).command
  path : (t.contract l).path = (s.contract l).path
  state : (t.contract l).state = (s.contract l).state
  role : (t.contract l).role = (s.contract l).role

/-- A line whose contract record and channel are the same keeps its path. -/
theorem Still.ofBlocks {l : Line} {s t : State} (hc : t.contract l = s.contract l) (hd : t.channel l = s.channel l) : Still l s t where
  tripped := congrArg Channel.tripped hd
  due := congrArg Channel.due hd
  command := congrArg Channel.command hd
  path := congrArg Contract.path hc
  state := congrArg Contract.state hc
  role := congrArg Contract.role hc

theorem Still.sound {l : Line} {s t : State} (h : Still l s t) (k : s.LineSound l) : t.LineSound l :=
  ⟨by rw [h.state, h.role]; exact k.1, by rw [Channel.TripPends, h.tripped, h.due]; exact k.2.1,
    by rw [h.tripped, h.command, h.path]; exact k.2.2⟩

theorem Contract.SameButOffer.path {c d : Contract} (h : c.SameButOffer d) :
    c.path = d.path ∧ c.state = d.state ∧ c.role = d.role := by
  have p := congrArg Contract.path h
  have q := congrArg Contract.state h
  have r := congrArg Contract.role h
  exact ⟨p, q, r⟩

/-- A line outside the scope stays as settled as it was. -/
theorem Outside.still {m : Line} {s t : State} (h : Outside m s t) : Still m s t :=
  have p := h.waiting.1.path
  have a := congrArg Channel.tripped h.channel
  have d := congrArg Channel.due h.channel
  have b := congrArg Channel.command h.channel
  ⟨a, d, b, p.1, p.2.1, p.2.2⟩

/-- A chain that reports no trip leaves a report pending on every channel that has tripped. -/
theorem Moves.tripPends {sc : Option Line → Prop} {s t : State} (hn : ¬ sc none) (h : Moves sc s t) (m : Line)
    (k : (s.channel m).TripPends) : (t.channel m).TripPends := by
  induction h with
  | refl => exact k
  | snoc _ v ih =>
      cases v with
      | channel l f h ht _ =>
          rw [State.channel_onChannel]
          split
          · next he => subst he; exact (ht.resolve_left hn) ih
          · exact ih
      | rebase l o h _ => rw [State.channel_reallocate]; exact ih
      | drawBudget b h _ => rw [State.channel_reallocate]; exact ih
      | resetBlocks _ => cases m <;> exact nofun
      | powerOn pins _ => cases m <;> exact nofun
      | _ => exact ih

theorem roleOf_idem (st : CState) (r : Role) : roleOf st (roleOf st r) = roleOf st r := by cases st <;> rfl

/-- R43: what the end of an event leaves of its line's contract. -/
theorem State.contract_endEvent (s : State) (l : Line) :
    (s.endEvent l).contract l = { s.contract l with role := roleOf (s.contract l).state (s.contract l).role } := by
  show ((s.onContract l fun c => { c with role := roleOf c.state c.role }).contract l) = _
  rw [State.contract_onContract, if_pos rfl]

/-- R43, R136: what it leaves of its line's channel. -/
theorem State.channel_endEvent (s : State) (l : Line) : (s.endEvent l).channel l =
    (s.channel l).take ((s.endEvent l).contract l).path s.now ((s.endEvent l).contract l).options.capped := by
  have e : (s.endEvent l).contract l = (s.onContract l fun c => { c with role := roleOf c.state c.role }).contract l := rfl
  rw [e]
  show ((s.onContract l fun c => { c with role := roleOf c.state c.role }).onChannel l _).channel l = _
  rw [State.channel_onChannel, if_pos rfl]
  rfl

/-- R43: the end of an event leaves its line sound. -/
theorem State.sound_endEvent (s : State) (l : Line) (h : (s.channel l).TripPends) : (s.endEvent l).LineSound l := by
  refine ⟨?_, ?_, ?_⟩
  · rw [State.contract_endEvent]
    exact roleOf_idem _ _
  · rw [State.channel_endEvent]
    exact Channel.take_tripPends _ _ _ _ h
  · rw [State.channel_endEvent]
    exact Channel.take_settles ..

/-- An event of one line: moves with that line as scope, which leave the line sound where it was. -/
structure Event (l : Line) (s t : State) : Prop where
  moves : Moves (oneLine l) s t
  sound : s.LineSound l → t.LineSound l

variable {l : Line} {s t u : State}

theorem Moves.wide (h : Moves (only l) s t) : Moves (oneLine l) s t := h.mono fun _ => .inl

theorem Event.same : Event l s s := ⟨.refl s, id⟩

theorem Event.ended (h : Moves (only l) s t) : Event l s (t.endEvent l) :=
  have := onlyFact l
  ⟨h.endEvent.wide, fun k => State.sound_endEvent t l (h.tripPends (by simp [only]) l k.2.1)⟩

theorem Event.still (h : Moves (only l) s t) (k : Still l s t := by exact ⟨rfl, rfl, rfl, rfl, rfl, rfl⟩) : Event l s t :=
  ⟨h.wide, k.sound⟩

theorem Event.trans (h : Event l s t) (k : Event l t u) : Event l s u := ⟨h.moves.trans k.moves, k.sound ∘ h.sound⟩

/-- What the whole part does: moves, which leave every line sound that was. -/
structure Part (s t : State) : Prop where
  moves : Moves whole s t
  sound : ∀ m, s.LineSound m → t.LineSound m

theorem Event.soundAll (h : Event l s t) (m : Line) (k : s.LineSound m) : t.LineSound m := by
  by_cases hm : m = l
  · subst hm
    exact h.sound k
  · exact (h.moves.outside (outside_oneLine hm)).still.sound k

theorem Event.part (h : Event l s t) : Part s t := ⟨h.moves.mono fun _ _ => trivial, h.soundAll⟩

theorem Part.same : Part s s := ⟨.refl s, fun _ => id⟩

theorem Part.trans (h : Part s t) (k : Part t u) : Part s u := ⟨h.moves.trans k.moves, fun m => k.sound m ∘ h.sound m⟩

theorem Part.still (h : Moves whole s t) (k : ∀ m, Still m s t := by exact fun _ => ⟨rfl, rfl, rfl, rfl, rfl, rfl⟩) : Part s t :=
  ⟨h, fun m => (k m).sound⟩

theorem Part.foldl {α : Type} (f : State → α → State) (hf : ∀ u a, Part u (f u a)) (xs : List α) (s : State) :
    Part s (xs.foldl f s) := by
  induction xs generalizing s with
  | nil => exact .same
  | cons a as ih => exact (hf s a).trans (ih _)

end Sys2Proof.Machine
end

