-- ==== Sys2Proof/Laws/Commands.lean ====
section
/-! SUPPORT. Every command answers a next state, and that state is reached by moves and the queueing of RESPONSEs, each while
fewer than 4 stand: `exec_effect`. -/

namespace Sys2Proof.Machine

set_option Elab.async false

/-- The scope of a command about a line, or about the part as a whole. -/
def scopeOf : Option Line → Option Line → Prop
  | some l => oneLine l
  | none => whole

/-- What a command does: moves, and for each REQUEST or VERDICT that is taken one RESPONSE, queued while fewer than 4 stand. -/
inductive Effect (sc : Option Line → Prop) : State → State → Prop where
  | silent {s t : State} (h : Moves sc s t) : Effect sc s t
  | answered {s t : State} (h : Moves sc s t) (r : Response) (hr : t.link.responses.length < 4) : Effect sc s (t.respond r)
  | trans {s t u : State} (h : Effect sc s t) (k : Effect sc t u) : Effect sc s u

/-- An outcome that is a next state reached by an effect, in which every line is sound that was before. -/
def Leads (o : Option Line) (s : State) (out : StepOutcome) : Prop :=
  ∃ t, out = .next t ∧ Effect (scopeOf o) s t ∧ ∀ m, s.LineSound m → t.LineSound m

/-- A property that moves and the queueing of a RESPONSE keep is kept by every effect. -/
theorem Effect.keeps {sc : Option Line → Prop} {P : State → Prop} (hm : ∀ s t, Move sc s t → P s → P t)
    (hr : ∀ s r, s.link.responses.length < 4 → P s → P (s.respond r)) {s t : State} (h : Effect sc s t) : P s → P t := by
  induction h with
  | silent h => exact h.keeps hm
  | answered h r hl => exact fun hp => hr _ r hl (h.keeps hm hp)
  | trans _ _ ih ik => exact ik ∘ ih

/-- What two events of one line, one after the other, leave alone. -/
theorem LineFrame.trans {l : Line} {s t u : State} (h : LineFrame l s t) (k : LineFrame l t u) : LineFrame l s u where
  now := k.now.trans h.now
  straps := k.straps.trans h.straps
  prefs := k.prefs.trans h.prefs
  menu := k.menu.trans h.menu
  rules i := (k.rules i).trans (h.rules i)
  ceilings := ⟨k.ceilings.1.trans h.ceilings.1, k.ceilings.2.1.trans h.ceilings.2.1, k.ceilings.2.2.trans h.ceilings.2.2⟩
  commitments m hm := by
    have a := h.commitments m hm
    have b := k.commitments m hm
    exact ⟨b.1.trans a.1, b.2.1.trans a.2.1, b.2.2.trans a.2.2⟩
  captures m hm := (k.captures m hm).trans (h.captures m hm)
  strikes m hm := (k.strikes m hm).trans (h.strikes m hm)
  channels m hm := (k.channels m hm).trans (h.channels m hm)
  lines m hm hs := by
    have a := h.lines m hm hs
    have b := k.lines m hm (by rw [a.1]; exact hs)
    exact ⟨b.1.trans a.1, b.2.trans a.2⟩
  waiting m hm := ⟨(k.waiting m hm).1.trans (h.waiting m hm).1, (k.waiting m hm).2.trans (h.waiting m hm).2⟩
  verdicts m hm := (k.verdicts m hm).trans (h.verdicts m hm)
  notices m hm := (k.notices m hm).trans (h.notices m hm)

/-- What a command about one line leaves alone. -/
theorem Effect.frame {l : Line} {s t : State} (h : Effect (oneLine l) s t) : LineFrame l s t := by
  induction h with
  | silent h => exact h.frame
  | answered h r hr => exact { h.frame with }
  | trans _ _ ih ik => exact ih.trans ik

variable {s t u : State} {l : Line} {o : Option Line}

theorem Leads.same : Leads o s (.next s) := ⟨s, rfl, .silent (.refl s), fun _ => id⟩

theorem Leads.event (h : Event l s t) : Leads (some l) s (.next t) := ⟨t, rfl, .silent h.moves, h.soundAll⟩

theorem Leads.part (h : Part s t) : Leads none s (.next t) := ⟨t, rfl, .silent h.moves, h.sound⟩

/-- An event that ends with the line's path commanded. -/
theorem Leads.ended (h : Moves (only l) s t) : Leads (some l) s (.next (t.endEvent l)) := .event (.ended h)

/-- An event of the line engine alone. -/
theorem Leads.engine (h : Moves (only l) s t) (k : Still l s t := by exact ⟨rfl, rfl, rfl, rfl, rfl, rfl⟩) :
    Leads (some l) s (.next t) := .event (.still h k)

/-- No move adds a RESPONSE. -/
theorem Moves.responses_le {sc : Option Line → Prop} (h : Moves sc s t) : t.link.responses.length ≤ s.link.responses.length := by
  induction h with
  | refl => exact Nat.le_refl _
  | snoc _ m ih =>
      cases m with
      | link f h _ => exact Nat.le_trans h.responses ih
      | resetBlocks => exact Nat.zero_le _
      | powerOn => exact Nat.zero_le _
      | _ => exact ih

/-! ### Requests and verdicts -/

theorem LinkStep.endAutonomous (u : LinkUnit) : LinkStep u u.endAutonomous := by
  unfold LinkUnit.endAutonomous
  split
  · exact .plain rfl rfl rfl (.inl rfl) id
  · exact .plain rfl rfl rfl (.inr rfl) fun _ _ => ⟨rfl, rfl⟩

theorem LinkScope.endAutonomous {sc : Option Line → Prop} (u : LinkUnit) : LinkScope sc u u.endAutonomous := by
  unfold LinkUnit.endAutonomous
  split
  · exact .plain rfl rfl
  · exact .plain rfl rfl

theorem Moves.acting {sc : Option Line → Prop} (s : State) : Moves sc s s.acting :=
  ((Moves.refl s).snoc (.link _ _ (.plain rfl rfl rfl (.inl rfl) id) (.plain rfl rfl))).snoc
    (.link _ _ (.endAutonomous _) (.endAutonomous _))

/-- What a REQUEST or VERDICT does, from what its block does to the state it acts on. -/
theorem Leads.taken (raw : List Byte) (check : Byte) (addr : Addr) (num code : Byte) {act : State → Reply}
    (hm : Moves (scopeOf o) s.acting (act s.acting).state)
    (hs : ∀ m, s.acting.LineSound m → (act s.acting).state.LineSound m) :
    Leads o s (.next (s.taken raw check addr num code act)) := by
  unfold State.taken
  split
  · have k : Moves (scopeOf o) s (s.onLink fun u => { u with receiver := .idle }) :=
      (Moves.refl s).snoc (.link _ _ (.plain rfl rfl rfl (.inl rfl) id) (.plain rfl rfl))
    dsimp only
    split
    · exact ⟨_, rfl, .silent (k.snoc (.link _ (fun u => { u with linkError := true }) (.plain rfl rfl rfl (.inl rfl) id)
        (.plain rfl rfl))), fun _ h => h⟩
    · next hl =>
        refine ⟨_, rfl, .answered ((Moves.acting s).trans hm) _ ?_, hs⟩
        have h1 := hm.responses_le
        have h2 : s.acting.link.responses.length ≤ (s.onLink fun u => { u with receiver := .idle }).link.responses.length :=
          Moves.responses_le (sc := whole) ((Moves.refl _).snoc (.link _ _ (.endAutonomous _) (.endAutonomous _)))
        exact Nat.lt_of_le_of_lt (Nat.le_trans h1 h2) (Nat.lt_of_not_le fun h => hl (.inr h))
  · exact .same

theorem Leads.request (code : Byte) (r : Req) {act : State → Reply}
    (hm : Moves (scopeOf o) s.acting (act s.acting).state)
    (hs : ∀ m, s.acting.LineSound m → (act s.acting).state.LineSound m) :
    Leads o s (.next (s.request code r act)) := Leads.taken _ _ _ _ _ hm hs

theorem Part.deviceReply (n : Nat) (r : Req) {act : State → Reply} (h : ∀ u, Part u (act u).state) :
    Part s (Machine.deviceReply n r act s).state := by
  unfold Machine.deviceReply
  split
  · split
    · exact h _
    · exact .same
  · exact .same

theorem Leads.deviceRequest (code : Byte) (n : Nat) (r : Req) {act : State → Reply}
    (h : ∀ u, Part u (act u).state) : Leads none s (s.deviceRequest code n r act) :=
  have k : Part s.acting _ := .deviceReply n r h
  Leads.request code r k.moves k.sound

/-- A request or verdict that names a line is about that line. -/
theorem Leads.lineTaken (raw : List Byte) (code : Byte) (n : Nat) (r : Req) {act : Line → State → Reply}
    (h : ∀ l u, Event l u (act l u).state) :
    Leads r.addr.line? s (.next (s.taken raw r.check r.addr r.num code (lineReply n r act))) := by
  obtain ⟨addr, num, args, check⟩ := r
  cases addr with
  | device => exact Leads.taken _ _ _ _ _ (.refl _) fun _ => id
  | line l =>
      have k : Event l s.acting (if args.length = n then act l s.acting else s.acting.answer .badRequest).state := by
        split
        · exact h l _
        · exact .same
      exact Leads.taken _ _ _ _ _ k.moves k.soundAll

theorem Leads.lineRequest (code : Byte) (n : Nat) (r : Req) {act : Line → State → Reply}
    (h : ∀ l u, Event l u (act l u).state) : Leads r.addr.line? s (s.lineRequest code n r act) := Leads.lineTaken _ code n r h

theorem Leads.lineControl (action : Byte) (r : Req) {act : Line → State → Reply}
    (h : ∀ l u, Event l u (act l u).state) : Leads r.addr.line? s (s.lineControl action r act) := Leads.lineTaken _ _ _ r h

theorem Leads.verdict (decision : Byte) (v : VerdictReq) {judge : Line → VerdictEntry → State → State × Result}
    (h : ∀ l e u, Event l u (judge l e u).1) : Leads v.addr.line? s (.next (s.verdict decision v judge)) := by
  obtain ⟨addr, tag, point, value, check⟩ := v
  cases addr with
  | device => exact Leads.taken _ _ _ _ _ (.refl _) fun _ => id
  | line l =>
      have k : Event l s.acting (match s.acting.verdictOf l with
          | some e =>
              if e.tag = tag then
                let r := judge l e s.acting
                r.1.answer r.2
              else s.acting.answer .unknownTag
          | none => s.acting.answer .unknownTag).state := by
        split
        · split
          · exact h l _ _
          · exact .same
        · exact .same
      exact Leads.taken _ _ _ _ _ k.moves k.soundAll

theorem Still.onLink {l : Line} (h : Still l s t) (f : LinkUnit → LinkUnit) : Still l s (t.onLink f) := { h with }

/-- A decision applied is an event of its line. -/
theorem Event.applyDecision (s : State) (l : Line) (a : Action) (n : Nat) : Event l s (s.applyDecision l a n) := by
  have i := onlyFact l
  have h : Moves (only l) s s := .refl s
  unfold State.applyDecision
  split
  · exact .same
  · apply Event.ended
    split
    · exact h.emptyDecision.applyAnnounce ..
    · exact h.emptyDecision.applyMenu ..
    · dsimp only
      split
      · exact h.leaveDeciding.answerWait _
      · exact h.leaveDeciding.applyClaim ..

theorem Event.dropVerdict (s : State) (l : Line) : Event l s (s.dropVerdict l) :=
  have := onlyFact l
  .still (Moves.refl s).dropVerdict

theorem Event.fallback (s : State) (v : VerdictEntry) : Event v.line s (s.fallback v) :=
  (Event.dropVerdict s v.line).trans (.applyDecision ..)

theorem Event.applyAs (s : State) (l : Line) (a : Action) (ks : List QueryKind) (e : VerdictEntry) :
    Event l s (Machine.applyAs a ks l e s).1 := by
  unfold Machine.applyAs
  split
  · exact (Event.dropVerdict s l).trans (.applyDecision ..)
  · exact .same

theorem Event.judgeChoose (s : State) (l : Line) (v : VerdictReq) (e : VerdictEntry) :
    Event l s (Machine.judgeChoose v l e s).1 := by
  have i := onlyFact l
  have h : Moves (only l) s s := .refl s
  unfold Machine.judgeChoose
  dsimp only
  split
  · split
    · exact .ended (h.dropVerdict.emptyDecision.sendClaim ..)
    · exact .ended (h.dropVerdict.emptyDecision.noSuitablePoint)
  · exact .same

theorem Event.judgeGrant (s : State) (l : Line) (v : VerdictReq) (e : VerdictEntry) :
    Event l s (Machine.judgeGrant v l e s).1 := by
  have i := onlyFact l
  have h : Moves (only l) s s := .refl s
  unfold Machine.judgeGrant
  split
  · split
    · dsimp only
      split
      · exact .ended (h.dropVerdict.leaveDeciding.answerWait _)
      · exact .ended (h.dropVerdict.leaveDeciding.grantClaim ..)
    · exact .dropVerdict ..
  · exact .same

/-! ### Resets -/

theorem Moves.resetLine {sc : Option Line → Prop} [Fact (sc (some l))] (h : Moves sc s t) : Moves sc s (t.resetLine l) := by
  unfold State.resetLine
  dsimp only
  apply Moves.onEngine
  · split
    · exact h.onEngine.handNew _
    · exact h.onEngine
  · exact fun _ => Nat.le_max_right ..

theorem resetContract_rests (st : Straps) (present : Bool) :
    (resetContract st present).path = .opened ∧ roleOf (resetContract st present).state (resetContract st present).role =
      (resetContract st present).role := by
  unfold resetContract
  dsimp only
  split
  · split <;> exact ⟨rfl, rfl⟩
  · exact ⟨rfl, rfl⟩

/-- R65, R147: every line is sound after RESET_PART. -/
theorem State.sound_resetBlocks (s : State) (m : Line) : s.resetBlocks.LineSound m := by
  have h := resetContract_rests (s.straps.get m) (s.engine m).present
  cases m <;> exact ⟨h.2, nofun, .inr h.1.symm⟩

theorem Part.resetPart (s : State) : Part s s.resetPart := by
  have i := wholeFact
  refine ⟨?_, fun m _ => State.sound_resetBlocks _ m⟩
  exact (Moves.foldl _ (fun _ k => k.resetLine) Line.everyLine (.refl s)).snoc (.resetBlocks _ fun _ => trivial)

/-- R165: the resolving of every standing entry. -/
theorem Part.resolveAll (s : State) (f : LinkUnit → LinkUnit) (hf : LinkStep s.link { f s.link with verdicts := [] }) :
    Part s (s.resolveAll f) := by
  unfold State.resolveAll
  refine Part.trans (t := { s with freeCount := s.freeCount + 1, link := { f s.link with verdicts := [] } }) ?_
    (Part.foldl _ (fun u v => (Event.fallback u v).part) _ _)
  exact .still (((Moves.refl s).snoc (.free s fun _ => trivial)).snoc
    (.link _ (fun u => { f u with verdicts := [] }) hf (.whole fun _ => trivial)))

theorem LinkUnit.wakesOn_empty (u : LinkUnit) (h : u.wakeSet = 0) (k : NoticeKind) : u.wakesOn k = false := by
  simp [LinkUnit.wakesOn, h]

theorem Part.goQuiet (s : State) (w : BitVec 7) : Part s (s.goQuiet w) := by
  have k : Part s (s.resolveAll fun u => { u with mode := .autonomous, wakeSet := w }) :=
    .resolveAll s _ {
      responses := Nat.le_refl _
      notices := id
      verdicts := fun _ => List.nodup_nil
      quiet := fun _ _ => rfl
      wake := fun _ hm => by cases hm }
  refine k.trans (.still ((Moves.refl _).snoc (.link _ _ (.plain rfl rfl rfl (.inl rfl) ?_) (.plain rfl rfl))))
  intro hw hm
  obtain ⟨h1, h2⟩ := hw hm
  refine ⟨?_, h2⟩
  have : (s.resolveAll fun u => { u with mode := .autonomous, wakeSet := w }).link.wakeWaiting = false := by
    simp only [LinkUnit.wakeWaiting, List.any_eq_false]
    intro n _
    simp [LinkUnit.wakesOn_empty _ h2]
  simp only [h1, this, Bool.or_self]

theorem Event.passReselect (s : State) (l : Line) : Event l s (s.passReselect l) := by
  have i := onlyFact l
  unfold State.passReselect
  split
  · exact .ended (Moves.refl s).reselect
  · exact .same

/-- R122, R130: the rank BUDGET_SET stores names each line once. -/
theorem parseRank_ok (b : Byte) (h : (parseRank b).Nodup) : (parseRank b).Nodup ∧ (parseRank b).length = 4 := ⟨h, rfl⟩

/-! ### What stays of a line's path -/

theorem Still.refl (l : Line) (s : State) : Still l s s := .ofBlocks rfl rfl

theorem Still.trans (h : Still l s t) (k : Still l t u) : Still l s u :=
  ⟨k.tripped.trans h.tripped, k.due.trans h.due, k.command.trans h.command, k.path.trans h.path, k.state.trans h.state, k.role.trans h.role⟩

theorem Still.onEngine (h : Still l s t) (m : Line) (f : LineEngine → LineEngine) : Still l s (t.onEngine m f) := { h with }

theorem Still.onContract (h : Still l s t) (m : Line) (f : Contract → Contract)
    (hf : ∀ c, (f c).path = c.path ∧ (f c).state = c.state ∧ (f c).role = c.role := by exact fun _ => ⟨rfl, rfl, rfl⟩) :
    Still l s (t.onContract m f) := by
  by_cases he : l = m
  · subst he
    refine h.trans ⟨rfl, rfl, rfl, ?_, ?_, ?_⟩ <;> simp [hf]
  · exact h.trans (.ofBlocks (by rw [State.contract_onContract, if_neg he]) rfl)

theorem Still.onChannel (h : Still l s t) (m : Line) (f : Channel → Channel)
    (hf : ∀ c, (f c).tripped = c.tripped ∧ (f c).due = c.due ∧ (f c).command = c.command := by
      exact fun _ => ⟨rfl, rfl, rfl⟩) : Still l s (t.onChannel m f) := by
  by_cases he : l = m
  · subst he
    refine h.trans ⟨?_, ?_, ?_, rfl, rfl, rfl⟩ <;> simp [hf]
  · exact h.trans (.ofBlocks rfl (by rw [State.channel_onChannel, if_neg he]))

theorem Still.startTimer (h : Still l s t) (m : Line) : Still l s (t.startTimer m) := by
  refine h.onContract m _ fun c => ?_
  split
  · exact ⟨rfl, rfl, rfl⟩
  · have k := fun d => (Contract.noteReport_keeps d · s.now)
    rw [(Contract.noteReport_keeps ..).2.1, (Contract.noteReport_keeps ..).2.2.1, (Contract.noteReport_keeps ..).2.2.2]
    split <;> exact ⟨rfl, rfl, rfl⟩

theorem Still.displace (h : Still l s t) (m : Line) (r : Request) : Still l s (t.displace m r) := by
  refine h.onContract m _ fun c => ?_
  rw [(Contract.noteReport_keeps ..).2.1, (Contract.noteReport_keeps ..).2.2.1, (Contract.noteReport_keeps ..).2.2.2]
  split <;> exact ⟨rfl, rfl, rfl⟩

theorem Still.wait (h : Still l s t) (m : Line) (r : Request) : Still l s (t.wait m r) := by
  unfold State.wait
  split
  · exact (h.displace m _).onContract m _
  · exact h.onContract m _

theorem Still.slowReport (h : Still l s t) (m : Line) (i : Nat) : Still l s (t.slowReport m i) := by
  unfold State.slowReport
  split
  · exact h.onContract m _
  · exact h

theorem Still.reported (h : Still l s t) (m : Line) (i : Nat) : Still l s (t.reported m i) := by
  unfold State.reported
  split
  · split
    · exact h.startTimer m
    · exact h.slowReport m _
  · exact h.slowReport m _

theorem Still.sendRequest (h : Still l s t) (m : Line) (r : Request) : Still l s (t.sendRequest m r) := by
  have k : Still l s ((t.onEngine m fun e => e.hand r.chars).onContract m fun c =>
      { c with exchange := some ⟨r.kind, r.tag, r.chars, (t.engine m).nextId, r.expiries, none, none⟩ }) :=
    (h.onEngine m _).onContract m _
  unfold State.sendRequest
  dsimp only
  split
  · exact k
  · exact k.startTimer m

theorem Still.handWaiting (h : Still l s t) (m : Line) : Still l s (t.handWaiting m) := by
  unfold State.handWaiting
  split
  · exact (h.onContract m _).sendRequest ..
  · exact h

theorem Still.originateNew (h : Still l s t) (m : Line) (k : ReqKind) (b : FrameBody) :
    Still l s (t.originateNew m k b) := by
  unfold State.originateNew State.originate
  dsimp only
  split
  · exact ((h.onContract m _).handWaiting m).sendRequest ..
  · exact ((h.onContract m _).handWaiting m).wait ..

theorem Still.rebuildMenu (h : Still l s t) (m : Line) : Still l s (t.rebuildMenu m) := by
  unfold State.rebuildMenu
  dsimp only
  split
  · exact h.onContract m _
  · exact ((h.onEngine m fun e => e.hand _).onContract m fun c => { c with tagCounter := c.tagCounter + 1 }).onContract m _

theorem Still.reoffer (h : Still l s t) : Still l s t.reoffer := by
  have k : ∀ (ls : List Line) (t : State), Still l s t →
      Still l s (ls.foldl (fun t l => if (t.contract l).awaitsRise then t.rebuildMenu l else t) t) := by
    intro ls
    induction ls with
    | nil => exact fun _ h => h
    | cons a as ih =>
        intro t h
        apply ih
        dsimp only
        split
        · exact h.rebuildMenu a
        · exact h
  exact k _ _ h

theorem Still.passRise (h : Still l s t) (n : Nat) : Still l s (t.passRise n) := by
  unfold State.passRise
  split
  · exact h.reoffer
  · exact h

theorem Still.reallocate (h : Still l s t) : Still l s t.reallocate :=
  h.trans ⟨by rw [State.channel_reallocate], by rw [State.channel_reallocate], by rw [State.channel_reallocate], rfl, rfl, rfl⟩

theorem Still.setBudget (h : Still l s t) (b : Budget) : Still l s (t.setBudget b) := by
  unfold State.setBudget
  dsimp only
  split <;> exact { h with }

theorem Still.recallCause (h : Still l s t) (m : Line) (n : Nat) (c : RecallCause) : Still l s (t.recallCause m n c) := by
  have k : ∀ x : Contract → Option RecallTarget, Still l s (t.onContract m fun c => { c with target := x c }) :=
    fun x => h.onContract m _
  unfold State.recallCause State.sendRecall
  dsimp only
  split
  · exact k _
  · split
    · split
      · exact k _
      · split
        · split
          · exact (h.onContract m _).originateNew ..
          · exact h
        · exact h
    · exact h

theorem Still.recallWalk (h : Still l s t) (gs : List GrantEntry) (n : Nat) : Still l s (t.recallWalk gs n) := by
  induction gs generalizing t n with
  | nil => exact h
  | cons g gs ih =>
      unfold State.recallWalk
      split
      · exact h
      · dsimp only
        apply ih
        have k : ∀ (p : Prop) [Decidable p] n, Still l s (if p then t.recallCause g.line n .budget else t) := by
          intro p _ n
          split
          · exact h.recallCause ..
          · exact h
        exact k ..

theorem Part.setCeilings (s : State) (i n : Nat) (rank : List Line) (hr : rank.Nodup ∧ rank.length = 4) :
    Part s (s.setCeilings i n rank) := by
  have f := wholeFact
  have k : Part s (((s.setBudget { s.budget with inputCeiling := i, supplyCeiling := n, rank := rank }).reallocate.recallWalk
      (s.setBudget { s.budget with inputCeiling := i, supplyCeiling := n, rank := rank }).reallocate.budget.order.reverse
      ((s.setBudget { s.budget with inputCeiling := i, supplyCeiling := n, rank := rank }).reallocate.budget.committedSupply -
        (s.setBudget { s.budget with inputCeiling := i, supplyCeiling := n, rank := rank }).reallocate.budget.supplyCeiling)).passRise
      s.budget.supplyHeadroom) := by
    refine .still ?_ fun m => (((((Still.refl m s).setBudget _).reallocate).recallWalk _ _).passRise _)
    refine Moves.passRise (Moves.recallWalk (Moves.setDrawBudget (.refl s) (b := { s.budget with inputCeiling := i, supplyCeiling := n, rank := rank }) ⟨id, fun _ => hr, rfl⟩ ?_) _ _) _
    exact ⟨fun m h => absurd trivial h, .inl fun _ => trivial⟩
  unfold State.setCeilings
  dsimp only
  split
  · exact k.trans (Part.foldl _ (fun u m => (Event.passReselect u m).part) _ _)
  · exact k

/-! ### Line requests -/

/-- R62, R129: the options stored with what follows in the budget unit. -/
theorem Moves.storeOptions (s : State) (l : Line) (o : Options) (ho : o.roles.within (s.straps.get l).roles = true) :
    Moves (only l) s (if (s.contract l).options.baseline ≠ o.baseline ∧ (s.budget.drawCopy.get l).isSome = true then
      (s.storeOptions l o).reallocate else s.storeOptions l o) := by
  have i := onlyFact l
  split
  · have e : ∀ g : Channel → Channel,
        (∀ c a, { g c with allocation := a } = g { c with allocation := a }) →
        ((s.onContract l fun c => { c with options := o }).onChannel l g).reallocate =
          (s.onContract l fun c => { c with options := o }).reallocate.onChannel l g := by
      intro g hg
      unfold State.reallocate State.onChannel
      cases l <;> simp only [State.channel, Four.get, Four.set, hg] <;> rfl
    unfold State.storeOptions
    dsimp only
    rw [e _ fun _ _ => rfl]
    exact Moves.onChannel (sc := only l) ((Moves.refl s).snoc (.rebase s l o ho rfl))
  · next hb =>
      unfold State.storeOptions
      refine Moves.onChannel (sc := only l) ((Moves.refl s).snoc (.options s l o ho rfl ?_))
      rw [not_and_or, not_not] at hb
      rcases hb with hb | hb
      · exact .inl hb.symm
      · exact .inr (by simpa using hb)

theorem Event.setOptions (s : State) (l : Line) (o : Options) (ho : o.roles.within (s.straps.get l).roles = true) :
    Event l s (s.setOptions l o) := by
  have i := onlyFact l
  have k := Moves.storeOptions s l o ho
  unfold State.setOptions
  dsimp only
  apply Event.ended
  have j : ∀ {p : Prop} [Decidable p] {u : State}, Moves (only l) s u →
      Moves (only l) s (if p then u.endToGreeting l .policy .noRole else u) := by
    intro p _ u h
    split
    · exact h.endToGreeting ..
    · exact h
  exact j k

theorem Event.releaseLine (s : State) (l : Line) : Event l s (s.releaseLine l) := by
  have i := onlyFact l
  have h : Moves (only l) s s := .refl s
  unfold State.releaseLine
  dsimp only
  split
  · split
    · exact .ended h.onContract.reselect
    · exact .still h.onContract ((Still.refl l s).onContract l _)
  · exact .same

theorem Event.mute (s : State) (l : Line) : Event l s (s.mute l) := by
  have i := onlyFact l
  have k : Moves (only l) s (s.onEngine l fun e =>
      { e with
        muted := true
        txQueue := []
        txSide := .idle
        txLevels := []
        txIndex := 0
        txSends := 0
        watchdog := none
        drain := e.drain.map fun n => n - (s.engine l).txQueue.length }) := (Moves.refl s).onEngine fun _ => Nat.zero_le _
  have j : ∀ (fs : List TxFrame) (t : State), Moves (only l) s t → Still l s t →
      Event l s (fs.foldl (fun t f => t.reported l f.id) t) := by
    intro fs
    induction fs with
    | nil => exact fun _ m k => .still m k
    | cons f fs ih => exact fun _ m k => ih _ (m.reported _) (k.reported l _)
  exact j _ _ k ((Still.refl l s).onEngine l _)

theorem Event.restartLine (s : State) (l : Line) : Event l s (s.restartLine l) := by
  have i := onlyFact l
  unfold State.restartLine
  dsimp only
  apply Event.ended
  refine ((Moves.refl s).dropVerdict.onEngine).clearStrikes.onContract fun c => ?_
  split <;> rfl

/-! ### Timers, samples, presence -/

variable {sc : Option Line → Prop} [Fact (sc (some l))]

theorem Moves.retryCandidate (h : Moves sc s t) : Moves sc s (t.retryCandidate l) := by
  unfold State.retryCandidate
  dsimp only
  split
  · exact h.sendClaim ..
  · exact h.onContract.advance

/-- What the judging of a sample leaves of its channel. -/
structure Channel.Judged (c d : Channel) : Prop where
  allocation : d.allocation = c.allocation
  tripped : d.tripped = c.tripped
  due : d.due = c.due
  command : d.command = c.command

theorem Channel.Judged.trans {c d e : Channel} (h : c.Judged d) (k : d.Judged e) : c.Judged e :=
  ⟨k.allocation.trans h.allocation, k.tripped.trans h.tripped, k.due.trans h.due, k.command.trans h.command⟩

theorem Channel.judge_judged (ch : Channel) (x : Sample) (capped : Bool) : ch.Judged (ch.judge x capped) := by
  have settle : ∀ c : Channel, c.Judged (c.judgeSettle x) := fun c => by
    unfold Channel.judgeSettle
    (repeat' split) <;> constructor <;> rfl
  have overcurrent : ∀ c : Channel, c.Judged (c.judgeOvercurrent x) := fun c => by
    unfold Channel.judgeOvercurrent
    split <;> constructor <;> rfl
  have rev : ∀ c : Channel, c.Judged (c.judgeReverse x) := fun c => by
    unfold Channel.judgeReverse
    split <;> constructor <;> rfl
  have hold : ∀ c : Channel, c.Judged (c.judgeHold x) := fun c => by
    unfold Channel.judgeHold
    split <;> constructor <;> rfl
  have meter : ∀ c : Channel, c.Judged (c.meterSample x capped) := fun c => by
    unfold Channel.meterSample
    dsimp only
    (repeat' split) <;> constructor <;> rfl
  exact ((((settle _).trans (overcurrent _)).trans (rev _)).trans (hold _)).trans (meter _)

theorem TripsDue.join_any (d e : TripsDue) (h : d.any = true ∨ e.any = true) : (d.join e).any = true := by
  simp only [TripsDue.any, TripsDue.join, Bool.or_eq_true] at *
  tauto

/-- What a sample leaves of its channel: the command and the allocation; a trip flag that is set; and a report pending where
the flag is set. -/
structure Channel.Sampled (c d : Channel) : Prop where
  allocation : d.allocation = c.allocation
  command : d.command = c.command
  tripped : c.tripped = true → d.tripped = true
  pends : c.TripPends → d.TripPends

theorem Channel.Judged.sampled {c d : Channel} (h : c.Judged d) : c.Sampled d :=
  ⟨h.allocation, h.command, h.tripped.trans, fun k => by rw [Channel.TripPends, h.tripped, h.due]; exact k⟩

theorem Channel.trip_sampled (ch : Channel) (causes : TripsDue) (w : Time) (h : causes.any = true) :
    ch.Sampled (ch.trip causes w) :=
  ⟨rfl, rfl, fun _ => rfl, fun _ _ => TripsDue.join_any _ _ (.inr h)⟩

theorem Channel.expire_sampled (ch : Channel) (now : Time) : ch.Sampled (ch.expire now) := by
  unfold Channel.expire
  split
  · exact Channel.trip_sampled _ _ _ rfl
  · exact ⟨rfl, rfl, id, id⟩

theorem Channel.Sampled.trans {c d e : Channel} (h : c.Sampled d) (k : d.Sampled e) : c.Sampled e :=
  ⟨k.allocation.trans h.allocation, k.command.trans h.command, k.tripped ∘ h.tripped, k.pends ∘ h.pends⟩

theorem Channel.sample_sampled (ch : Channel) (x : Sample) (capped : Bool) : ch.Sampled (ch.sample x capped) := by
  have latest : ch.Sampled { ch with latest := x } := ⟨rfl, rfl, id, id⟩
  unfold Channel.sample
  dsimp only
  split
  · exact latest
  · split
    · exact latest.trans (Channel.trip_sampled _ _ _ rfl)
    · refine latest.trans ((Channel.judge_judged _ x capped).sampled.trans ?_)
      unfold Channel.tripFor
      split
      · next h => exact Channel.trip_sampled _ _ _ h
      · exact ⟨rfl, rfl, id, id⟩

/-- R119: an accepted rule entry has hit count 0. -/
theorem parseRule_hits {cs : List Byte} {e : RuleEntry} (h : parseRule cs = some e) : e.hits = 0 := by
  unfold parseRule at h
  split at h
  · split at h
    · dsimp only at h
      split at h
      · cases h
      · cases h
        rfl
    · cases h
  · cases h

theorem Part.putEntry (s : State) (args : List Byte) : Part s (Machine.putEntry args s).state := by
  unfold Machine.putEntry
  split
  · split
    · split
      · next he => exact .still ((Moves.refl s).snoc (.rules _ _ _ _ (by rw [parseRule_hits he]; omega) (.inl fun _ => trivial)))
      · exact .same
    · exact .same
  · exact .same

theorem effect_tablePut (s : State) (r : Req) : Leads none s (execTablePut r s) :=
  Leads.deviceRequest _ _ _ fun u => .putEntry u _

theorem effect_tableGet (s : State) (r : Req) : Leads none s (execTableGet r s) := by
  refine Leads.deviceRequest _ _ _ fun u => ?_
  unfold getEntry
  split
  · split
    · dsimp only
      split
      · exact .still ((Moves.refl u).snoc (.rules _ _ _ _ (by dsimp only; omega) (.inr rfl)))
      · exact .same
    · exact .same
  · exact .same

theorem effect_stanceSet (s : State) (r : Req) : Leads none s (execStanceSet r s) := by
  refine Leads.deviceRequest _ _ _ fun u => ?_
  unfold setStance
  split
  · split
    · dsimp only [State.answer]
      exact .still ((Moves.refl u).snoc (.link _ _ (.plain rfl rfl rfl (.inl rfl) id) (.plain rfl rfl)))
    · exact .same
  · exact .same

/-! ### A filtering with a request between two of its queries (R109) -/

/-- What the whole part does, RESPONSEs included, as far as the lines' soundness goes. -/
structure Whole (s t : State) : Prop where
  effect : Effect whole s t
  sound : ∀ m, s.LineSound m → t.LineSound m

theorem Part.wholly (h : Part s t) : Whole s t := ⟨.silent h.moves, h.sound⟩

theorem Whole.trans (h : Whole s t) (k : Whole t u) : Whole s u := ⟨h.effect.trans k.effect, fun m => k.sound m ∘ h.sound m⟩

theorem Whole.foldl {α : Type} (f : State → α → State) (hf : ∀ u a, Whole u (f u a)) (xs : List α) (s : State) :
    Whole s (xs.foldl f s) := by
  induction xs generalizing s with
  | nil => exact Part.same.wholly
  | cons a as ih => exact (hf s a).trans (ih _)

theorem Whole.leads (h : Whole s t) : Leads none s (.next t) := ⟨t, rfl, h.effect, h.sound⟩

/-- An event of one line within which requests may be taken that touch no path: moves of that line, and RESPONSEs. -/
structure Course (l : Line) (s t : State) : Prop where
  effect : Effect whole s t
  others : ∀ m, m ≠ l → Still m s t
  pends : (s.channel l).TripPends → (t.channel l).TripPends

theorem Course.moves (h : Moves (only l) s t) : Course l s t where
  effect := .silent (h.mono fun _ _ => trivial)
  others _ hm := (h.wide.outside (outside_oneLine hm)).still
  pends := h.tripPends (by simp [only]) l

theorem Course.trans (h : Course l s t) (k : Course l t u) : Course l s u where
  effect := h.effect.trans k.effect
  others m hm :=
    have a := h.others m hm
    have b := k.others m hm
    ⟨b.tripped.trans a.tripped, b.due.trans a.due, b.command.trans a.command, b.path.trans a.path, b.state.trans a.state, b.role.trans a.role⟩
  pends := k.pends ∘ h.pends

/-- R43: the end of the event leaves its line sound. -/
theorem Course.ended (h : Course l s t) : Whole s (t.endEvent l) := by
  have i := onlyFact l
  have k : Moves (only l) t (t.endEvent l) := (Moves.refl t).endEvent
  refine ⟨h.effect.trans (.silent (k.mono fun _ _ => trivial)), fun m hs => ?_⟩
  by_cases hm : m = l
  · subst hm
    exact State.sound_endEvent t m (h.pends hs.2.1)
  · exact ((Course.moves k).others m hm).sound ((h.others m hm).sound hs)

/-- A request whose reply changes no path changes none. -/
theorem Still.taken (m : Line) (raw : List Byte) (check : Byte) (addr : Addr) (num code : Byte) {act : State → Reply}
    (h : ∀ u, Still m u (act u).state) : Still m s (s.taken raw check addr num code act) := by
  unfold State.taken
  split
  · dsimp only
    split
    · exact .ofBlocks rfl rfl
    · have k := h s.acting
      exact ⟨k.tripped, k.due, k.command, k.path, k.state, k.role⟩
  · exact .refl m s

theorem Still.device (m : Line) (len : Nat) (r : Req) {act : State → Reply} (code : Byte) (h : ∀ u, Still m u (act u).state) :
    Still m s (s.request code r (deviceReply len r act)) := by
  refine Still.taken m _ _ _ _ _ fun u => ?_
  unfold Machine.deviceReply
  repeat' split
  · exact h u
  all_goals exact .refl m u

theorem Still.tablePut (m : Line) (r : Req) : Still m s (s.tablePut r) := by
  refine Still.device m _ _ _ fun u => ?_
  unfold putEntry
  (repeat' split) <;> exact .ofBlocks rfl rfl

theorem Still.tableGet (m : Line) (r : Req) : Still m s (s.tableGet r) := by
  refine Still.device m _ _ _ fun u => ?_
  unfold getEntry
  dsimp only
  (repeat' split) <;> exact .ofBlocks rfl rfl

theorem Still.stanceSet (m : Line) (r : Req) : Still m s (s.stanceSet r) := by
  refine Still.device m _ _ _ fun u => ?_
  unfold setStance
  (repeat' split) <;> exact .ofBlocks rfl rfl

/-- A request whose row leads somewhere and changes no path is a course of any line. -/
theorem Course.ofLeads (l : Line) (h : Leads none s (.next t)) (k : ∀ m, Still m s t) : Course l s t := by
  obtain ⟨u, hu, he, _⟩ := h
  cases hu
  exact ⟨he, fun m _ => k m, fun hl => by rw [Channel.TripPends, (k l).tripped, (k l).due]; exact hl⟩

theorem Course.midRequest (s : State) (mid : Option MidRequest) (l : Line) (i : Nat) : Course l s (s.midRequest mid l i) := by
  unfold State.midRequest
  split
  · split
    · split
      · exact .ofLeads l (effect_tablePut s _) fun m => .tablePut m _
      · exact .ofLeads l (effect_tableGet s _) fun m => .tableGet m _
      · exact .ofLeads l (effect_stanceSet s _) fun m => .stanceSet m _
    · exact .moves (.refl s)
  · exact .moves (.refl s)

theorem Course.filter (s : State) (mid : Option MidRequest) (i : Nat) (ps : List FarPoint) :
    Course l s (State.filter l mid s i ps).1 := by
  have x := onlyFact l
  induction ps generalizing s i with
  | nil => exact .moves (.refl s)
  | cons p ps ih =>
      have k : ∀ q : Query, q.line = l → Course l s ((s.midRequest mid l i).afterQuery q) := fun q hq =>
        (Course.midRequest s mid l i).trans (.moves ((Moves.refl _).afterQuery (l := l) q hq))
      unfold State.filter
      dsimp only
      split
      · exact k _ rfl
      · exact (k _ rfl).trans (ih _ _)

theorem Course.processMenu (s : State) (mid : Option MidRequest) : Course l s (s.processMenu l mid) := by
  have x := onlyFact l
  have k : Course l s (s.onContract l Contract.beginMenu) := .moves (Moves.refl s).onContract
  unfold State.processMenu
  dsimp only
  split
  · exact k
  · next m _ =>
      refine (k.trans (.filter _ mid 0 m.points)).trans (.moves ?_)
      generalize State.filter l mid (s.onContract l Contract.beginMenu) 0 m.points = v
      have h : Moves (only l) v.1 (v.1.onContract l fun c => { c with farMenu := some { m with points := v.2.1 } }) :=
        (Moves.refl _).onContract
      split
      · exact h.select _
      · split
        · exact h.applyMenu ..
        · next hm => exact ((h.holdDecision ..).openVerdict _ _ _ hm).enter _

theorem Course.reselect (s : State) (mid : Option MidRequest) : Course l s (s.reselect l mid) := by
  unfold State.reselect
  dsimp only
  split
  · exact .processMenu s mid
  · exact .moves (.refl s)

theorem Course.enterActiveDraw (s : State) (ready : Time) (mid : Option MidRequest) : Course l s (s.enterActiveDraw l ready mid) := by
  have x := onlyFact l
  unfold State.enterActiveDraw
  dsimp only
  split
  · exact (Course.moves ((Moves.refl s).onContract.command _).nowActive).trans (.reselect _ mid)
  · exact .moves ((Moves.refl s).onContract.command _).nowActive

theorem Whole.checkVoltage (s : State) (l : Line) (x : Sample) (mid : Option MidRequest) : Whole s (s.checkVoltage l x mid) := by
  have i := onlyFact l
  unfold State.checkVoltage
  dsimp only
  split
  · split
    · exact (Course.enterActiveDraw s _ mid).ended
    · exact Part.same.wholly
  · exact Part.same.wholly

theorem LineEngine.watchPresence_queue (e : LineEngine) (high : Bool) : (e.watchPresence high).txQueue = e.txQueue := by
  unfold LineEngine.watchPresence
  split <;> rfl

theorem Whole.sampleLine (mid : Option MidRequest) (s : State) (r : Reading) : Whole s (s.sampleLine mid r) := by
  have i := onlyFact r.line
  unfold State.sampleLine
  dsimp only
  refine Whole.trans (Event.mk (l := r.line) (Moves.wide ?_) fun k => ?_).part.wholly (.checkVoltage ..)
  · refine Moves.onEngine ((Moves.refl s).onChannel (fun c => (c.sample_sampled ..).allocation) fun c => (c.sample_sampled ..).pends)
      fun e => ?_
    rw [e.watchPresence_queue]
    exact Nat.le_max_right ..
  · have h := (s.channel r.line).sample_sampled (Reading.sample r s.now) (s.contract r.line).options.capped
    refine (Still.refl r.line _).onEngine r.line _ |>.sound ?_
    refine ⟨k.1, ?_, ?_⟩
    · rw [State.channel_onChannel, if_pos rfl]
      exact h.pends k.2.1
    · rw [State.channel_onChannel, if_pos rfl]
      exact k.2.2.imp h.tripped h.command.trans

theorem State.contract_capture (s : State) (l m : Line) (c : Cause) (k : Option FrameKind) (w : Time) :
    (s.capture l c k w).contract m = s.contract m := by
  unfold State.capture
  dsimp only
  split <;> rfl

theorem State.contract_handNew_state (s : State) (l : Line) (b : FrameBody) :
    ((s.handNew l b).contract l).state = (s.contract l).state := by
  show ((State.onContract _ l _).contract l).state = _
  rw [State.contract_onContract, if_pos rfl]
  rfl

/-- R52: a closing enters the state its change enters. -/
theorem State.contract_closing_state (s : State) (l : Line) (f : Contract → Contract) :
    ((s.closing l f).contract l).state = (f (s.contract l)).state := by
  have h : Still l ((s.dropVerdict l).onContract l f) (((s.dropVerdict l).onContract l f).releaseBoth l) :=
    (((Still.refl l _).setBudget _).reallocate).passRise _
  have k : (((s.dropVerdict l).onContract l f).contract l).state = (f (s.contract l)).state := by
    rw [State.contract_onContract, if_pos rfl]
    rfl
  unfold State.closing
  dsimp only
  split <;> exact h.state.trans k

/-- R57: a contract that was told to enter FAULTED is in FAULTED, or stayed in DETACHED. -/
theorem State.contract_enterFaulted_state (s : State) (l : Line) :
    ((s.enterFaulted l).contract l).state = .detached ∨ ((s.enterFaulted l).contract l).state = .faulted := by
  unfold State.enterFaulted
  dsimp only
  split
  · next h => exact h
  · rw [State.contract_closing_state]
    exact .inr rfl

/-- R43, R136: where the contract state has no path, the end of an event opens it, and clears a trip flag. -/
theorem State.sound_endEvent_opened (s : State) (l : Line) (h : (s.contract l).state = .detached ∨ (s.contract l).state = .faulted) :
    (s.endEvent l).LineSound l := by
  have hp : ((s.endEvent l).contract l).path = .opened := by
    rw [State.contract_endEvent]
    unfold Contract.path
    rcases h with h | h <;> rw [h]
  have k := Channel.take_opened (s.channel l) s.now ((s.endEvent l).contract l).options.capped
  rw [← hp, ← State.channel_endEvent, hp] at k
  refine ⟨?_, ?_, .inr (k.2.trans hp.symm)⟩
  · rw [State.contract_endEvent]
    exact roleOf_idem _ _
  · rw [Channel.TripPends, k.1]
    exact nofun

/-- R144: the report of a trip is an event of its line, which leaves it in FAULTED or DETACHED with its path open. -/
theorem Event.reportTrip (s : State) (l : Line) (c : Cause) (hc : c.cls = .severe) : Event l s (s.reportTrip l c) := by
  have i := onlyFact l
  have j := oneLineFact l
  unfold State.reportTrip
  refine ⟨?_, fun _ => State.sound_endEvent_opened _ _ ?_⟩
  · exact (((Moves.refl s).snoc (.channel _ l _ rfl (.inl (.inr rfl)) (.inl rfl))).takeFaultOf ..).endEvent
  · unfold State.takeFaultOf
    rw [hc]
    exact State.contract_enterFaulted_state _ _

theorem Moves.takeCap (h : Moves sc s t) : Moves sc s (t.takeCap l) := by
  unfold State.takeCap
  dsimp only
  split
  · split
    · exact h
    · exact h.endToGreeting ..
    · exact h.recallCause ..
  · exact h

theorem Event.attach (s : State) (l : Line) : Event l s (s.attach l) := by
  have i := onlyFact l
  unfold State.attach
  dsimp only
  apply Event.ended
  apply Moves.raise
  refine ((Moves.refl s).onEngine).clearStrikes.onContract fun c => ?_
  split <;> rfl

theorem Event.detach (s : State) (l : Line) : Event l s ((s.onEngine l LineEngine.leave).teardown l) := by
  have i := onlyFact l
  have h : Moves (only l) s (s.onEngine l LineEngine.leave) := (Moves.refl s).onEngine fun _ => Nat.zero_le _
  have k := h.onChannel (l := l) (f := fun ch => ch.expire s.now) (fun ch => (ch.expire_sampled _).allocation)
    fun ch => (ch.expire_sampled _).pends
  unfold State.teardown
  exact .ended ((((k.command _).dropVerdict.onContract).releaseBoth.onChannel).raise ..)

/-! ### Far frames -/

theorem Leads.deliver (s : State) (l : Line) (k : FrameKind) {act : Frame → List Byte → State → State}
    (ha : ∀ f raw u, Moves (only l) s u → Moves (only l) s (act f raw u)) :
    Leads (some l) s (.next (s.deliver l k act)) := by
  have i := onlyFact l
  unfold State.deliver
  dsimp only
  split
  · split
    · split
      · exact .ended (ha _ _ _ (((Moves.refl s).clearRx _).frameEvent _).restartDelay)
      · exact .same
    · exact .same
  · exact .same

theorem Moves.takeAnnounce (f : Frame) (raw : List Byte) (h : Moves sc s t) : Moves sc s (Machine.takeAnnounce l f raw t) := by
  unfold Machine.takeAnnounce
  split
  · dsimp only
    split
    · split
      · split
        · exact h.closeExchange.onContract.processAnnounce ..
        · split
          · exact h.closeExchange.farRestart.processAnnounce ..
          · exact h.closeExchange
      · exact h.stray
    · split
      · exact h.supersede.stray
      · split
        · exact (h.supersede.onContract.handNew _).record _
        · split
          · exact h.supersede.onContract.processAnnounce ..
          · exact h.supersede.farRestart.processAnnounce ..
  · exact h

theorem Moves.takeMenu (f : Frame) (raw : List Byte) (h : Moves sc s t) : Moves sc s (Machine.takeMenu l none f raw t) := by
  unfold Machine.takeMenu
  split
  · dsimp only
    split
    · split
      · split
        · exact h.supersede.abandonClaim.onContract.onContract
        · split
          · exact h.supersede.abandonClaim.onContract.onContract
          · exact h.supersede.abandonClaim.onContract.processMenu
      · split
        · exact h.supersede.onContract.onContract
        · split
          · exact h.supersede.onContract.onContract
          · exact h.supersede.onContract.processMenu
    · exact h.supersede.stray
  · exact h

theorem Course.takeMenu (f : Frame) (raw : List Byte) (mid : Option MidRequest) : Course l s (Machine.takeMenu l mid f raw s) := by
  have x := onlyFact l
  have h : Moves (only l) s s := .refl s
  unfold Machine.takeMenu
  split
  · dsimp only
    split
    · split
      · split
        · exact .moves h.supersede.abandonClaim.onContract.onContract
        · split
          · exact .moves h.supersede.abandonClaim.onContract.onContract
          · exact (Course.moves h.supersede.abandonClaim.onContract).trans (.processMenu _ mid)
      · split
        · exact .moves h.supersede.onContract.onContract
        · split
          · exact .moves h.supersede.onContract.onContract
          · exact (Course.moves h.supersede.onContract).trans (.processMenu _ mid)
    · exact .moves h.supersede.stray
  · exact .moves h

theorem effect_midRequest (s : State) (l : Line) (m : MidRequest) : Leads none s (execMenuReceived ⟨l, some m⟩ s) := by
  have x := onlyFact l
  unfold execMenuReceived State.deliver
  dsimp only
  split
  · split
    · split
      · exact ((Course.moves (((Moves.refl s).clearRx _).frameEvent _).restartDelay).trans (.takeMenu ..)).ended.leads
      · exact .same
    · exact .same
  · exact .same

theorem Moves.takeFarClaim (f : Frame) (raw : List Byte) (h : Moves sc s t) : Moves sc s (Machine.takeFarClaim l f raw t) := by
  unfold Machine.takeFarClaim
  split
  · dsimp only
    split
    · exact h.supersede.takeClaim ..
    · split
      · exact h.supersede.deny ..
      · split
        · exact h.supersede.deny ..
        · exact h.supersede.stray
  · exact h

theorem Moves.takeGrant (f : Frame) (raw : List Byte) (h : Moves sc s t) : Moves sc s (Machine.takeGrant l f raw t) := by
  unfold Machine.takeGrant
  split
  · split
    · split
      · exact h.onContract.claimDraw
      · exact (h.endToGreeting ..).takeFault ..
    · exact h.stray
  · exact h.stray

theorem Moves.takeDeny (f : Frame) (raw : List Byte) (h : Moves sc s t) : Moves sc s (Machine.takeDeny l f raw t) := by
  unfold Machine.takeDeny
  split
  · exact ((h.closeExchange.dropClaim.record _).onContract).advance
  · exact h.stray

theorem Moves.takeWait (f : Frame) (raw : List Byte) (h : Moves sc s t) : Moves sc s (Machine.takeWait l f raw t) := by
  unfold Machine.takeWait
  split
  · split
    · dsimp only
      split
      · exact h.closeExchange.dropClaim.onContract
      · exact ((h.closeExchange.dropClaim.record _).onContract).advance
    · exact h.stray
  · exact h

theorem Moves.takeReady (f : Frame) (raw : List Byte) (h : Moves sc s t) : Moves sc s (Machine.takeReady l f raw t) := by
  unfold Machine.takeReady
  split
  · exact h.closeExchange.onContract
  · exact h.stray

theorem Moves.takeRenew (f : Frame) (raw : List Byte) (h : Moves sc s t) : Moves sc s (Machine.takeRenew l f raw t) := by
  unfold Machine.takeRenew
  dsimp only
  split
  · exact (h.hand _).onContract
  · split
    · exact h.hand _
    · exact h.stray

theorem Moves.takeKeep (f : Frame) (raw : List Byte) (h : Moves sc s t) : Moves sc s (Machine.takeKeep l f raw t) := by
  unfold Machine.takeKeep
  split
  · refine h.closeExchange.onContract fun c => ?_
    split <;> rfl
  · exact h.stray

theorem Moves.honourRecall (h : Moves sc s t) (g : Tag) (c : Nat) : Moves sc s (t.honourRecall l g c) := by
  unfold State.honourRecall
  exact (((h.onContract.command _).hand _).claimDraw).raiseAgreed

theorem Moves.takeRecall (f : Frame) (raw : List Byte) (h : Moves sc s t) : Moves sc s (Machine.takeRecall l f raw t) := by
  unfold Machine.takeRecall
  split
  · dsimp only
    split
    · split
      · exact h.honourRecall ..
      · exact h.hand _
    · exact h.stray
  · exact h

theorem Moves.takeYield (f : Frame) (raw : List Byte) (h : Moves sc s t) : Moves sc s (Machine.takeYield l f raw t) := by
  unfold Machine.takeYield
  split
  · split
    · split
      · exact ((h.lowerSupply _).raiseAgreed).takeTarget
      · exact h.forceRecall
    · exact h.stray
  · exact h.stray

theorem Moves.takeStatusQ (f : Frame) (raw : List Byte) (h : Moves sc s t) : Moves sc s (Machine.takeStatusQ l f raw t) := by
  unfold Machine.takeStatusQ
  exact (h.hand _).onContract

theorem Moves.takeEnding (f : Frame) (raw : List Byte) (h : Moves sc s t) : Moves sc s (Machine.takeEnding l f raw t) := by
  have k : Moves sc s (((t.dropVerdict l).onContract l Contract.dropRequests).record l .endedByFar) :=
    (h.dropVerdict.onContract).record _
  unfold Machine.takeEnding
  split
  · dsimp only
    split
    · exact h
    · exact k
    · exact k
    · refine k.onContract fun c => ?_
      split <;> rfl
    · split
      · exact h.closeToBlocked _
      · exact h.closeToGreeting _
  · exact h

/-! ### The system link -/

theorem takeRelay_lines : ∀ {vs : List VerdictEntry} {f : List Byte} {ws : List VerdictEntry},
    takeRelay vs = some (f, ws) → ws.map VerdictEntry.line = vs.map VerdictEntry.line := by
  intro vs
  induction vs with
  | nil => intro f ws h; cases h
  | cons v vs ih =>
      intro f ws h
      unfold takeRelay at h
      split at h
      · cases h
        rfl
      · cases hr : takeRelay vs with
        | none => rw [hr] at h; cases h
        | some r =>
            rw [hr] at h
            cases h
            simp [ih (f := r.1) (ws := r.2) hr]

theorem LinkStep.choose (u : LinkUnit) : LinkStep u u.choose := by
  unfold LinkUnit.choose
  split
  · next hr => exact { responses := by simp [LinkUnit.send, hr], notices := id, verdicts := id, quiet := id, wake := id }
  · split
    · next hr =>
        have hl := takeRelay_lines hr
        refine { responses := Nat.le_refl _, notices := id, verdicts := ?_, quiet := ?_, wake := id }
        · unfold VerdictsDistinct LinkUnit.send
          rw [hl]
          exact id
        · intro h hm
          have h0 := h hm
          rw [h0] at hl
          exact List.map_eq_nil_iff.mp hl
    · split
      · next hn =>
          refine { responses := Nat.le_refl _, notices := ?_, verdicts := id, quiet := id, wake := id }
          unfold NoticesDistinct
          rw [hn]
          exact fun h => (List.nodup_cons.mp h).2
      · exact .plain rfl rfl rfl (.inl rfl) id

/-! ### Every command -/

theorem Leads.linkMove {f : LinkUnit → LinkUnit} (h : LinkStep s.link (f s.link)) : Leads none s (.next (s.onLink f)) :=
  .part (.still ((Moves.refl s).snoc (.link s f h (.whole fun _ => trivial))))

theorem effect_powerOnReset (pins : Four ResetPins) : Leads none s (execPowerOnReset pins s) :=
  .part ⟨(Moves.refl s).snoc (.powerOn s pins fun _ => trivial), fun m _ => by cases m <;> exact ⟨rfl, nofun, .inr rfl⟩⟩

theorem effect_presence (s : State) (l : Line) : Leads (some l) s (execAttach l s) ∧ Leads (some l) s (execDetach l s) := by
  have i := onlyFact l
  have h : Moves (only l) s s := .refl s
  constructor
  · unfold execAttach
    split
    · exact .event (.attach s l)
    · exact .same
  · unfold execDetach
    split
    · exact .event (.detach s l)
    · exact .same

theorem effect_startEdge (s : State) (l : Line) : Leads (some l) s (execStartEdge l s) := by
  have i := onlyFact l
  have h : Moves (only l) s s := .refl s
  unfold execStartEdge
  dsimp only
  split
  · split
    · exact .engine h.onEngine
    · split
      · exact .same
      · exact .engine h.onEngine
    · exact .same
  · exact .same

theorem effect_characterAccepted (s : State) (l : Line) (w : WireChar) : Leads (some l) s (execCharacterAccepted l w s) := by
  have i := onlyFact l
  have h : Moves (only l) s s := .refl s
  unfold execCharacterAccepted
  dsimp only
  split
  · split
    · exact .ended h.conventionError
    · exact .engine h.onEngine
  · exact .same

theorem effect_errorPulse (s : State) (l : Line) (w : WireChar) : Leads (some l) s (execErrorPulse l w s) := by
  have i := onlyFact l
  have h : Moves (only l) s s := .refl s
  unfold execErrorPulse
  dsimp only
  split
  · exact .engine h.onEngine
  · exact .same

theorem effect_conventionError (s : State) (l : Line) (w : WireChar) : Leads (some l) s (execConventionError l w s) := by
  have i := onlyFact l
  have h : Moves (only l) s s := .refl s
  unfold execConventionError
  dsimp only
  split
  · exact .ended h.conventionError
  · exact .same

theorem effect_overLengthFrame (s : State) (l : Line) : Leads (some l) s (execOverLengthFrame l s) := by
  have i := onlyFact l
  have h : Moves (only l) s s := .refl s
  unfold execOverLengthFrame
  dsimp only
  split
  · exact .ended ((h.clearRx _).takeMalformed _)
  · exact .same

theorem effect_frameGapExpiry (s : State) (l : Line) : Leads (some l) s (execFrameGapExpiry l s) := by
  have i := onlyFact l
  have h : Moves (only l) s s := .refl s
  unfold execFrameGapExpiry
  dsimp only
  split
  · exact .engine ((h.clearRx _).frameEvent _)
  · exact .same

theorem effect_discardingEnd (s : State) (l : Line) : Leads (some l) s (execDiscardingEnd l s) := by
  have i := onlyFact l
  have h : Moves (only l) s s := .refl s
  unfold execDiscardingEnd
  split
  · exact .engine (h.clearRx _)
  · exact .same

theorem effect_malformedFrame (s : State) (l : Line) : Leads (some l) s (execMalformedFrame l s) := by
  have i := onlyFact l
  have h : Moves (only l) s s := .refl s
  unfold execMalformedFrame
  dsimp only
  split
  · split
    · exact .ended ((h.clearRx _).takeMalformed _)
    · exact .same
  · exact .same

theorem effect_sendStart (s : State) (l : Line) : Leads (some l) s (execSendStart l s) := by
  have i := onlyFact l
  have h : Moves (only l) s s := .refl s
  unfold execSendStart
  dsimp only
  split
  · split
    · exact .engine h.onEngine
    · exact .same
  · exact .same

theorem effect_nextCharacterStart (s : State) (l : Line) (b : Bool) : Leads (some l) s (execNextCharacterStart l b s) := by
  have i := onlyFact l
  have h : Moves (only l) s s := .refl s
  unfold execNextCharacterStart
  dsimp only
  split
  · split
    · split
      · exact .engine h.onEngine
      · exact .same
    · split
      · exact .engine h.onEngine
      · exact .same
  · exact .same

theorem effect_arbitrationLost (s : State) (l : Line) : Leads (some l) s (execArbitrationLost l s) := by
  have i := onlyFact l
  have h : Moves (only l) s s := .refl s
  unfold execArbitrationLost
  dsimp only
  split
  · exact .engine h.onEngine
  · exact .same

theorem effect_frameSent (s : State) (l : Line) : Leads (some l) s (execFrameSent l s) := by
  have i := onlyFact l
  have h : Moves (only l) s s := .refl s
  unfold execFrameSent
  dsimp only
  split
  · split
    · exact .ended ((h.onEngine LineEngine.finishHead_length).reported _)
    · exact .same
  · exact .same

theorem effect_repeatLimit (s : State) (l : Line) : Leads (some l) s (execRepeatLimit l s) := by
  have i := onlyFact l
  have h : Moves (only l) s s := .refl s
  unfold execRepeatLimit
  dsimp only
  split
  · exact .ended (h.failHead ..)
  · exact .same

theorem effect_loopFailure (s : State) (l : Line) : Leads (some l) s (execLoopFailure l s) := by
  have i := onlyFact l
  have h : Moves (only l) s s := .refl s
  unfold execLoopFailure
  dsimp only
  split
  · next hq =>
      split
      · split
        · exact .ended (h.retryHead _ (by simp [hq]))
        · exact .ended ((h.clearRx _).failHead ..)
      · exact .same
  · exact .same

theorem effect_txTimeout (s : State) (l : Line) : Leads (some l) s (execTxTimeout l s) := by
  have i := onlyFact l
  have h : Moves (only l) s s := .refl s
  unfold execTxTimeout
  dsimp only
  split
  · split
    · split
      · exact .ended ((h.onEngine.failHead ..).enterFaulted)
      · exact .ended (h.onEngine.failHead ..)
    · exact .same
  · exact .same

theorem effect_queueDrained (s : State) (l : Line) : Leads (some l) s (execQueueDrained l s) := by
  have i := onlyFact l
  have h : Moves (only l) s s := .refl s
  unfold execQueueDrained
  split
  · exact .engine h.onEngine
  · exact .same

theorem effect_greetingDelayExpiry (s : State) (l : Line) : Leads (some l) s (execGreetingDelayExpiry l s) := by
  have i := onlyFact l
  have h : Moves (only l) s s := .refl s
  unfold execGreetingDelayExpiry
  dsimp only
  split
  · exact .ended h.onContract.sendAnnounce
  · exact .same

theorem effect_greetingRetry (s : State) (l : Line) : Leads (some l) s (execGreetingRetry l s) := by
  have i := onlyFact l
  have h : Moves (only l) s s := .refl s
  unfold execGreetingRetry
  dsimp only
  split
  · exact .ended h.onContract.sendAnnounce
  · exact .same

theorem effect_slowRegreeting (s : State) (l : Line) : Leads (some l) s (execSlowRegreeting l s) := by
  have i := onlyFact l
  have h : Moves (only l) s s := .refl s
  unfold execSlowRegreeting
  dsimp only
  split
  · exact .ended h.onContract.sendAnnounce
  · exact .same

theorem effect_answerTimeout (s : State) (l : Line) : Leads (some l) s (execAnswerTimeout l s) := by
  have i := onlyFact l
  have h : Moves (only l) s s := .refl s
  unfold execAnswerTimeout State.takeDisplaced
  dsimp only
  split
  · exact .ended (h.onHealth.expire ..)
  · exact .ended (h.onHealth.onContract.expireDisplaced _)
  · exact .same

theorem effect_readyWaitExpiry (s : State) (l : Line) : Leads (some l) s (execReadyWaitExpiry l s) := by
  have i := onlyFact l
  have h : Moves (only l) s s := .refl s
  unfold execReadyWaitExpiry
  dsimp only
  split
  · exact .ended (h.closeToGreeting _)
  · exact .same

theorem effect_backoffExpiry (s : State) (l : Line) : Leads (some l) s (execBackoffExpiry l s) := by
  have i := onlyFact l
  have h : Moves (only l) s s := .refl s
  unfold execBackoffExpiry
  dsimp only
  split
  · exact .ended h.onContract.retryCandidate
  · exact .same

theorem effect_renewalExpiry (s : State) (l : Line) : Leads (some l) s (execRenewalExpiry l s) := by
  have i := onlyFact l
  have h : Moves (only l) s s := .refl s
  unfold execRenewalExpiry
  dsimp only
  split
  · exact .ended (h.onContract.originateNew ..)
  · exact .same

theorem effect_voltageCheckExpiry (s : State) (l : Line) : Leads (some l) s (execVoltageCheckExpiry l s) := by
  have i := onlyFact l
  have h : Moves (only l) s s := .refl s
  unfold execVoltageCheckExpiry
  dsimp only
  split
  · split
    · exact .ended ((h.command _).takeFault ..)
    · exact .same
  · exact .same

theorem effect_leaseDeadline (s : State) (l : Line) : Leads (some l) s (execLeaseDeadline l s) := by
  have i := onlyFact l
  have h : Moves (only l) s s := .refl s
  unfold execLeaseDeadline
  dsimp only
  split
  · exact .ended (h.endToGreeting ..)
  · exact .same

theorem effect_recallDeadline (s : State) (l : Line) : Leads (some l) s (execRecallDeadline l s) := by
  have i := onlyFact l
  have h : Moves (only l) s s := .refl s
  unfold execRecallDeadline
  split
  · exact .ended h.forceRecall
  · exact .same

theorem effect_verdictDeadline (s : State) (l : Line) : Leads (some l) s (execVerdictDeadline l s) := by
  unfold execVerdictDeadline
  split
  · next v hv =>
      have hl : v.line = l := by
        have := List.find?_some hv
        simpa using this
      subst hl
      split
      · exact .event (.fallback s v)
      · exact .same
  · exact .same

theorem effect_sample (s : State) (tick : Bool) (x : Sampling) : Leads none s (execSample tick x s) := by
  unfold execSample
  refine Whole.leads (Whole.trans ?_ (Whole.foldl _ (Whole.sampleLine x.mid) x.readings _))
  apply Part.wholly
  split
  · exact .still ((Moves.refl s).snoc (.tick s fun _ => trivial))
  · exact .same

theorem effect_settleEvent (s : State) (l : Line) : Leads (some l) s (execSettleEvent l s) := by
  have i := onlyFact l
  have h : Moves (only l) s s := .refl s
  unfold execSettleEvent
  dsimp only
  split
  · split
    · exact .ended (h.onChannel.settled _)
    · exact .engine h.onChannel ((Still.refl l s).onChannel l _)
  · exact .same

theorem effect_settleTimeout (s : State) (l : Line) : Leads (some l) s (execSettleTimeout l s) := by
  have i := onlyFact l
  unfold execSettleTimeout
  split
  · exact .event (.reportTrip s l _ rfl)
  · split
    · refine .event (Event.trans (t := s.onChannel l fun ch => ch.tripSettle) ⟨?_, fun k => ⟨k.1, ?_, ?_⟩⟩
        (.reportTrip _ l _ rfl))
      · exact ((Moves.refl s).onChannel (f := fun ch => ch.tripSettle) (fun _ => rfl)
          fun c => (c.trip_sampled _ _ rfl).pends).wide
      · rw [State.channel_onChannel, if_pos rfl]
        exact (Channel.trip_sampled _ _ _ rfl).pends k.2.1
      · rw [State.channel_onChannel, if_pos rfl]
        exact .inl rfl
    · exact .same

theorem effect_trips (s : State) (l : Line) :
    Leads (some l) s (execOvercurrentTrip l s) ∧ Leads (some l) s (execReverseTrip l s) ∧ Leads (some l) s (execHoldTrip l s) := by
  have i := onlyFact l
  have h : Moves (only l) s s := .refl s
  refine ⟨?_, ?_, ?_⟩
  · unfold execOvercurrentTrip
    split
    · exact .event (.reportTrip s l _ rfl)
    · exact .same
  · unfold execReverseTrip
    split
    · exact .event (.reportTrip s l _ rfl)
    · exact .same
  · unfold execHoldTrip
    split
    · exact .event (.reportTrip s l _ rfl)
    · exact .same

theorem effect_capEvent (s : State) (l : Line) : Leads (some l) s (execCapEvent l s) := by
  have i := onlyFact l
  have h : Moves (only l) s s := .refl s
  unfold execCapEvent
  split
  · exact .ended h.onChannel.takeCap
  · exact .same

theorem effect_identify (s : State) (r : Req) : Leads none s (execIdentify r s) :=
  Leads.deviceRequest _ _ _ fun u => by
    dsimp only
    exact .still ((Moves.refl u).snoc (.link _ _ (.plain rfl rfl rfl (.inl rfl) id) (.plain rfl rfl)))

theorem effect_resetPart (s : State) (r : Req) : Leads none s (execResetPart r s) :=
  Leads.deviceRequest _ _ _ fun u => .resetPart u

theorem effect_quiet (s : State) (r : Req) : Leads none s (execQuiet r s) := by
  refine Leads.deviceRequest _ _ _ fun u => ?_
  split
  · exact .goQuiet u _
  · exact .same

theorem effect_prefPut (s : State) (r : Req) : Leads none s (execPrefPut r s) := by
  refine Leads.deviceRequest _ _ _ fun u => ?_
  split
  · split
    · split
      · exact .still ((Moves.refl u).snoc (.prefs _ _ fun _ => trivial))
      · exact .same
    · exact .same
  · exact .same

theorem effect_prefGet (s : State) (r : Req) : Leads none s (execPrefGet r s) := by
  refine Leads.deviceRequest _ _ _ fun u => ?_
  split
  · split
    · exact .same
    · exact .same
  · exact .same

theorem effect_menuPut (s : State) (r : Req) : Leads none s (execMenuPut r s) := by
  refine Leads.deviceRequest _ _ _ fun u => ?_
  dsimp only
  split
  · split
    · split
      · dsimp only [State.answer]
        split
        · exact .still ((Moves.refl u).snoc (.menu _ _ fun _ => trivial))
        · exact .still (Moves.reoffer ((Moves.refl u).snoc (.menu _ _ fun _ => trivial))) fun m => Still.reoffer ⟨rfl, rfl, rfl, rfl, rfl, rfl⟩
      · exact .same
    · exact .same
  · exact .same

theorem effect_menuGet (s : State) (r : Req) : Leads none s (execMenuGet r s) := by
  refine Leads.deviceRequest _ _ _ fun u => ?_
  split
  · split
    · exact .same
    · exact .same
  · exact .same

theorem effect_budgetSet (s : State) (r : Req) : Leads none s (execBudgetSet r s) := by
  refine Leads.deviceRequest _ _ _ fun u => ?_
  split
  · next hp =>
      apply Part.setCeilings u
      unfold parseBudget at hp
      split at hp
      · split at hp
        · next hr =>
            cases hp
            exact parseRank_ok _ hr.2.2
        · cases hp
      · cases hp
  · exact .same

theorem effect_budgetGet (s : State) (r : Req) : Leads none s (execBudgetGet r s) := Leads.deviceRequest _ _ _ fun _ => .same

theorem effect_budgetClear (s : State) (r : Req) : Leads none s (execBudgetClear r s) :=
  Leads.deviceRequest _ _ _ fun u => .still (Moves.setBudget (.refl u) ⟨id, id, rfl⟩ ⟨rfl, rfl, rfl⟩ ⟨fun _ _ => ⟨rfl, rfl, rfl⟩, .inr ⟨rfl, rfl, rfl⟩⟩)
    fun m => (Still.refl m u).setBudget _

theorem effect_lineSet (s : State) (r : Req) : Leads r.addr.line? s (execLineSet r s) := by
  refine Leads.lineRequest _ _ _ fun l u => ?_
  split
  · split
    · next ho => exact .setOptions u l _ ho
    · exact .same
  · exact .same

theorem effect_pause (s : State) (r : Req) : Leads r.addr.line? s (execPause r s) := by
  refine Leads.lineControl _ _ fun l u => ?_
  have i := onlyFact l
  split
  · exact .same
  · dsimp only [State.answer]
    exact .still (Moves.refl u).onContract ((Still.refl l u).onContract l _)

theorem effect_release (s : State) (r : Req) : Leads r.addr.line? s (execRelease r s) := by
  refine Leads.lineControl _ _ fun l u => ?_
  split
  · exact .same
  · exact .releaseLine u l

theorem effect_mute (s : State) (r : Req) : Leads r.addr.line? s (execMute r s) := Leads.lineControl _ _ fun l u => .mute u l

theorem effect_unmute (s : State) (r : Req) : Leads r.addr.line? s (execUnmute r s) :=
  Leads.lineControl _ _ fun l u => by
    have i := onlyFact l
    dsimp only [State.answer]
    exact .still (Moves.refl u).onEngine

theorem effect_endLine (s : State) (r : Req) : Leads r.addr.line? s (execEndLine r s) := by
  refine Leads.lineControl _ _ fun l u => ?_
  have i := onlyFact l
  split
  · exact .ended ((Moves.refl u).endToGreeting ..)
  · exact .same

theorem effect_restart (s : State) (r : Req) : Leads r.addr.line? s (execRestart r s) := by
  refine Leads.lineControl _ _ fun l u => ?_
  have i := onlyFact l
  split
  · exact .restartLine u l
  · split
    · exact .same
    · exact .restartLine u l
  · split
    · exact .same
    · exact .restartLine u l
  · exact .same

theorem effect_renegotiate (s : State) (r : Req) : Leads r.addr.line? s (execRenegotiate r s) := by
  refine Leads.lineControl _ _ fun l u => ?_
  have i := onlyFact l
  split
  · exact .ended (Moves.refl u).reselect
  · split
    · exact .still (Moves.refl u).rebuildMenu ((Still.refl l u).rebuildMenu l)
    · exact .same

theorem effect_recallRequest (s : State) (r : Req) : Leads r.addr.line? s (execRecallRequest r s) := by
  refine Leads.lineControl _ _ fun l u => ?_
  have i := onlyFact l
  dsimp only
  split
  · split
    · exact .same
    · split
      · exact .still ((Moves.refl u).recallCause ..) ((Still.refl l u).recallCause ..)
      · exact .same
  · exact .same

theorem effect_contractGet (s : State) (r : Req) : Leads r.addr.line? s (execContractGet r s) := by
  refine Leads.lineRequest _ _ _ fun l u => ?_
  dsimp only
  split
  · split <;> exact .same
  · exact .same

theorem effect_faultGet (s : State) (r : Req) : Leads r.addr.line? s (execFaultGet r s) := Leads.lineRequest _ _ _ fun _ _ => .same

theorem effect_faultAck (s : State) (r : Req) : Leads r.addr.line? s (execFaultAck r s) := by
  refine Leads.lineRequest _ _ _ fun l u => ?_
  have i := onlyFact l
  dsimp only
  split
  · exact .still ((Moves.refl u).snoc (.capture _ _ _ (Nat.le_max_right ..) rfl))
  · exact .same

theorem effect_healthGet (s : State) (r : Req) : Leads r.addr.line? s (execHealthGet r s) := Leads.lineRequest _ _ _ fun _ _ => .same

theorem effect_healthClear (s : State) (r : Req) : Leads r.addr.line? s (execHealthClear r s) :=
  Leads.lineRequest _ _ _ fun l u => by
    have i := onlyFact l
    dsimp only [State.answer]
    exact .still (Moves.refl u).onHealth

theorem effect_requestUnassigned (s : State) (code : Byte) (r : Req) : Leads none s (execRequestUnassigned code r s) := by
  unfold execRequestUnassigned
  split
  · exact .same
  · exact Leads.request _ _ (.refl _) fun _ => id

theorem effect_lineCtrlUnassigned (s : State) (r : Req) : Leads r.addr.line? s (execLineCtrlUnassigned r s) := by
  unfold execLineCtrlUnassigned
  split
  · exact .same
  · exact Leads.request _ _ (.refl _) fun _ => id

theorem effect_verdictUnassigned (s : State) (code : Byte) (v : VerdictReq) :
    Leads v.addr.line? s (execVerdictUnassigned code v s) := by
  unfold execVerdictUnassigned
  split
  · exact .same
  · exact Leads.verdict _ _ fun _ _ _ => .same

theorem effect_linkStartBit (s : State) (quiet : Bool) : Leads none s (execLinkStartBit quiet s) := by
  unfold execLinkStartBit
  split
  · split
    · exact .linkMove (.plain rfl rfl rfl (.inl rfl) id)
    · exact .linkMove (.plain rfl rfl rfl (.inl rfl) id)
  · exact .same

theorem effect_linkFrameMalformed (s : State) (before : List LinkChar) (last : LinkChar) :
    Leads none s (execLinkFrameMalformed before last s) := by
  unfold execLinkFrameMalformed
  split
  · exact .linkMove (.plain rfl rfl rfl (.inl rfl) id)
  · exact .same

theorem effect_linkFrameTruncated (s : State) : Leads none s (execLinkFrameTruncated s) := by
  unfold execLinkFrameTruncated
  split
  · exact .linkMove (.plain rfl rfl rfl (.inl rfl) id)
  · exact .same

theorem effect_skippingEnd (s : State) : Leads none s (execSkippingEnd s) := by
  unfold execSkippingEnd
  split
  · exact .linkMove (.plain rfl rfl rfl (.inl rfl) id)
  · exact .same

theorem effect_linkRestart (s : State) : Leads none s (execLinkRestart s) := by
  unfold execLinkRestart
  have k : Part s (s.resolveAll fun u => { u with receiver := .skipping, responses := [], notices := [] }) :=
    .resolveAll s _ {
      responses := Nat.zero_le _
      notices := fun _ => List.nodup_nil
      verdicts := fun _ => List.nodup_nil
      quiet := fun _ _ => rfl
      wake := id }
  exact .part (k.trans (.still ((Moves.refl _).snoc (.link _ _
    (.plain rfl rfl rfl (.inr rfl) fun _ _ => ⟨rfl, rfl⟩) (.plain rfl rfl)))))

theorem effect_transmit (s : State) : Leads none s (execTransmitChoice s) ∧ Leads none s (execTransmitEnd s) := by
  constructor
  · unfold execTransmitChoice
    split
    · exact .linkMove (.choose _)
    · exact .same
  · exact .linkMove (.plain rfl rfl rfl (.inl rfl) id)

theorem effect_waitingRequestHanded (s : State) (l : Line) : Leads (some l) s (execWaitingRequestHanded l s) :=
  have := onlyFact l
  .engine (Moves.refl s).handWaiting ((Still.refl l s).handWaiting l)

/-- Every command answers a next state, reached by its effect, in which every line is sound that was before. -/
theorem exec_effect (i : Instr) (s : State) : Leads i.line? s (exec i s) := by
  cases i with
  | powerOnReset pins => exact effect_powerOnReset pins
  | attach l => exact (effect_presence s l).1
  | detach l => exact (effect_presence s l).2
  | conventionError l w => exact effect_conventionError s l w
  | overLengthFrame l => exact effect_overLengthFrame s l
  | frameGapExpiry l => exact effect_frameGapExpiry s l
  | discardingEnd l => exact effect_discardingEnd s l
  | malformedFrame l => exact effect_malformedFrame s l
  | announceReceived l => exact Leads.deliver s l _ fun _ _ _ k => (have := onlyFact l; k.takeAnnounce ..)
  | menuReceived m =>
      obtain ⟨l, _ | p⟩ := m
      · exact Leads.deliver s l _ fun _ _ _ k => (have := onlyFact l; k.takeMenu ..)
      · exact effect_midRequest s l p
  | claimReceived l => exact Leads.deliver s l _ fun _ _ _ k => (have := onlyFact l; k.takeFarClaim ..)
  | grantReceived l => exact Leads.deliver s l _ fun _ _ _ k => (have := onlyFact l; k.takeGrant ..)
  | denyReceived l => exact Leads.deliver s l _ fun _ _ _ k => (have := onlyFact l; k.takeDeny ..)
  | waitReceived l => exact Leads.deliver s l _ fun _ _ _ k => (have := onlyFact l; k.takeWait ..)
  | readyReceived l => exact Leads.deliver s l _ fun _ _ _ k => (have := onlyFact l; k.takeReady ..)
  | renewReceived l => exact Leads.deliver s l _ fun _ _ _ k => (have := onlyFact l; k.takeRenew ..)
  | keepReceived l => exact Leads.deliver s l _ fun _ _ _ k => (have := onlyFact l; k.takeKeep ..)
  | recallReceived l => exact Leads.deliver s l _ fun _ _ _ k => (have := onlyFact l; k.takeRecall ..)
  | yieldReceived l => exact Leads.deliver s l _ fun _ _ _ k => (have := onlyFact l; k.takeYield ..)
  | statusQReceived l => exact Leads.deliver s l _ fun _ _ _ k => (have := onlyFact l; k.takeStatusQ ..)
  | statusReceived l => exact Leads.deliver s l _ fun _ _ _ k => (have := onlyFact l; k.stray)
  | endingReceived l => exact Leads.deliver s l _ fun _ _ _ k => (have := onlyFact l; k.takeEnding ..)
  | sendStart l => exact effect_sendStart s l
  | arbitrationLost l => exact effect_arbitrationLost s l
  | frameSent l => exact effect_frameSent s l
  | repeatLimit l => exact effect_repeatLimit s l
  | loopFailure l => exact effect_loopFailure s l
  | txTimeout l => exact effect_txTimeout s l
  | queueDrained l => exact effect_queueDrained s l
  | waitingRequestHanded l => exact effect_waitingRequestHanded s l
  | greetingDelayExpiry l => exact effect_greetingDelayExpiry s l
  | greetingRetry l => exact effect_greetingRetry s l
  | slowRegreeting l => exact effect_slowRegreeting s l
  | answerTimeout l => exact effect_answerTimeout s l
  | readyWaitExpiry l => exact effect_readyWaitExpiry s l
  | backoffExpiry l => exact effect_backoffExpiry s l
  | renewalExpiry l => exact effect_renewalExpiry s l
  | voltageCheckExpiry l => exact effect_voltageCheckExpiry s l
  | leaseDeadline l => exact effect_leaseDeadline s l
  | recallDeadline l => exact effect_recallDeadline s l
  | sample tick x => exact effect_sample s tick x
  | settleEvent l => exact effect_settleEvent s l
  | settleTimeout l => exact effect_settleTimeout s l
  | overcurrentTrip l => exact (effect_trips s l).1
  | reverseTrip l => exact (effect_trips s l).2.1
  | holdTrip l => exact (effect_trips s l).2.2
  | capEvent l => exact effect_capEvent s l
  | identify r => exact effect_identify s r
  | resetPart r => exact effect_resetPart s r
  | quiet r => exact effect_quiet s r
  | stanceSet r => exact effect_stanceSet s r
  | tablePut r => exact effect_tablePut s r
  | tableGet r => exact effect_tableGet s r
  | prefPut r => exact effect_prefPut s r
  | prefGet r => exact effect_prefGet s r
  | menuPut r => exact effect_menuPut s r
  | menuGet r => exact effect_menuGet s r
  | budgetSet r => exact effect_budgetSet s r
  | budgetGet r => exact effect_budgetGet s r
  | budgetClear r => exact effect_budgetClear s r
  | lineSet r => exact effect_lineSet s r
  | pause r => exact effect_pause s r
  | release r => exact effect_release s r
  | mute r => exact effect_mute s r
  | unmute r => exact effect_unmute s r
  | endLine r => exact effect_endLine s r
  | restart r => exact effect_restart s r
  | renegotiate r => exact effect_renegotiate s r
  | recallRequest r => exact effect_recallRequest s r
  | contractGet r => exact effect_contractGet s r
  | faultGet r => exact effect_faultGet s r
  | faultAck r => exact effect_faultAck s r
  | healthGet r => exact effect_healthGet s r
  | healthClear r => exact effect_healthClear s r
  | requestUnassigned code r => exact effect_requestUnassigned s code r
  | verdictAuto v => exact Leads.verdict _ _ fun _ _ _ => .applyAs ..
  | verdictRefuse v => exact Leads.verdict _ _ fun _ _ _ => .applyAs ..
  | verdictChoose v => exact Leads.verdict _ _ fun _ _ _ => .judgeChoose ..
  | verdictGrant v => exact Leads.verdict _ _ fun _ _ _ => .judgeGrant ..
  | verdictDeny v => exact Leads.verdict _ _ fun _ _ _ => .applyAs ..
  | verdictWait v => exact Leads.verdict _ _ fun _ _ _ => .applyAs ..
  | verdictDeadline l => exact effect_verdictDeadline s l
  | linkFrameMalformed before last => exact effect_linkFrameMalformed s before last
  | linkFrameTruncated => exact effect_linkFrameTruncated s
  | skippingEnd => exact effect_skippingEnd s
  | linkRestart => exact effect_linkRestart s
  | transmitChoice => exact (effect_transmit s).1
  | transmitEnd => exact (effect_transmit s).2
  | startEdge l => exact effect_startEdge s l
  | characterAccepted l w => exact effect_characterAccepted s l w
  | errorPulse l w => exact effect_errorPulse s l w
  | nextCharacterStart l refused => exact effect_nextCharacterStart s l refused
  | linkStartBit quiet => exact effect_linkStartBit s quiet
  | lineCtrlUnassigned r => exact effect_lineCtrlUnassigned s r
  | verdictUnassigned code v => exact effect_verdictUnassigned s code v

/-! ### Properties of every step -/

theorem Effect.mono {sc sd : Option Line → Prop} (hs : ∀ o, sc o → sd o) (h : Effect sc s t) : Effect sd s t := by
  induction h with
  | silent h => exact .silent (h.mono hs)
  | answered h r hr => exact .answered (h.mono hs) r hr
  | trans _ _ ih ik => exact ih.trans ik

/-- A property that every move, the queueing of a RESPONSE and a change of the queue keep is kept by every step. -/
theorem step_keeps {P : State → Prop} (hm : ∀ s t, Move whole s t → P s → P t)
    (hr : ∀ s r, s.link.responses.length < 4 → P s → P (s.respond r)) (hq : ∀ s q, P s → P { s with pending := q })
    {s t : State} (hp : P s) (h : step s = .next t) : P t := by
  unfold step at h
  split at h
  · cases h
    exact hp
  · next c rest _ =>
      obtain ⟨u, hu, he, _⟩ := exec_effect c { s with pending := rest }
      rw [hu] at h
      cases h
      exact (he.mono fun _ _ => trivial).keeps (sc := whole) hm hr (hq _ _ hp)

end Sys2Proof.Machine
end

