-- ==== Sys2Proof/Laws/Decisions.lean ====
section
/-! SUPPORT. What the superseding of a pending decision and the take-up of a pending recall target can do, said once. -/

namespace Sys2Proof.Machine

set_option Elab.async false

variable {s : State} {l : Line} {d : Decision}

/-! ### Superseding (R37) -/

/-- With no decision pending nothing is superseded. -/
theorem State.supersede_of_none (h : (s.contract l).decision = none) : s.supersede l = s := by
  simp [State.supersede, h]

/-- The contract record that the superseding of a decision leaves. -/
theorem State.supersede_contract (h : (s.contract l).decision = some d) :
    (s.supersede l).contract l =
      let c := (s.contract l).enter d.began
      let returns := (s.contract l).state ≠ .active ∧ d.began = .active
      { c with
        decision := none
        lastOutcome := some .superseded
        paused := c.paused || (decide returns && c.options.holdAfterActive)
        timers := { c.timers with
          renewal := if returns then c.agreement.map fun a => s.now + BitVec.ofNat 32 (500 * a.lease) else c.timers.renewal } } := by
  by_cases hr : (s.contract l).state ≠ .active ∧ d.began = .active
  · simp [State.supersede, h, State.dropVerdict, State.after, hr, Contract.enter]
  · simp [State.supersede, h, State.dropVerdict, hr, Contract.enter]

/-- The line's verdict entry leaves, and nothing changes but its contract record and the verdict queue. -/
theorem State.supersede_rest (h : (s.contract l).decision = some d) :
    s.supersede l = { s with
      contracts := s.contracts.set l ((s.supersede l).contract l)
      link := { s.link with verdicts := s.link.verdicts.filter fun v => !(v.line == l) } } := by
  obtain ⟨f, hf⟩ : ∃ f, s.supersede l = (s.dropVerdict l).onContract l f := ⟨_, by rw [State.supersede, h]⟩
  simp [hf, State.dropVerdict, State.onContract, State.onLink, State.contract]

/-- A decision is superseded once. -/
theorem State.supersede_supersede : (s.supersede l).supersede l = s.supersede l := by
  cases h : (s.contract l).decision with
  | none => rw [supersede_of_none h, supersede_of_none h]
  | some d => exact supersede_of_none (by simp [supersede_contract h])

/-- Superseding commutes with the taking of a frame: the change of the line engine and the restart of a running greeting
delay. -/
theorem State.supersede_arrive (g : LineEngine → LineEngine) :
    ((s.onEngine l g).restartDelay l).supersede l = ((s.supersede l).onEngine l g).restartDelay l := by
  cases h : (s.contract l).decision with
  | none =>
      rw [supersede_of_none h, supersede_of_none]
      simpa [State.restartDelay] using h
  | some d =>
      have h' : (((s.onEngine l g).restartDelay l).contract l).decision = some d := by simpa [State.restartDelay] using h
      have hc : (((s.onEngine l g).restartDelay l).supersede l).contract l =
          (((s.supersede l).onEngine l g).restartDelay l).contract l := by
        rw [supersede_contract h']
        simp [State.restartDelay, supersede_contract h, Contract.enter, Timers.keepFor, State.after]
        rw [show (s.supersede l).now = s.now by rw [supersede_rest h]]
        split <;> rfl
      obtain ⟨c, hu⟩ : ∃ c, s.supersede l = { s with
          contracts := s.contracts.set l c
          link := { s.link with verdicts := s.link.verdicts.filter fun v => !(v.line == l) } } := ⟨_, supersede_rest h⟩
      rw [supersede_rest h', hc, hu]
      simp [State.restartDelay, State.onContract, State.onEngine, State.contract, State.engine, State.after, Four.set_set]

/-! ### Frames while a decision pends (R37) -/

/-- A frame whose row supersedes first is taken as with no decision pending, in the state that superseding leaves. -/
theorem State.deliver_supersede {kind : FrameKind} {act : Frame → List Byte → State → State} {f : Frame}
    (hr : (s.engine l).frameReady = true) (hv : validate (s.engine l).rxChars = .wellFormed f) (hk : f.body.kind = kind)
    (hs : (s.contract l).state ≠ .detached) (hd : ((s.supersede l).contract l).state ≠ .detached)
    (ha : ∀ raw t, (t.contract l).state = (s.contract l).state →
      ((t.supersede l).contract l).state = ((s.supersede l).contract l).state → act f raw t = act f raw (t.supersede l)) :
    s.deliver l kind act = (s.supersede l).deliver l kind act := by
  have he : (s.supersede l).engine l = s.engine l := by
    cases h : (s.contract l).decision with
    | none => rw [supersede_of_none h]
    | some d => rw [supersede_rest h]; rfl
  have hg : ∀ t : State, (t.onEngine l fun e => e.clearRx .idle).frameEvent l id =
      t.onEngine l fun e => { e.clearRx .idle with health := (e.clearRx .idle).health.newEvent } := by
    intro t
    simp [State.frameEvent, State.onHealth, State.onEngine, State.engine, Four.set_set]
  have hk' : f.body.kind = kind ∧ (s.contract l).state ≠ .detached := ⟨hk, hs⟩
  have hd' : f.body.kind = kind ∧ ((s.supersede l).contract l).state ≠ .detached := ⟨hk, hd⟩
  simp only [State.deliver, he, hr, hv, if_pos hk', if_pos hd', hg, if_true]
  rw [ha _ _ (by simp [State.restartDelay]) (by rw [supersede_arrive]; simp [State.restartDelay]), supersede_arrive]

/-- R37: a MENU is taken where superseding has led. -/
theorem takeMenu_supersede (mid : Option MidRequest) {f : Frame} (hk : f.body.kind = .menu) (raw : List Byte) :
    takeMenu l mid f raw s = takeMenu l mid f raw (s.supersede l) := by
  obtain ⟨tag, body⟩ := f
  cases body <;> first | (simp [FrameBody.kind] at hk; done) | simp [takeMenu, State.supersede_supersede]

/-- R37: a CLAIM is taken where superseding has led. -/
theorem takeFarClaim_supersede {f : Frame} (hk : f.body.kind = .claim) (raw : List Byte) :
    takeFarClaim l f raw s = takeFarClaim l f raw (s.supersede l) := by
  obtain ⟨tag, body⟩ := f
  cases body <;> first | (simp [FrameBody.kind] at hk; done) | simp [takeFarClaim, State.supersede_supersede]

/-- R37, R47: outside FAULTED an initiating ANNOUNCE is taken where superseding has led. -/
theorem takeAnnounce_supersede {tag : Tag} {cls : FarClass} {canRecall : Bool} {idn : BitVec 32} {lvl : Nat} (raw : List Byte)
    (hs : (s.contract l).state ≠ .faulted) (hd : ((s.supersede l).contract l).state ≠ .faulted) :
    takeAnnounce l ⟨tag, .announce cls canRecall false idn lvl⟩ raw s =
      takeAnnounce l ⟨tag, .announce cls canRecall false idn lvl⟩ raw (s.supersede l) := by
  simp [takeAnnounce, hs, hd, State.supersede_supersede]

/-! ### The take-up of a pending recall target (R100, R101) -/

/-- The contract record after a RECALL, with no other request outstanding or waiting: the recall is outstanding and its deadline
runs where the frame is dropped. -/
theorem State.sendRecall_contract (hx : (s.contract l).exchange = none) (hw : (s.contract l).waiting = none) (level : Nat)
    (cause : RecallCause) :
    (s.sendRecall l level cause).contract l =
      let tag := (s.contract l).tagCounter
      { s.contract l with
        tagCounter := tag + 1
        recallOut := some ⟨level, if (s.engine l).accepts then none else some (s.now + 100), cause⟩
        exchange := some ⟨.recall, tag, (Frame.mk tag (.recall level 10)).chars, (s.engine l).nextId, 0, none, none⟩ } := by
  cases ha : (s.engine l).accepts <;>
    simp [State.sendRecall, State.originateNew, State.originate, State.handWaiting, State.stepTag, State.sendRequest,
      State.startTimer, Contract.noteReport, ReqKind.answerTimed, hx, hw, ha]

/-- The line engine after it: the frame joins the tail of the queue, or is dropped. -/
theorem State.sendRecall_engine (hx : (s.contract l).exchange = none) (hw : (s.contract l).waiting = none) (level : Nat)
    (cause : RecallCause) :
    (s.sendRecall l level cause).engine l =
      (s.engine l).hand (Frame.mk (s.contract l).tagCounter (.recall level 10)).chars := by
  cases ha : (s.engine l).accepts <;>
    simp [State.sendRecall, State.originateNew, State.originate, State.handWaiting, State.stepTag, State.sendRequest,
      State.startTimer, hx, hw, ha]

/-- A pending recall target is recalled to where it lies below the agreed current in ACTIVE, and dropped elsewhere. -/
theorem State.takeTarget_of_below {g : RecallTarget} {a : Agreement} (hg : (s.contract l).target = some g)
    (ha : (s.contract l).agreement = some a) (hs : (s.contract l).state = .active) (hl : g.level < a.current) :
    s.takeTarget l = (s.onContract l fun c => { c with target := none }).sendRecall l g.level g.cause := by
  simp [State.takeTarget, hg, ha, hs, hl]

theorem State.takeTarget_of_met {g : RecallTarget} {a : Agreement} (hg : (s.contract l).target = some g)
    (ha : (s.contract l).agreement = some a) (hl : a.current ≤ g.level) :
    s.takeTarget l = s.onContract l fun c => { c with target := none } := by
  simp [State.takeTarget, hg, ha, Nat.not_lt.mpr hl]

theorem State.takeTarget_of_none (hg : (s.contract l).target = none) : s.takeTarget l = s := by
  simp [State.takeTarget, hg]

end Sys2Proof.Machine
end

