-- ==== Sys2Proof/Tests/Slice0.lean ====
section
/-! SUPPORT. Tests. First the smoke test of WellFormed; then single steps whose expected values are those of the manual's own
worked examples (the section is named in each docstring); last, for each statement of Certificates/Slice0, a witness theorem
that its hypotheses, clause by clause, are met by concrete states and operands, at the boundary values of their ranges. -/

open Sys2Proof Sys2Proof.Machine

namespace Sys2Proof.Tests

set_option Elab.async false

/-! ### The smoke test of WellFormed -/

theorem test_wellFormed_conventionError_initial : (Instr.conventionError .l0 ⟨0x3A, false⟩).wellFormed = false := by decide
theorem test_wellFormed_conventionError_inverse : (Instr.conventionError .l0 ⟨0xA3, false⟩).wellFormed = false := by decide
theorem test_wellFormed_conventionError_parity : (Instr.conventionError .l0 ⟨0x10, false⟩).wellFormed = false := by decide
theorem test_wellFormed_characterAccepted : (Instr.characterAccepted .l0 ⟨0x10, false⟩).wellFormed = false := by decide
theorem test_wellFormed_errorPulse : (Instr.errorPulse .l0 ⟨0x10, true⟩).wellFormed = false := by decide
theorem test_wellFormed_sample :
    (Instr.sample true ⟨none, [⟨.l1, 0, 0, false⟩, ⟨.l1, 1, 0, false⟩]⟩).wellFormed = false := by decide
theorem test_wellFormed_request : (Instr.identify ⟨.device, 0, List.replicate 59 0, 0⟩).wellFormed = false := by decide
theorem test_wellFormed_action : (Instr.pause ⟨.line .l0, 0, List.replicate 58 0, 0⟩).wellFormed = false := by decide
theorem test_wellFormed_midLine :
    (Instr.menuReceived ⟨.l0, some ⟨.l1, 1, .tablePut, ⟨.device, 0, [], 0⟩⟩⟩).wellFormed = false := by decide
theorem test_wellFormed_midFirst :
    (Instr.sample false ⟨some ⟨.l1, 0, .tablePut, ⟨.device, 0, [], 0⟩⟩, []⟩).wellFormed = false := by decide
theorem test_wellFormed_midLast :
    (Instr.menuReceived ⟨.l0, some ⟨.l0, 6, .tablePut, ⟨.device, 0, [], 0⟩⟩⟩).wellFormed = false := by decide
theorem test_wellFormed_midRequest :
    (Instr.menuReceived ⟨.l0, some ⟨.l0, 1, .tablePut, ⟨.device, 0, List.replicate 59 0, 0⟩⟩⟩).wellFormed = false := by decide
theorem test_wellFormed_lineCtrlUnassigned :
    (Instr.lineCtrlUnassigned ⟨.line .l0, 0, [8, 0, 0], 0⟩).wellFormed = false := by decide
theorem test_wellFormed_requestUnassigned : (Instr.requestUnassigned 0x36 ⟨.device, 0, [], 0⟩).wellFormed = false := by decide
theorem test_wellFormed_verdictUnassigned :
    (Instr.verdictUnassigned 5 ⟨.line .l0, 0, 0, 0, 0⟩).wellFormed = false := by decide
theorem test_wellFormed_accepts : [Instr.conventionError .l0 ⟨0x10, true⟩, .characterAccepted .l0 ⟨0x3A, false⟩,
    .errorPulse .l0 ⟨0x10, false⟩, .sample true ⟨none, [⟨.l0, 0, 0, false⟩, ⟨.l1, 0, 0, false⟩]⟩, .pause ⟨.line .l0, 0, [0, 0], 0⟩,
    .menuReceived ⟨.l0, some ⟨.l0, 5, .tablePut, ⟨.device, 0, [], 0⟩⟩⟩, .sample false ⟨some ⟨.l1, 1, .tablePut, ⟨.device, 0, [], 0⟩⟩, []⟩,
    .lineCtrlUnassigned ⟨.line .l0, 0, [9, 0, 0], 0⟩, .requestUnassigned 0x05 ⟨.device, 0, [], 0⟩,
    .verdictUnassigned 6 ⟨.line .l0, 0, 0, 0, 0⟩].all Instr.wellFormed = true := by decide

/-- The characters of a STANCE_SET request: a sound frame. -/
def soundFrame : List Byte := requestRaw .device 7 0x03 [0] ++ [(Req.framed 0x03 .device 7 [0]).check]

/-- R157, R158: a sound frame is not malformed; the same frame is, at its end, with another check character or with odd parity
in its last character, and before its end with a low stop bit in its third or a length of 61. -/
theorem test_linkFrames :
    (Instr.linkFrameMalformed (soundFrame.dropLast.map linkChar) (linkChar (soundFrame.getLastD 0))).wellFormed = false ∧
    judgeLink ((soundFrame.dropLast ++ [(Req.framed 0x03 .device 7 [0]).check ^^^ 1]).map linkChar) = some true ∧
    judgeLink ((soundFrame.dropLast.map linkChar) ++
      [{ linkChar (soundFrame.getLastD 0) with parity := !(linkChar (soundFrame.getLastD 0)).parity }]) = some true ∧
    judgeLink ((soundFrame.take 2).map linkChar ++ [{ linkChar 7 with stop := false }]) = some false ∧
    judgeLink ([0xE1, 61].map linkChar) = some false ∧ judgeLink ([0xE1, 60].map linkChar) = none := by decide +kernel

/-- No row of the table gives bits. -/
theorem test_decodeTableWord_none : decodeTableWord 16 0x1234 = none := rfl

/-! ### States for the tests -/

/-- Every line with straps BOTH and nothing attached, at 1000 ms, a frame of the system link being received. -/
def base : State :=
  { State.powerOn (.all .both) (.all false) with now := 1000, link := { LinkUnit.powerOn with receiver := .receiving } }

/-- A fresh contract record in a state with a role. -/
def record (st : CState) (r : Role) : Contract := { Contract.fresh (.default .both) with state := st, role := r }

/-- The engine of an attached line that knows the convention DIRECT. -/
def attached : LineEngine := { LineEngine.powerOn true with present := true, convention := .direct }

/-- `base` with a contract record and an engine on L1, and the path the record commands. -/
def on (c : Contract) (e : LineEngine) : State :=
  { base with
    contracts := base.contracts.set .l1 c
    engines := base.engines.set .l1 e
    channels := base.channels.set .l1 { Channel.powerOn with command := c.path } }

/-- An engine in which a far frame stands complete. -/
def hearing (f : Frame) : LineEngine :=
  { attached with rxSide := .receiving, rxChars := f.chars, rxExpected := some f.chars.length }

/-- The state after a command. -/
def took (o : StepOutcome) : State :=
  match o with
  | .next s => s
  | .fault _ | .refused _ => State.reset

end Sys2Proof.Tests

namespace Sys2Proof.Machine

/-- A state with another contract record on a line, and the path it commands. -/
def State.withLine (s : State) (l : Line) (c : Contract) : State :=
  { s with
    contracts := s.contracts.set l c
    engines := s.engines.set l Tests.attached
    channels := s.channels.set l { s.channel l with command := c.path } }

/-- A state in which a far frame stands complete on a line. -/
def State.hears (s : State) (l : Line) (f : Frame) : State :=
  s.onEngine l fun e => { e with rxSide := .receiving, rxChars := f.chars, rxExpected := some f.chars.length }

end Sys2Proof.Machine

namespace Sys2Proof.Tests

set_option Elab.async false

/-! ### Units, formats and wire levels -/

/-- Section 00 section 5: 20.00 V at 3.250 A is 65.0 W and back; 450 and 449 at 15.00 V. -/
theorem test_units : power 1000 130 = 650 ∧ current 650 1000 = 130 ∧ current 450 750 = 120 ∧ current 449 750 = 119 := by
  decide

/-- Section 5.10: the settle window of 450 is 428 to 472. Section 8.6: the hold window of 450 is 414 to 486. -/
theorem test_windows : (inWindow 5 450 427 = false ∧ inWindow 5 450 428 = true ∧ inWindow 5 450 472 = true ∧
    inWindow 5 450 473 = false) ∧ inWindow 8 450 413 = false ∧ inWindow 8 450 414 = true ∧ inWindow 8 450 486 = true ∧
    inWindow 8 450 487 = false := by decide

/-- Section 1.12: the RENEW header of tag 3 is 0x69, its cells high, low, low, high, low, high, high, low; the RECALL header of
tag 5 is 0xAC. R2: 0x3A sent in INVERSE reads 0xA3 in DIRECT, with the same parity. -/
theorem test_wireLevels : headerByte 3 .renew = 0x69 ∧ headerByte 5 .recall = 0xAC ∧
    (List.range 8).map (wireChar .direct 0x69).data.getLsbD = [true, false, false, true, false, true, true, false] ∧
    (wireChar .inverse 0x3A).data = 0xA3 ∧ (wireChar .inverse 0x3A).parity = (wireChar .direct 0x3A).parity := by decide

/-- R178: the STATUS_Q of tag 0; one wrong bit makes it malformed. -/
theorem test_checkCharacter : validate [0x10, 0x00, 0x80] = .wellFormed ⟨0, .statusQ⟩ ∧
    validate [0x10, 0x00, 0x81] = .malformed none := by decide +kernel

/-- Section 9.9: a STATUS_Q with a body of one character passes tests 1 to 3 and fails test 4. -/
theorem test_longStatusQ : validate [0x10, 0x01, 0x00, crc [0x10, 0x01, 0x00]] = .malformed (some .statusQ) := by
  decide +kernel

/-- R27, log 19: an ANNOUNCE of tag 2, a WAIT of 0, a DENY of reason 6 and a GRANT of lease 121 are out of range. -/
theorem test_outOfRange :
    [⟨2, .announce .both true false 0 1⟩, ⟨1, .wait 0⟩, ⟨1, .grant 320 121⟩, ⟨1, .recall 321 1⟩].all (fun f : Frame =>
      validate f.chars == .malformed (some f.body.kind)) = true ∧ DenyReason.ofCode 6 = none := by decide +kernel

/-! ### Section 2.5: a re-sent CLAIM and two GRANTs -/

/-- The CLAIM of tag 4 for point 2 at 1000, claimed 130, least 100, is outstanding on L1. -/
def resent : State :=
  base.withLine .l1 { record .claiming .draw with
    claim := some ⟨⟨2, 1000, 130, 100⟩, 4⟩, tagCounter := 5
    exchange := some ⟨.claim, 4, (Frame.mk 4 (.claim ⟨2, 1000, 130, 100⟩)).chars, 0, 1, some 1021, some 1011⟩ }

theorem test_grant_agrees : let t := took (exec (.grantReceived .l1) (resent.hears .l1 ⟨4, .grant 120 20⟩))
    (t.contract .l1).state = .switching ∧ (t.contract .l1).agreement = some ⟨1000, 120, 20, 2⟩ ∧
      t.budget.drawCommit.l1 = 600 ∧ (t.contract .l1).tagCounter = 5 := by decide +kernel

theorem test_secondGrant_isStray :
    let s := took (exec (.grantReceived .l1) (resent.hears .l1 ⟨4, .grant 120 20⟩))
    let t := took (exec (.grantReceived .l1) (s.hears .l1 ⟨4, .grant 120 20⟩))
    (t.engine .l1).health.strayAnswer = true ∧ t.contract .l1 = s.contract .l1 := by decide +kernel

/-! ### Section 3.12: an adapter that does not greet -/

/-- The third ANNOUNCE on L3 was reported at 454 and its answer timer is due. -/
def thirdSilent : State :=
  { base.withLine .l3 { record .greeting .none with
      greetingCount := 2, exchange := some ⟨.announce, 1, [], 0, 0, some 479, some 454⟩ } with now := 479 }

theorem test_answerTimeout_third : let t := took (exec (.answerTimeout .l3) thirdSilent)
    (t.contract .l3).state = .baseline ∧ (t.contract .l3).lastOutcome = some .noAnswer ∧
      (t.contract .l3).unmanaged = true ∧ (t.contract .l3).greetingCount = 3 ∧
      (t.contract .l3).timers.slowRegreeting = some 5454 ∧ (t.channel .l3).command.form = .draw ∧
      (t.channel .l3).output.current = 20 ∧ t.budget.drawCommit.l3 = 0 := by decide +kernel

theorem test_announce_restartsUnmanaged :
    let s := took (exec (.answerTimeout .l3) thirdSilent)
    let t := took (exec (.announceReceived .l3) (s.hears .l3 ⟨1, .announce .supplier false false 0x00A40010 3⟩))
    (t.contract .l3).state = .awaitMenu ∧ (t.contract .l3).lastOutcome = some .endedByFar ∧
      (t.contract .l3).unmanaged = false ∧ (t.engine .l3).txQueue.length = 1 ∧
      t.link.notices.map (fun n => n.body) = [.ended .draw .greeting (some .endedByFar)] ∧
      (t.channel .l3).output.current = 20 := by decide +kernel

/-! ### Section 4.10: choosing among the points of a 65 W adapter -/

/-- The MENU of the example. -/
def adapterMenu : Frame :=
  ⟨6, .menu true [⟨.fixed, 250, 250, 120⟩, ⟨.fixed, 450, 450, 120⟩, ⟨.fixed, 750, 750, 120⟩, ⟨.fixed, 1000, 1000, 130⟩,
    ⟨.window, 250, 550, 330⟩]⟩

/-- L1 in AWAIT_MENU, L0 committed to 200, the preferences and rules of the example. -/
def adapterWaits : State :=
  { base.withLine .l1 (record .awaitMenu .draw) with
    prefs := ((base.prefs.set 0 ⟨true, 750, 1000, 650, 300⟩).set 1 ⟨true, 450, 550, 300, 150⟩).set 2 ⟨true, 250, 250, 25, 10⟩
    rules := (base.rules.set 1 { RuleEntry.blank with
        enabled := true, action := .refuse, lines := 2, kinds := 2, hasPower := true, pMin := 0, pMax := 200 }).set 3
      { RuleEntry.blank with
        enabled := true, action := .clamp, clamp := 450, lines := 2, kinds := 2, hasVoltage := true, vMin := 900
        vMax := 1300 }
    budget := { Budget.initial with drawCommit := ⟨200, 0, 0, 0⟩, committedDraw := 200, drawHeadroom := 400 } }

theorem test_menu_claimsThirdPoint : let t := took (exec (.menuReceived ⟨.l1, none⟩) (adapterWaits.hears .l1 adapterMenu))
    (t.contract .l1).state = .claiming ∧ (t.contract .l1).cursor = ⟨0, 2⟩ ∧
      (t.contract .l1).claim = some ⟨⟨2, 750, 106, 80⟩, 0⟩ ∧ (t.contract .l1).tagCounter = 1 ∧
      ((t.contract .l1).farMenu.map fun m => m.points.map fun p => (p.mark, p.capacity)) =
        some [(.struck, 0), (.survives, 270), (.survives, 450), (.survives, 450), (.survives, 330)] ∧
      t.budget.drawCommit.l1 = 397 ∧ t.budget.drawHeadroom = 3 := by decide +kernel

theorem test_deny_claimsNextPoint :
    let s := took (exec (.menuReceived ⟨.l1, none⟩) (adapterWaits.hears .l1 adapterMenu))
    let t := took (exec (.denyReceived .l1) (s.hears .l1 ⟨0, .deny .policy⟩))
    (t.contract .l1).lastOutcome = some .denied ∧ (t.contract .l1).cursor = ⟨0, 3⟩ ∧
      (t.contract .l1).claim = some ⟨⟨3, 1000, 80, 60⟩, 1⟩ ∧ t.budget.drawCommit.l1 = 400 ∧ t.budget.drawHeadroom = 0 ∧
      (t.channel .l1).output.current = 20 := by decide +kernel

/-! ### Section 5.10: an accessory claims, is powered, and lets its lease lapse -/

/-- L3 supplies under 250 and 40; the supply menu list of the example is loaded. -/
def phoneSupplied : State :=
  { base.withLine .l3 { record .active .supply with agreement := some ⟨250, 40, 20, 0⟩ } with
    menu := ((base.menu.set 0 ⟨true, ⟨.fixed, 250, 250, 60⟩⟩).set 1 ⟨true, ⟨.fixed, 450, 450, 60⟩⟩).set 2
      ⟨true, ⟨.window, 250, 450, 150⟩⟩
    budget := { Budget.initial with
      order := [⟨.l3, 50, 250⟩], supplyCommit := ⟨0, 0, 0, 50⟩, committedSupply := 50, supplyHeadroom := 100 } }

/-- The three points that the example's menu is offered with. -/
def offeredPoints : List Point := [⟨.fixed, 250, 250, 60⟩, ⟨.fixed, 450, 450, 44⟩, ⟨.window, 250, 450, 100⟩]

theorem test_announce_offersMenu :
    let t := took (exec (.announceReceived .l2)
      ((phoneSupplied.withLine .l2 (record .greeting .none)).hears .l2 ⟨1, .announce .consumer false false 7 1⟩))
    (t.contract .l2).state = .offering ∧ (t.contract .l2).offered = some ⟨offeredPoints, false⟩ := by decide +kernel

/-- L2 in OFFERING with the menu of the example. -/
def hubOffered : State :=
  phoneSupplied.withLine .l2 { record .offering .supply with offered := some ⟨offeredPoints, false⟩ }

theorem test_claim_granted : let t := took (exec (.claimReceived .l2) (hubOffered.hears .l2 ⟨2, .claim ⟨1, 450, 44, 30⟩⟩))
    (t.contract .l2).state = .powering ∧ (t.contract .l2).grant = some ⟨450, 44, 20, 1, 2⟩ ∧
      t.budget.order = [⟨.l3, 50, 250⟩, ⟨.l2, 99, 450⟩] ∧ t.budget.committedSupply = 149 ∧ t.budget.supplyHeadroom = 1 ∧
      (t.channel .l2).output = ⟨true, 450, 44⟩ := by decide +kernel

/-- The samples of the example: 433, 447 and 451, of which the third settles. -/
theorem test_samples_settle :
    let ch : Channel := { Channel.powerOn with command := .supply 450 44 true true none, settleStart := some 40 }
    let c1 := (ch.sample ⟨402, 0, 58⟩ false).sample ⟨433, 0, 60⟩ false
    let c2 := c1.sample ⟨447, 0, 61⟩ false
    c1.settleRun = 1 ∧ c2.settleRun = 2 ∧ (c2.sample ⟨451, 0, 62⟩ false).settleReport = some 451 := by decide

theorem test_settleEvent_ready :
    let s := took (exec (.claimReceived .l2) (hubOffered.hears .l2 ⟨2, .claim ⟨1, 450, 44, 30⟩⟩))
    let s1 := { s with now := 62, channels := s.channels.set .l2 { s.channel .l2 with settleReport := some 451 } }
    let t := took (exec (.settleEvent .l2) s1)
    (t.contract .l2).state = .active ∧ (t.contract .l2).agreement = some ⟨450, 44, 20, 1⟩ ∧
      (t.contract .l2).leaseDeadline = some 20062 ∧ t.budget.supplyCommit.l2 = 99 ∧
      (t.engine .l2).txQueue.getLast?.map TxFrame.chars = some (Frame.mk 2 (.ready 451 44)).chars := by decide +kernel

/-- L2 is ACTIVE to 40 075 and L1's menu is held. -/
def hubActive : State :=
  { (phoneSupplied.withLine .l2 { record .active .supply with
      agreement := some ⟨450, 44, 20, 1⟩, leaseDeadline := some 40075 }).withLine .l1
      { record .offering .supply with offered := some ⟨[], true⟩ } with
    now := 40075
    budget := { Budget.initial with
      order := [⟨.l3, 50, 250⟩, ⟨.l2, 99, 450⟩], supplyCommit := ⟨0, 0, 99, 50⟩, committedSupply := 149
      supplyHeadroom := 1 } }

theorem test_leaseDeadline_releases : let t := took (exec (.leaseDeadline .l2) hubActive)
    (t.contract .l2).state = .greeting ∧ (t.contract .l2).lastOutcome = some .leaseLost ∧ t.budget.order = [⟨.l3, 50, 250⟩] ∧
      t.budget.supplyHeadroom = 100 ∧ (t.contract .l1).offered = some ⟨offeredPoints, false⟩ ∧
      (t.engine .l1).txQueue.length = 1 := by decide +kernel

theorem test_renew_afterLease :
    let s := { took (exec (.leaseDeadline .l2) hubActive) with now := 40080 }
    let t := took (exec (.renewReceived .l2) (s.hears .l2 ⟨5, .renew 0⟩))
    (t.engine .l2).health.strayAnswer = true ∧ (t.contract .l2).timers.greetingDelay = some 40130 ∧
      (t.engine .l2).txQueue = (s.engine .l2).txQueue := by decide +kernel

/-- Each KEEP of the example carries the stance word 4. -/
theorem test_renew_keep :
    let t := took (exec (.renewReceived .l2) ({ hubActive with now := 10070 }.hears .l2 ⟨3, .renew 44⟩))
    (t.contract .l2).leaseDeadline = some 30070 ∧
      (t.engine .l2).txQueue.map TxFrame.chars = [(Frame.mk 3 (.keep 4)).chars] := by decide +kernel

/-! ### Section 6.7: one table, four queries -/

/-- The four entries of the example, with BATTERY_LOW 1. -/
def fourEntries : State :=
  { base with
    link := { base.link with stance := 0x0010 }
    rules := (((base.rules.set 0 { RuleEntry.blank with
        enabled := true, report := true, action := .clamp, clamp := 450, lines := 15, kinds := 1, hasIdentity := true
        identity := 0x00A40000, mask := 0xFFFF0000 }).set 1 { RuleEntry.blank with
        enabled := true, report := true, action := .forward, fallback := .wait, lines := 12, kinds := 4, hasPower := true
        pMin := 301, pMax := 2500 }).set 2 { RuleEntry.blank with
        enabled := true, action := .refuse, lines := 15, kinds := 2, hasPower := true, pMin := 0, pMax := 149
        hasStance := true, stance := 1 }).set 3 { RuleEntry.blank with
        action := .wait, lines := 15, kinds := 6, hasVoltage := true, vMin := 900, vMax := 1300 } }

/-- The four queries of the example. -/
def fourQueries : List Query :=
  [⟨.l1, .announce, some .supplier, some 0x00A40010, 0, 0, 0, 0⟩, ⟨.l1, .menuPoint, some .supplier, some 0x00A40010, 1000, 1000, 650, 0⟩,
    ⟨.l1, .menuPoint, some .supplier, some 0x00A40010, 250, 250, 75, 1⟩, ⟨.l2, .claim, some .consumer, some 7, 900, 900, 360, 0⟩]

theorem test_queries_answered :
    fourQueries.map (fun q => (fourEntries.answerOf q).action) = [.clamp, .auto, .refuse, .forward] := by decide +kernel

theorem test_queries_counted : let t := fourQueries.foldl State.afterQuery fourEntries
    (List.finRange 4).map (fun i => (t.rules[i.val]'(by omega)).hits) = [1, 1, 1, 0] ∧
      t.link.notices.map (fun n => n.body) = [.report 0 .clamp .announce 0 0 0 0] := by decide +kernel

/-- L1 awaits the example's MENU with its line clamp 450. -/
def fourEntriesWait : State := fourEntries.withLine .l1 { record .awaitMenu .draw with lineClamp := some 450 }

/-- Entry 3 of the example with enabled set, in a TABLE_PUT. -/
def enableThird : Req :=
  .framed 0x10 .device 9 ([3, 0x90, 0x0F, 0x06, 0x01] ++ List.replicate 9 0 ++ [0x03, 0x84, 0x05, 0x14] ++ List.replicate 7 0)

/-- The example's closing sentence: of two points at 1000, the one queried after the TABLE_PUT is struck by entry 3 and steps its
count; the one queried before keeps its mark. -/
theorem test_tablePut_betweenQueries :
    let menu : Frame := ⟨6, .menu true [⟨.fixed, 1000, 1000, 130⟩, ⟨.fixed, 250, 250, 60⟩, ⟨.fixed, 1000, 1000, 130⟩]⟩
    let t := took (exec (.menuReceived ⟨.l1, some ⟨.l1, 2, .tablePut, enableThird⟩⟩) (fourEntriesWait.hears .l1 menu))
    ((t.contract .l1).farMenu.map fun m => m.points.map fun p => (p.mark, p.capacity)) =
        some [(.survives, 450), (.struck, 0), (.struck, 0)] ∧
      (List.finRange 4).map (fun i => (t.rules[i.val]'(by omega)).hits) = [0, 0, 1, 1] ∧
      t.link.responses = [⟨.device, 9, 0x10, .ok, []⟩] := by decide +kernel

/-- R108, R109, R121: a STANCE_SET that clears BATTERY_LOW between two queries leaves the second point unmet by entry 2; a TABLE_GET
with the zero option between two that it meets shows the count 1, and the second counts from 0. -/
theorem test_otherRequests_betweenQueries :
    let low : Point := ⟨.fixed, 250, 250, 60⟩
    let s := fourEntriesWait.hears .l1 ⟨6, .menu true [low, low]⟩
    let t := took (exec (.menuReceived ⟨.l1, some ⟨.l1, 1, .stanceSet, .framed 0x04 .device 9 [0, 0, 0]⟩⟩) s)
    let u := took (exec (.menuReceived ⟨.l1, some ⟨.l1, 1, .tableGet, .framed 0x11 .device 9 [2, 1]⟩⟩) s)
    ((t.contract .l1).farMenu.map fun m => m.points.map FarPoint.mark) = some [.struck, .survives] ∧
      ((u.contract .l1).farMenu.map fun m => m.points.map FarPoint.mark) = some [.struck, .struck] ∧
      u.link.responses.map (fun r => (r.result, r.data.drop 24)) = [(.ok, [0, 1])] ∧ (u.rules.get 2).hits = 1 := by
  decide +kernel

/-! ### Section 7.9: a supply ceiling cut with two accessories -/

/-- L3 and L2 supply, L1's menu is held, one entry is enabled. -/
def twoAccessories : State :=
  { ((base.withLine .l3 { record .active .supply with agreement := some ⟨250, 40, 20, 0⟩ }).withLine .l2
      { record .active .supply with agreement := some ⟨450, 40, 20, 0⟩ }).withLine .l1
      { record .offering .supply with offered := some ⟨[], true⟩ } with
    menu := base.menu.set 0 ⟨true, ⟨.fixed, 250, 250, 60⟩⟩
    budget := { Budget.initial with
      order := [⟨.l3, 50, 250⟩, ⟨.l2, 90, 450⟩], supplyCommit := ⟨0, 0, 90, 50⟩, committedSupply := 140
      supplyHeadroom := 10 } }

/-- The state after the BUDGET_SET of the example. -/
def ceilingCut : State := took (exec (.budgetSet (.framed 0x20 .device 1 [0x02, 0x58, 0, 80, 0x1B])) twoAccessories)

theorem test_budgetSet_recalls : (ceilingCut.contract .l2).recallOut = some ⟨20, none, .budget⟩ ∧
    (ceilingCut.contract .l3).recallOut = some ⟨28, none, .budget⟩ ∧ ceilingCut.budget.supplyOver = true ∧
    ceilingCut.budget.supplyHeadroom = 0 ∧ (ceilingCut.engine .l2).txQueue.length = 1 ∧
    (ceilingCut.engine .l1).txQueue = [] := by decide +kernel

theorem test_yield_adjusts : let t := took (exec (.yieldReceived .l3) (ceilingCut.hears .l3 ⟨0, .yield 28⟩))
    t.budget.order = [⟨.l3, 35, 250⟩, ⟨.l2, 90, 450⟩] ∧ t.budget.committedSupply = 125 ∧
      (t.contract .l3).agreement = some ⟨250, 28, 20, 0⟩ ∧ (t.contract .l3).recallOut = none := by decide +kernel

theorem test_recallDeadline_forces :
    let s := ceilingCut.onContract .l2 fun c => { c with recallOut := some ⟨20, some 1000, .budget⟩ }
    let t := took (exec (.recallDeadline .l2) s)
    (t.contract .l2).lastOutcome = some .recallForced ∧ (t.captures.get .l2).cause = some .recallIgnored ∧
      t.budget.supplyCommit.l2 = 45 ∧ (t.channel .l2).output.current = 20 := by decide +kernel

theorem test_budgetClear_clears :
    let s := { ceilingCut with
      link := { ceilingCut.link with receiver := .receiving, responses := [], notices := [] }
      budget := { ceilingCut.budget with
        order := [⟨.l3, 35, 250⟩, ⟨.l2, 45, 450⟩], supplyCommit := ⟨0, 0, 45, 35⟩, committedSupply := 80 } }
    let t := took (exec (.budgetClear (.framed 0x22 .device 2 [])) s)
    t.budget.supplyOver = false ∧ t.link.notices = [] := by decide +kernel

/-! ### Section 8.6: a capped accessory runs out of allowance -/

theorem test_sample_meters :
    let ch : Channel := { Channel.powerOn with
      command := .supply 450 44 false true (some 450), energy := 99990, allowance := 3 }
    let first := (Channel.sample { ch with energy := 0 } ⟨450, -44, 1⟩ true)
    let t := ch.sample ⟨450, -44, 1⟩ true
    let last := Channel.sample { ch with energy := 99970, allowance := 1 } ⟨450, -44, 1⟩ true
    first.energy = 99 ∧ t.energy = 89 ∧ t.allowance = 2 ∧ t.capReport = false ∧ last.energy = 69 ∧ last.allowance = 0 ∧
      last.capReport = true := by decide

theorem test_capEvent_recalls :
    let c : Contract := { record .active .supply with
      agreement := some ⟨450, 44, 20, 1⟩, options := { Options.default .both with capMode := .recallAtCap, allowance := 3 } }
    let s := (base.withLine .l2 c).onChannel .l2 fun ch => { ch with capReport := true }
    let t := took (exec (.capEvent .l2) s)
    (t.contract .l2).recallOut = some ⟨20, none, .cap⟩ ∧
      (t.engine .l2).txQueue.map TxFrame.chars = [(Frame.mk 0 (.recall 20 10)).chars] := by decide +kernel

/-! ### Section 9.9: three faults on one line -/

theorem test_captures :
    let r1 := Capture.clear.take .loop .active (some .keep) 5000
    let r2 := r1.1.take .overcurrent .active none 5404
    let r3 := r2.1.take .malformed .faulted (some .statusQ) 5420
    r1 = (⟨true, some .loop, .active, some .keep, 5000, false, 0⟩, true) ∧
      r2 = (⟨true, some .overcurrent, .active, none, 5404, true, 1⟩, true) ∧
      r3 = (⟨true, some .overcurrent, .active, none, 5404, true, 2⟩, false) := by decide

theorem test_samples_overcurrent :
    let ch : Channel := { Channel.powerOn with command := .supply 450 40 false true (some 450) }
    let hit := fun (c : Channel) => c.sample ⟨450, -45, 1⟩ false
    (hit (hit (hit (hit ch)))).due.overcurrent = false ∧ (hit (hit (hit (hit (hit ch))))).due.overcurrent = true ∧
      (ch.sample ⟨450, -44, 1⟩ false).overcurrentRun = 0 := by decide

/-! ### Section 10.8: a forwarded CLAIM overtaken by its deadline -/

/-- L2 has offered 750 at 80 under a supply ceiling of 400, and entry 5 forwards. -/
def forwards : State :=
  { base.withLine .l2 { record .offering .supply with
      offered := some ⟨[⟨.fixed, 750, 750, 80⟩], false⟩, far := some ⟨.consumer, 7, 1⟩ } with
    link := { base.link with verdictTag := 46 }
    budget := { Budget.initial with supplyCeiling := 400, supplyHeadroom := 400 }
    rules := base.rules.set 5 { RuleEntry.blank with
      enabled := true, report := true, action := .forward, fallback := .clamp, clamp := 200, lines := 4, kinds := 4
      hasPower := true, pMin := 250, pMax := 2500 } }

/-- The state after the CLAIM of the example. -/
def forwarded : State := took (exec (.claimReceived .l2) (forwards.hears .l2 ⟨3, .claim ⟨0, 750, 80, 40⟩⟩))

theorem test_claim_forwarded : (forwarded.contract .l2).state = .deciding ∧ forwarded.link.verdictTag = 47 ∧
    forwarded.link.notices = [] ∧
    forwarded.link.verdicts.map (fun v => (v.tag, v.kind, v.rule, v.fallback, v.clamp, v.deadline)) =
      [(46, .claim, 5, .clamp, 200, 1020)] ∧
    (forwarded.channel .l2).output = ⟨true, 250, 20⟩ := by decide +kernel

theorem test_transmitChoice_relay :
    (took (exec .transmitChoice forwarded)).link.stx.map List.length = some 22 := by decide +kernel

theorem test_verdictDeadline_clamps : let t := took (exec (.verdictDeadline .l2) { forwarded with now := 1020 })
    (t.contract .l2).state = .powering ∧ (t.contract .l2).grant = some ⟨750, 53, 20, 0, 3⟩ ∧
      t.budget.order = [⟨.l2, 198, 750⟩] ∧ t.budget.supplyHeadroom = 202 ∧ t.link.responses = [] := by decide +kernel

theorem test_verdictGrant_late :
    let s := took (exec (.verdictDeadline .l2) { forwarded with now := 1020 })
    let t := took (exec (.verdictGrant (.framed 3 (.line .l2) 46 0 80)) s)
    t.link.responses = [⟨.line .l2, 46, 0x00, .unknownTag, []⟩] ∧ (t.contract .l2) = (s.contract .l2) := by decide +kernel

theorem test_verdictGrant_early : let t := took (exec (.verdictGrant (.framed 3 (.line .l2) 46 0 80)) { forwarded with now := 1015 })
    t.link.responses = [⟨.line .l2, 46, 0x00, .accepted, []⟩] ∧ t.budget.committedSupply = 300 ∧
      t.budget.supplyHeadroom = 100 := by decide +kernel

/-! ### Section 11.5: a night with a dock recall -/

/-- L0 draws 1000 at 90; a CLAIM on L3 is forwarded with fallback AUTO. -/
def evening : State :=
  { (base.withLine .l0 { record .active .draw with agreement := some ⟨1000, 90, 20, 0⟩ }).withLine .l3
      { record .deciding .supply with decision := some ⟨.claim ⟨0, 250, 40, 20⟩, 2, 980, .offering⟩ } with
    link := { base.link with verdicts := [⟨12, .l3, .claim, 2, .auto, 0, 1015, []⟩] }
    budget := { Budget.initial with
      drawCommit := ⟨450, 0, 0, 0⟩, committedDraw := 450, drawHeadroom := 150, drawCopy := ⟨some ⟨1000, 90⟩, none, none, none⟩
      alloc := ⟨some ⟨450, 90⟩, none, none, none⟩ } }

theorem test_quiet_resolves : let t := took (exec (.quiet (.framed 0x03 .device 3 [0b0010010])) evening)
    t.link.mode = .autonomous ∧ t.link.verdicts = [] ∧ t.link.wake = false ∧ t.budget.supplyCommit.l3 = 50 ∧
      (t.contract .l3).grant.map PowerGrant.current = some 40 := by decide +kernel

theorem test_recall_honoured :
    let s := took (exec (.quiet (.framed 0x03 .device 3 [0b0010010])) evening)
    let t := took (exec (.recallReceived .l0) (s.hears .l0 ⟨5, .recall 60 10⟩))
    (t.contract .l0).agreement = some ⟨1000, 60, 20, 0⟩ ∧ t.budget.alloc.l0 = some ⟨300, 60⟩ ∧ t.budget.committedDraw = 300 ∧
      (t.engine .l0).txQueue.map TxFrame.chars = [(Frame.mk 5 (.yield 60)).chars] ∧ t.link.wake = false := by decide +kernel

theorem test_detach_wakes : let s := took (exec (.quiet (.framed 0x03 .device 3 [0b0010010])) evening)
    let u := s.onEngine .l3 fun e => { e with presenceLevel := false, presenceRun := 2 }
    (took (exec (.detach .l3) s)).link.wake = false ∧ (took (exec (.detach .l3) u)).link.wake = true := by decide +kernel

theorem test_identify_endsAutonomous :
    let s := took (exec (.quiet (.framed 0x03 .device 3 [0b0010010])) evening)
    let t := took (exec (.identify (.framed 0x01 .device 4 [])) { s with link := { s.link with receiver := .receiving } })
    t.link.mode = .running ∧ (t.link.responses.map fun r => r.data.take 4) = [[], [0x0E, 0x40, 0x00, 0x02]] := by
  decide +kernel

/-! ### Other single steps -/

/-- R158, R178: a request whose check differs is dropped with the link error flag, and nothing answers it. -/
theorem test_wrongCheck_dropped : let r := Req.framed 0x03 .device 3 [0]
    let t := took (exec (.quiet { r with check := r.check ^^^ 1 }) evening)
    t.link.linkError = true ∧ t.link.responses = [] ∧ t.link.mode = .running ∧ t.link.receiver = .idle := by decide +kernel

/-- R158: a frame with a length of 61 sets the link error flag before its end, and the receiver skips its rest. -/
theorem test_longLinkFrame : let t := took (exec (.linkFrameMalformed [linkChar 0xE1] (linkChar 61)) base)
    t.link.linkError = true ∧ t.link.receiver = .skipping := by decide +kernel

/-- R32, R66: a MENU in CLAIMING abandons the claim of the old menu. -/
theorem test_menu_abandonsClaim :
    let s := took (exec (.menuReceived ⟨.l1, none⟩) (adapterWaits.hears .l1 adapterMenu))
    let t := took (exec (.menuReceived ⟨.l1, none⟩) (s.hears .l1 ⟨7, .menu false [⟨.fixed, 900, 900, 10⟩]⟩))
    (t.contract .l1).state = .baseline ∧ (t.contract .l1).lastOutcome = some .noSuitablePoint ∧
      t.budget.drawCommit.l1 = 0 := by decide +kernel

/-- R60: the four rows of the strap table. -/
theorem test_powerOnReset_straps :
    (took (exec (.powerOnReset ⟨⟨false, false, false⟩, ⟨false, true, false⟩, ⟨true, false, true⟩, ⟨true, true, true⟩⟩) State.reset)).straps =
      ⟨.disabled, .drawOnly, .supplyOnly, .both⟩ := by decide +kernel

/-- R18: a presence input that has been high for 19 ms is not reported; the next high sample makes it 20. -/
theorem test_attach_after20ms :
    let s := base.onEngine .l1 fun e => { e with presenceLevel := true, presenceRun := 19 }
    let t := took (exec (.sample true ⟨none, [⟨.l1, 0, 0, true⟩]⟩) s)
    ((took (exec (.attach .l1) s)).engine .l1).present = false ∧
      ((took (exec (.attach .l1) t)).engine .l1).present = true := by decide +kernel

/-- R56, R140, R144, R149: the sample at 250 ms finds the settle timeout expired and trips the channel; a teardown comes before the
report, which is captured in DETACHED. -/
theorem test_settleTimeout_afterTeardown :
    let s := (base.withLine .l1 { record .powering .supply with grant := some ⟨450, 10, 20, 1, 2⟩ }).onChannel .l1 fun ch =>
      { ch with settleStart := some 751 }
    let u := took (exec (.sample true ⟨none, [⟨.l1, 0, 0, true⟩]⟩) s)
    let t := took (exec (.settleTimeout .l1) (u.teardown .l1))
    (u.channel .l1).tripped = true ∧ (t.captures.get .l1).cause = some .settle ∧
      (t.captures.get .l1).state = .detached := by decide +kernel

/-- R140, R144: a detach at the instant at which the settle timeout expires: the timeout trips the channel, and its fault finds the
contract DETACHED. -/
theorem test_settleTimeout_atTeardown :
    let s := (base.withLine .l1 { record .powering .supply with grant := some ⟨450, 10, 20, 1, 2⟩ }).onChannel .l1 fun ch =>
      { ch with settleStart := some 750 }
    let t := took (exec (.settleTimeout .l1) (s.teardown .l1))
    ((s.teardown .l1).channel .l1).tripped = false ∧ (t.captures.get .l1).cause = some .settle ∧
      (t.captures.get .l1).time = 1000 ∧ (t.captures.get .l1).state = .detached := by decide +kernel

/-- R136, R144: between the trip and its report the path is open and a command of the contract engine is refused: here the one of
the ACTIVE that a settle event brings in between. -/
theorem test_trip_refuses :
    let s := (base.withLine .l1 { record .powering .supply with grant := some ⟨450, 10, 20, 1, 2⟩ }).onChannel .l1 fun ch =>
      { ch with overcurrentRun := 4, settleReport := some 450 }
    let u := took (exec (.sample false ⟨none, [⟨.l1, 450, -20, true⟩]⟩) s)
    let v := took (exec (.settleEvent .l1) u)
    let t := took (exec (.overcurrentTrip .l1) v)
    (u.channel .l1).output = ⟨false, 0, 0⟩ ∧ (v.contract .l1).state = .active ∧ v.channel .l1 = { u.channel .l1 with settleReport := none } ∧
      (t.contract .l1).state = .faulted ∧ (t.channel .l1).tripped = false ∧ (t.captures.get .l1).state = .active := by
  decide +kernel

/-- R11: a character that was sent twice, then lost in its repeat slot, is at its second send when the frame starts again. -/
theorem test_arbitrationLost_keepsSends :
    let e : LineEngine := { attached with
      txQueue := [⟨0, [0x10, 0x00, 0x80], 0⟩], txSide := .sending, txIndex := 0, txSends := 2, watchdog := some 3 }
    let s := took (exec (.arbitrationLost .l1) (base.onEngine .l1 fun _ => e))
    let t := took (exec (.sendStart .l1) (s.onEngine .l1 fun e => { e with rxSide := .idle }))
    (t.engine .l1).txSide = .sending ∧ (t.engine .l1).txSends = 2 := by decide +kernel

/-! ### Witnesses -/

/-- A MENU has no forwarded point when none of its points is. -/
theorem noForward_of {s : State} {l : Line} {pts : List Point}
    (h : ∀ i : Fin pts.length, (s.pointAnswer l pts[i] i.val).action ≠ .forward) : s.NoForward l pts := by
  intro i p hp
  obtain ⟨hi, rfl⟩ := List.getElem?_eq_some_iff.mp hp
  exact h ⟨i, hi⟩

/-- Nor when a TABLE_PUT between two of the queries leads to a second table. -/
theorem noForwardUpTo_of {s u : State} {l : Line} {n : Nat} {pts : List Point}
    (h : ∀ i : Fin pts.length, ((if i.val < n then s else u).pointAnswer l pts[i] i.val).action ≠ .forward) :
    s.NoForwardUpTo u l n pts := by
  intro i p hp
  obtain ⟨hi, rfl⟩ := List.getElem?_eq_some_iff.mp hp
  exact h ⟨i, hi⟩

/-- No point of a MENU before a given one is forwarded when none of them is. -/
theorem noForwardBefore_of {s : State} {l : Line} {pts : List Point} {j : Nat}
    (h : ∀ i : Fin pts.length, i.val < j → (s.pointAnswer l pts[i] i.val).action ≠ .forward) :
    ∀ (i : Nat) (o : Point), i < j → pts[i]? = some o → (s.pointAnswer l o i).action ≠ .forward := by
  intro i p hj hp
  obtain ⟨hi, rfl⟩ := List.getElem?_eq_some_iff.mp hp
  exact h ⟨i, hi⟩ hj

def due : Time := 1000
def timersOff : Timers := ⟨none, none, none, none, none, none, none, none⟩
def someClaim : ClaimFields := ⟨0, 450, 30, 10⟩
def drawClaim : ClaimFields := ⟨0, 250, 20, 8⟩
def agreed20 : Agreement := ⟨250, 20, 20, 0⟩
def agreed40 : Agreement := ⟨250, 40, 20, 0⟩
def outClaim : OutClaim := ⟨drawClaim, 3⟩
def strayChar : WireChar := ⟨0x10, true⟩
def oddChar : WireChar := ⟨0x3A, true⟩
def openRecall : RecallOut := ⟨20, none, .controller⟩
def lateRecall : RecallOut := ⟨20, some 1000, .controller⟩
def poweredGrant : PowerGrant := ⟨450, 10, 20, 1, 2⟩
def wide : Reading := ⟨.l1, 1600, -321, true⟩
def lowEdge : Reading := ⟨.l1, 238, 0, true⟩
def highEdge : Reading := ⟨.l1, 262, 0, true⟩
def plugged : State := base.onEngine .l1 fun e => { e with presenceLevel := true, presenceRun := 20 }
def pluggedLate : State := base.onEngine .l1 fun e => { e with presenceLevel := true, presenceRun := 19 }
def drawing : State := on (record .active .draw) attached
def unplugged : State := on (record .active .draw) { attached with presenceLevel := false, presenceRun := 2 }
def unpluggedLate : State := on (record .active .draw) { attached with presenceLevel := false, presenceRun := 1 }
def unpluggedAtExpiry : State :=
  { unplugged with channels := unplugged.channels.set .l1 { unplugged.channel .l1 with settleStart := some 750 } }
def unpluggedSettling : State :=
  { unplugged with channels := unplugged.channels.set .l1 { unplugged.channel .l1 with settleStart := some 751 } }
def quietLine : State := on (record .greeting .none) attached
def midFrame : State :=
  on (record .greeting .none) { attached with rxSide := .receiving, rxSlot := true, gapTimer := true }
def discarding : State := on (record .greeting .none) { attached with rxSide := .discarding }
def firstChar : State :=
  on (record .greeting .none) { attached with convention := .unknown, rxSide := .receiving, rxSlot := true, gapTimer := true }
def secondChar : State :=
  on (record .greeting .none) { attached with convention := .inverse, rxSide := .receiving, rxSlot := true, gapTimer := true, rxChars := [0x3A] }
def fourthStrike : State :=
  { on (record .offering .supply) { attached with convention := .unknown, rxSide := .receiving, rxSlot := true, gapTimer := true } with strikes := ⟨0, 3, 0, 0⟩ }
def overLong : State := on (record .greeting .none) { attached with rxSide := .receiving, rxChars := [0x10, 49] }
def badCheck : State :=
  on (record .greeting .none) { attached with rxSide := .receiving, rxChars := [0x10, 0x00, 0x81], rxExpected := some 3 }
def badField : State :=
  on (record .greeting .none) { attached with rxSide := .receiving, rxChars := [0x06, 0x01, 0x00, 0x43], rxExpected := some 4 }
def statusFrame (id failures : Nat) : TxFrame := ⟨id, [0x10, 0x00, 0x80], failures⟩
def sendingOf (fs : List TxFrame) (index sends watchdog : Nat) : LineEngine :=
  { attached with
    txQueue := fs, txSide := .sending, txLevels := [0x10, 0x00, 0x80].map (wireChar .direct), txIndex := index
    txSends := sends, watchdog := some watchdog, nextId := 2 }
def waitsToSend : State :=
  on (record .greeting .none) { attached with txQueue := [statusFrame 0 0], txSide := .waiting, nextId := 1 }
def retries : State :=
  on (record .greeting .none) { attached with txQueue := [statusFrame 0 1], txSide := .retryWait, nextId := 1, wdCount := 2 }
def sendsAgain : State :=
  on (record .greeting .none) { attached with txQueue := [statusFrame 0 0], txSide := .waiting, txSends := 3, nextId := 1 }
def sendsFirst : State := on (record .greeting .none) (sendingOf [statusFrame 0 0] 0 1 0)
def sendsThird : State := on (record .greeting .none) (sendingOf [statusFrame 0 0] 0 3 0)
def drained : State := on (record .greeting .none) { attached with drain := some 0 }
def exchangeOf (k : ReqKind) (expiries : Nat) (timer base : Option Time) : Exchange := ⟨k, 3, [0x10, 0x00, 0x80], 0, expiries, timer, base⟩
def sendsLast : State := on (record .greeting .none) (sendingOf [statusFrame 0 0] 2 1 9)
def sendsClaim : State :=
  on { record .claiming .draw with exchange := some (exchangeOf .claim 0 none none) } (sendingOf [statusFrame 0 0, statusFrame 1 0] 2 1 9)
def sendsRecall : State :=
  on { record .active .supply with exchange := some (exchangeOf .recall 0 none none), recallOut := some openRecall } (sendingOf [statusFrame 0 0] 2 1 9)
def sendsGranted : State :=
  on { record .switching .draw with exchange := some (exchangeOf .claimGranted 0 none none), agreement := some agreed20 } (sendingOf [statusFrame 0 0] 2 1 9)
def sendsAnnounce : State :=
  on { record .greeting .none with exchange := some (exchangeOf .announce 0 none none) } (sendingOf [statusFrame 0 0] 2 1 9)
def sendsSlow : State :=
  on { record .baseline .draw with unmanaged := true, exchange := some (exchangeOf .announce 0 none none) } (sendingOf [statusFrame 0 0] 2 1 9)
def sendsClosed : State :=
  on { record .baseline .draw with unmanaged := true, timers := { timersOff with slowFrame := some 0 } } (sendingOf [statusFrame 0 0] 2 1 9)
def fourthSend : State := on (record .active .draw) (sendingOf [statusFrame 0 0] 1 4 5)
def firstLoop : State := on (record .active .draw) (sendingOf [statusFrame 0 0, statusFrame 1 0] 1 1 5)
def secondLoop : State := on (record .active .draw) (sendingOf [statusFrame 0 1, statusFrame 1 0] 1 1 5)
def watchdogOver : State := on (record .active .draw) (sendingOf [statusFrame 0 0] 1 1 40)
def thirdExpiry : State := on (record .active .draw) { sendingOf [statusFrame 0 0] 1 1 40 with wdCount := 2 }
def slowSecondLoop : State :=
  on { record .baseline .draw with unmanaged := true, timers := { timersOff with slowFrame := some 0 } } (sendingOf [statusFrame 0 1, statusFrame 1 0] 1 1 5)
def ownFirstLoop : State :=
  on { record .claiming .draw with claim := some outClaim, exchange := some (exchangeOf .claim 0 none none) } (sendingOf [statusFrame 0 0, statusFrame 1 0] 1 1 5)
def failing (c : Contract) (x : Exchange) : State := on { c with exchange := some x } (sendingOf [statusFrame 0 0] 1 4 5)
def claimFails : State :=
  failing { record .claiming .draw with claim := some outClaim } (exchangeOf .claim 0 none none)
def claimFailsTwice : State :=
  on { record .claiming .draw with claim := some outClaim, exchange := some (exchangeOf .claim 1 none none) } (sendingOf [statusFrame 0 1] 1 1 5)
def grantedFails : State :=
  failing { record .switching .draw with agreement := some agreed20 } (exchangeOf .claimGranted 0 none none)
def announceFails : State :=
  on { record .greeting .none with greetingCount := 1, exchange := some (exchangeOf .announce 0 none none) } (sendingOf [statusFrame 0 0] 1 1 40)
def slowFails : State := failing { record .baseline .draw with unmanaged := true } (exchangeOf .announce 0 none none)
def recallFails : State :=
  failing { record .active .supply with agreement := some agreed40, recallOut := some openRecall } (exchangeOf .recall 0 none none)
def announceFailsThrice : State :=
  failing { record .greeting .none with greetingCount := 2 } (exchangeOf .announce 0 none none)
def announceFailsSupplier : State :=
  failing { record .greeting .none with greetingCount := 2, options := Options.default .supplyOnly } (exchangeOf .announce 0 none none)
def struck3 (s : State) : State := { s with strikes := ⟨0, 3, 0, 0⟩ }
def delayOver : State :=
  on { record .greeting .none with timers := { timersOff with greetingDelay := some due } } attached
def retryOver : State :=
  on { record .greeting .none with timers := { timersOff with greetingRetry := some due } } attached
def slowOver : State :=
  on { record .baseline .draw with unmanaged := true, timers := { timersOff with slowRegreeting := some due } } attached
def waitingRequest : Request := ⟨.renew, 2, (Frame.mk 2 (.renew 5)).chars, 0⟩
def requestWaits : State := on { record .active .draw with waiting := some waitingRequest } attached
def farPoint : FarPoint := ⟨⟨.fixed, 250, 250, 40⟩, .survives, 50⟩
def farMenuOf (ps : List FarPoint) : FarMenu := ⟨[], ps⟩
def backoffOver : State :=
  on { record .backoff .draw with farMenu := some (farMenuOf [farPoint]), timers := { timersOff with backoff := some due } } attached
def renewalOver : State :=
  on { record .active .draw with agreement := some agreed20, timers := { timersOff with renewal := some due } } attached
def renewalBehind : State :=
  on { record .active .draw with agreement := some agreed20, exchange := some (exchangeOf .renew 0 none none), timers := { timersOff with renewal := some due } } attached
def renewalDisplaces : State := on { renewalBehind.contract .l1 with waiting := some waitingRequest } attached
def claimSilent : State :=
  on { record .claiming .draw with exchange := some (exchangeOf .claim 0 (some due) (some 975)), claim := some outClaim } attached
def claimSilentTwice : State :=
  on { record .claiming .draw with exchange := some (exchangeOf .claim 1 (some due) (some 975)), claim := some outClaim } attached
def greetingSilent : State :=
  on { record .greeting .none with greetingCount := 1, exchange := some (exchangeOf .announce 0 (some due) (some 975)) } attached
def greetingSilentThrice : State :=
  on { record .greeting .none with greetingCount := 2, exchange := some (exchangeOf .announce 0 (some due) (some 975)) } attached
def displacedOnce : State :=
  on { record .active .draw with agreement := some agreed20, exchange := some (exchangeOf .renew 0 none none), displaced := [exchangeOf .renew 0 (some due) (some 975)] } attached
def displacedTwice : State :=
  on { record .active .draw with agreement := some agreed20, exchange := some (exchangeOf .renew 0 none none), displaced := [exchangeOf .renew 1 (some due) (some 975)] } attached
def noReady : State :=
  on { record .switching .draw with agreement := some agreed20, timers := { timersOff with readyWait := some due } } attached
def leaseOver : State :=
  on { record .active .supply with agreement := some agreed20, leaseDeadline := some due } attached
def recalled : Contract := { record .active .supply with agreement := some agreed40, recallOut := some lateRecall, exchange := some (exchangeOf .recall 0 none none) }
def recallOver : State := on recalled attached
def yieldsMore : State := on recalled (hearing ⟨3, .yield 21⟩)
def yieldsEnough : State := on recalled (hearing ⟨3, .yield 20⟩)
def onChannel (s : State) (f : Channel → Channel) : State := s.onChannel .l1 f
/-- The channel has tripped at 997, with a report pending. -/
def tripping (due : TripsDue) (s : State) : State :=
  onChannel s fun ch => { ch with tripped := true, due := due, tripStamp := 997 }
def overcurrentDue : State := tripping ⟨true, false, false, false⟩ leaseOver
def reverseDue : State := tripping ⟨false, true, false, false⟩ drawing
def holdDue : State := tripping ⟨false, false, true, false⟩ leaseOver
def settleOver : State :=
  onChannel (on { record .powering .supply with grant := some poweredGrant } attached) fun ch => { ch with settleStart := some 750 }
def settleDue : State :=
  tripping ⟨false, false, false, true⟩ (on { record .powering .supply with grant := some poweredGrant } attached)
def checkOver : State :=
  on { record .switching .draw with agreement := some agreed20, timers := { timersOff with voltageCheck := some 950 } } attached
def settleLatched : State :=
  onChannel (on (record .detached .none) { attached with present := false }) fun ch => { ch with due := ⟨false, false, false, true⟩ }
def tripInFault : State :=
  onChannel (on (record .faulted .supply) attached) fun ch => { ch with due := ⟨true, false, false, false⟩ }
def settleLate : State :=
  onChannel (on { record .powering .supply with grant := some poweredGrant } attached) fun ch => { ch with settleStart := some 700 }
def checksVoltage : State :=
  on { record .switching .draw with agreement := some agreed20, exchange := none, timers := { timersOff with voltageCheck := some 990 } } attached
def belowEdge : Reading := ⟨.l1, 237, 0, true⟩
def checksDeferred : State :=
  on { checksVoltage.contract .l1 with deferred := true, farMenu := some (farMenuOf [farPoint]) } attached
def checksHeld : State :=
  on { checksVoltage.contract .l1 with deferred := true, options := { Options.default .both with holdAfterActive := true } } attached
def checksReversed : State := onChannel checksVoltage fun ch => { ch with reverseRun := 2 }
def reversed : Reading := ⟨.l1, 250, -11, true⟩
def after (c : Instr) (s : State) : State :=
  match exec c s with
  | .next t => t
  | _ => s
def strikePut : Req := .framed 0x10 .device 7 (0 :: [0x88, 0x02, 0x02] ++ List.replicate 21 0)
def checksDeferredTwo : State :=
  on { checksVoltage.contract .l1 with deferred := true, farMenu := some (farMenuOf [⟨⟨.fixed, 450, 450, 30⟩, .unqueried, 0⟩, farPoint]) } attached
def checksDeferredNone : State :=
  on { checksVoltage.contract .l1 with deferred := true, farMenu := some (farMenuOf [⟨⟨.fixed, 450, 450, 30⟩, .unqueried, 0⟩]) } attached
def lowBattery : Req := .framed 0x04 .device 8 [0, 0, 0x10]
def readsFirst : Req := .framed 0x11 .device 8 [0, 1]
def settledLate : State := onChannel quietLine fun ch => { ch with settleReport := some 451 }
def settledNow : State := onChannel settleOver fun ch => { ch with settleReport := some 451 }
def capped (m : CapMode) (c : Contract) : State :=
  onChannel (on { c with options := { Options.default .both with capMode := m } } attached) fun ch => { ch with capReport := true }
def underCap : Contract := { record .active .supply with agreement := some agreed40 }
def cappedLow : Contract := { record .active .supply with agreement := some agreed20 }
def cappedPowering : Contract := { record .powering .supply with grant := some poweredGrant }
def announceOf (c : FarClass) : Frame := ⟨1, .announce c true false 0x0E400002 1⟩
def meets (st : Straps) (c : FarClass) : State := on { record .greeting .none with options := Options.default st } (hearing (announceOf c))
def answering (a fallback : Action) (clamp : Nat) (s : State) : State :=
  { s with rules := s.rules.set 4 { RuleEntry.blank with
    enabled := true, report := true, action := a, fallback := fallback, clamp := clamp, lines := 2, kinds := 7 } }
def sells (s : State) : State := { s with menu := s.menu.set 0 ⟨true, ⟨.fixed, 250, 250, 120⟩⟩ }
def alone (s : State) : State := { s with link := { s.link with mode := .autonomous } }
/-- An ANNOUNCE that answers, and a record whose outstanding request it fits when `fit` is true. -/
def isAnswered (c : FarClass) (fit : Bool) (r : Contract) : State :=
  on { r with exchange := some { exchangeOf .announce 0 none none with tag := if fit then 1 else 2 } } (hearing ⟨1, .announce c true true 0x0E400002 1⟩)
def greeted (st : Straps) (c : FarClass) : State := isAnswered c true { record .greeting .none with options := Options.default st }
def restarts : State := on { record .active .supply with agreement := some agreed40 } (hearing (announceOf .supplier))
def restartsBlocked : State := on (record .blocked .none) (hearing (announceOf .consumer))
def answeredSlowly : State :=
  isAnswered .consumer true { record .baseline .draw with unmanaged := true, timers := { timersOff with slowRegreeting := some 1200 } }
def answeredLate : State := isAnswered .both true (record .offering .supply)
def answeredStray : State := isAnswered .both false (record .greeting .none)
def announcedFaulted : State := on (record .faulted .draw) (hearing (announceOf .both))
def announcedDisabled : State :=
  { on { record .blocked .none with options := Options.default .disabled } (hearing (announceOf .supplier)) with straps := .all .disabled }
def announced (c : FarClass) : Query := ⟨.l1, .announce, some c, some 0x0E400002, 0, 0, 0, 0⟩
def claimed (s : State) : Query :=
  ⟨.l1, .claim, (s.contract .l1).far.map FarFields.cls, (s.contract .l1).far.map FarFields.identity, 450, 450, 450 * 30 / 200, 0⟩
def twoPoints : List Point := [⟨.fixed, 450, 450, 30⟩, ⟨.fixed, 250, 250, 40⟩]
def menuFrame : Frame := ⟨2, .menu true twoPoints⟩
def menuArrives : State := on (record .awaitMenu .draw) (hearing menuFrame)
def menuUnfit : State := on (record .awaitMenu .draw) (hearing ⟨2, .menu false [⟨.fixed, 450, 450, 30⟩]⟩)
def menuSwitching : State :=
  on { record .switching .draw with agreement := some agreed20, cursor := ⟨2, 1⟩ } (hearing menuFrame)
def menuPaused : State := on { record .awaitMenu .draw with paused := true } (hearing menuFrame)
def menuClaims : State :=
  on { record .claiming .draw with claim := some outClaim, exchange := some (exchangeOf .claim 0 (some due) (some 975)), agreement := some agreed20 } (hearing menuFrame)
def menuBacksOff : State :=
  on { record .backoff .draw with waitStreak := 2, timers := { timersOff with backoff := some 1200 } } (hearing menuFrame)
def menuBaseline : State := on { record .baseline .draw with unmanaged := true } (hearing menuFrame)
def menuActive : State :=
  on { record .active .draw with agreement := some agreed20, timers := { timersOff with renewal := some 1200 } } (hearing menuFrame)
def menuClaimsPaused : State := on { menuClaims.contract .l1 with paused := true } (hearing menuFrame)
def someClaim5 : Frame := ⟨5, .claim someClaim⟩
def offeredOf (ps : List Point) (held : Bool) : OfferedMenu := ⟨ps, held⟩
def oneOffered : OfferedMenu := offeredOf [⟨.fixed, 450, 450, 30⟩] false
def claimForwards : State :=
  answering .forward .wait 0 (on { record .offering .supply with offered := some oneOffered } (hearing someClaim5))
def claimForwardsActive : State :=
  answering .forward .wait 0 (on { record .active .supply with agreement := some agreed40, offered := some oneOffered, far := some ⟨.consumer, 7, 1⟩ } (hearing someClaim5))
def secondForwards : State :=
  { menuArrives with rules := menuArrives.rules.set 4 { RuleEntry.blank with enabled := true, action := .forward, fallback := .auto, lines := 2, kinds := 2, hasVoltage := true, vMin := 250, vMax := 250 } }
def choosing (began : CState) (c : Contract) : State :=
  on { c with decision := some ⟨.menu, 1, 990, began⟩ } (hearing menuFrame)
def choiceSuperseded : State := choosing .awaitMenu (record .choosing .draw)
def choiceHeld : State :=
  choosing .active { record .choosing .draw with agreement := some agreed20, options := { Options.default .both with holdAfterActive := true } }
def claimFrame : Frame := ⟨5, .claim someClaim⟩
def offering (m : Option OfferedMenu) : State := on { record .offering .supply with offered := m } (hearing claimFrame)
def noMenu : State := offering none
def heldMenu : State := offering (some (offeredOf [] true))
def otherMenu : State := offering (some (offeredOf [⟨.fixed, 250, 250, 40⟩] false))
def fits : State := offering (some (offeredOf [⟨.fixed, 450, 450, 30⟩] false))
def busy : State := { fits with link := { fits.link with stance := 0x0008 } }
def noMenuActive : State := on { record .active .supply with agreement := some agreed20 } (hearing claimFrame)
def recallingActive : State :=
  on { record .active .supply with agreement := some agreed20, offered := some (offeredOf [⟨.fixed, 450, 450, 30⟩] false), target := some ⟨10, .budget⟩ } (hearing claimFrame)
def claimPowering : State := on { record .powering .supply with grant := some poweredGrant } (hearing claimFrame)
def claimDrawing : State := on { record .active .draw with agreement := some agreed20 } (hearing claimFrame)
def claimStray : State := on (record .greeting .none) (hearing claimFrame)
def deciding (f : Frame) : State :=
  let s := on { record .deciding .supply with decision := some ⟨.claim someClaim, 4, 990, .offering⟩, offered := some (offeredOf [⟨.fixed, 450, 450, 30⟩] false) } (hearing f)
  { s with link := { s.link with verdicts := [⟨9, .l1, .claim, 3, .wait, 0, due, []⟩] } }
def littleRoom : State := { fits with budget := { Budget.initial with supplyHeadroom := 22, supplyCeiling := 22 } }
def fitsActive : State :=
  on { record .active .supply with agreement := some agreed20, offered := some oneOffered } (hearing claimFrame)
def claims (f : Frame) : State :=
  on { record .claiming .draw with claim := some outClaim, exchange := some (exchangeOf .claim 0 (some due) (some 975)) } (hearing f)
def granted8 : State := claims ⟨3, .grant 8 20⟩
def granted20 : State := claims ⟨3, .grant 20 20⟩
def granted7 : State := claims ⟨3, .grant 7 20⟩
def granted21 : State := claims ⟨3, .grant 21 20⟩
def denied : State := claims ⟨3, .deny .policy⟩
def toldToWait : State := claims ⟨3, .wait 50⟩
def toldToWaitAgain : State :=
  { toldToWait with contracts := toldToWait.contracts.set .l1 { toldToWait.contract .l1 with waitStreak := 2, farMenu := some (farMenuOf [farPoint, farPoint]) } }
def deniedFirst : State :=
  { denied with contracts := denied.contracts.set .l1 { denied.contract .l1 with farMenu := some (farMenuOf [farPoint, ⟨⟨.fixed, 450, 450, 9⟩, .survives, 20⟩, farPoint]) } }
def readyArrives : State :=
  on { record .switching .draw with agreement := some agreed20, exchange := some (exchangeOf .claimGranted 0 none none) } (hearing ⟨3, .ready 250 20⟩)
def keepArrives : State :=
  on { record .active .draw with agreement := some agreed20, exchange := some (exchangeOf .renew 0 none none) } (hearing ⟨3, .keep 0⟩)
def keepLate : State :=
  on { record .claiming .draw with agreement := some agreed20, exchange := some (exchangeOf .renew 0 none none) } (hearing ⟨3, .keep 0⟩)
def renewArrives : State := on { record .active .supply with agreement := some agreed20 } (hearing ⟨3, .renew 18⟩)
def renewPowering : State := on { record .powering .supply with grant := some poweredGrant } (hearing ⟨3, .renew 18⟩)
def statusArrives : State := on (record .active .supply) (hearing ⟨3, .status 0 .none .detached 0 0⟩)
/-- A frame with the tag of a request that its kind does not answer, in OFFERING. -/
def astray (b : FrameBody) : State := on { record .offering .supply with exchange := some (exchangeOf .announce 0 none none) } (hearing ⟨3, b⟩)
def statusAsked : State := on { record .active .supply with lastFrameFault := true } (hearing ⟨7, .statusQ⟩)
def manual : State := { statusAsked with link := { statusAsked.link with manualStance := true, stance := 0xBEEF } }
def recallEarly : State := on (record .baseline .draw) (hearing ⟨4, .recall 10 100⟩)
def recallActive : State := on { record .active .draw with agreement := some agreed20 } (hearing ⟨4, .recall 10 1⟩)
def recallSwitching : State :=
  on { record .switching .draw with agreement := some agreed20, timers := { timersOff with readyWait := some 1200 } } (hearing ⟨4, .recall 10 1⟩)
def endsFinal : State := on { record .active .draw with agreement := some agreed20 } (hearing ⟨4, .ending .final⟩)
def endsNormal : State :=
  on { record .powering .supply with grant := some poweredGrant } (hearing ⟨4, .ending .normal⟩)
def endsFaulted : State := on (record .faulted .draw) (hearing ⟨4, .ending .normal⟩)
def endsGreeting : State :=
  on { record .greeting .none with greetingCount := 2, timers := { timersOff with greetingRetry := some 1100 } } (hearing ⟨4, .ending .normal⟩)
def endsGreetingFinal : State := on (record .greeting .none) (hearing ⟨4, .ending .final⟩)
def oneWaits : State := { base with pending := [.attach .l1, .detach .l1] }
def attachedNow : State := plugged.attach .l1
def attaches : State := { plugged with pending := [.attach .l1] }
def twoDraws : Budget := { Budget.initial with inputCeiling := 40, drawCopy := ⟨some ⟨450, 20⟩, some ⟨250, 20⟩, none, none⟩ }
def rule : RuleEntry := { RuleEntry.blank with enabled := true, lines := 0b0010, kinds := 0b100 }
def query : Query := ⟨.l1, .claim, some .consumer, some 0x0E400002, 450, 450, 67, 0⟩
def bare : RuleEntry := { rule with hasVoltage := false, hasPower := false, hasStance := false }
def voltRule : RuleEntry := { rule with hasVoltage := true, vMin := 450, vMax := 450 }
def ruled : State :=
  { base with rules := base.rules.set 3 { rule with report := true, action := .refuse, hits := 65534 } }
def held : Capture := ⟨true, some .loop, .active, none, 5, false, 254⟩
def drawChannel : Channel := { Channel.powerOn with command := .draw 20 true none, reverseRun := 2 }
def flows (v : Nat) (i : Int) (t : Time) : Sample := ⟨v, i, t⟩
def reverseOnDraw : State :=
  tripping ⟨false, true, false, false⟩ (on { record .active .draw with agreement := some agreed20 } attached)
def supplyChannel : Channel := { Channel.powerOn with command := .supply 450 20 true true (some 450), overcurrentRun := 4, deviationRun := 19, settleRun := 2, settleStart := some 100 }
def settling : Channel := { supplyChannel with command := .supply 450 20 true false none }
def secondInWindow : Channel := { settling with settleRun := 1 }
def meters (energy allowance : Nat) : Channel := { Channel.powerOn with command := .supply 450 44 false true none, energy := energy, allowance := allowance }
def askStatus : Frame := ⟨0, .statusQ⟩
def linkIdle : State := { base with link := { base.link with receiver := .idle } }
def linkSkips : State := { base with link := { base.link with receiver := .skipping } }
def okResponse : Response := ⟨.device, 1, 0x04, .ok, []⟩
def entryOf (relays : List (List Byte)) : VerdictEntry := ⟨9, .l1, .claim, 3, .refuse, 10, due, relays⟩
def attachNotice : Notice := ⟨.line .l1, 900, .attach .greeting⟩
def olderEntry : VerdictEntry := { entryOf [] with line := .l0 }
def answers : State :=
  { base with link := { base.link with responses := [okResponse], verdicts := [entryOf [[9]]], notices := [attachNotice] } }
def relays : State :=
  { base with link := { base.link with verdicts := [olderEntry, entryOf [[9]]], notices := [attachNotice] } }
def tells : State := { base with link := { base.link with verdicts := [entryOf []], notices := [attachNotice] } }
def sendsFrame : State := { base with link := { base.link with stx := some [linkChar 0x10] } }
def parityBad : LinkChar := { linkChar 0x10 with parity := !(linkChar 0x10).parity }
def stopBad : LinkChar := { linkChar 0x10 with stop := false }
def deviceVerdict : VerdictReq := ⟨.device, 1, 2, 3, 4⟩
def lineVerdict : VerdictReq := ⟨.line .l1, 1, 2, 3, 4⟩
def toDevice (args : List Byte) : Req := ⟨.device, 7, args, 5⟩
def toLine (args : List Byte) : Req := ⟨.line .l1, 7, args, 5⟩
def full : State :=
  { base with link := { base.link with responses := [okResponse, okResponse, okResponse, okResponse] } }
def ruleChars : List Byte := [0x88, 0x02, 0x04] ++ List.replicate 21 0
def ruleDisabled : RuleEntry := { RuleEntry.blank with lines := 2, kinds := 4 }
def ruleStored : RuleEntry := { RuleEntry.blank with enabled := true, action := .refuse, fallback := .auto, lines := 2, kinds := 4 }
def prefChars : List Byte := [1, 0, 200, 0x05, 0x14, 0x09, 0xC4, 0, 1]
def supplyChars : List Byte := [1, 0, 0, 250, 0, 250, 0, 120]
def captured : State := { base with captures := base.captures.set .l1 held }
def heldAnew : State := on { record .offering .supply with offered := some ⟨[], true⟩ } attached
def worksAutonomously : State :=
  { drawing with link := { drawing.link with mode := .autonomous, wakeSet := 3, wake := true, responses := [okResponse] } }
def noticed : State := { base with link := { base.link with notices := [attachNotice] } }
def overspent : State :=
  { base with budget := { Budget.initial with inputCeiling := 10, drawCommit := ⟨11, 0, 0, 0⟩, committedDraw := 11, drawHeadroom := 0, drawOver := true, supplyOver := true } }
def struckPoint : FarPoint := ⟨⟨.fixed, 250, 250, 40⟩, .struck, 0⟩
def supplies : State :=
  { on { record .active .supply with agreement := some agreed40 } attached with budget := { Budget.initial with order := [⟨.l1, 50, 250⟩], supplyCommit := ⟨0, 50, 0, 0⟩, committedSupply := 50, supplyHeadroom := 100 } }
def budgetChars (input supply : Byte) : List Byte := [0, input, 0, supply, 0x1B]
def reselects : State := on { record .baseline .draw with farMenu := some (farMenuOf [struckPoint]) } attached
def mayChoose : State :=
  on { record .active .draw with agreement := some agreed20, farMenu := some (farMenuOf [struckPoint]) } attached
def optionChars (flags : Byte) : List Byte := [3, 120, 20, flags, 0, 0, 5]
def optionsOf (r : RoleSet) : Options := ⟨3, 120, 20, false, .uncapped, 5, r⟩
def drawOnly : State := { supplies with straps := .all .drawOnly }
def otherBase (base flags : Byte) : List Byte := [1, 20, base, flags, 0, 0, 0]
def optionsFor (base : Nat) (m : CapMode) : Options := ⟨1, 20, base, false, m, 0, ⟨true, true⟩⟩
def setsWaiting : State := on (record .awaitMenu .draw) attached
def setsSwitching : State := on { record .switching .draw with agreement := some agreed20 } attached
def setsOffering : State := on (record .offering .supply) attached
def faultedHeld : State := { captured with contracts := captured.contracts.set .l1 (record .faulted .draw) }
def faultedFree : State := on (record .faulted .draw) attached
def pausedLine : State :=
  on { record .active .draw with paused := true, agreement := some agreed20 } { attached with txQueue := [statusFrame 0 0], txSide := .waiting }
def disabledLine : State := { on (record .blocked .none) attached with straps := .all .disabled }
def blockedLine : State := on (record .blocked .none) { attached with wdCount := 3 }
def releases : State :=
  on { record .active .draw with paused := true, deferred := true, agreement := some agreed20, farMenu := some (farMenuOf [struckPoint]) } attached
def releasesSwitching : State :=
  on { record .switching .draw with paused := true, deferred := true, agreement := some agreed20 } attached
def faultedDisabled : State := { faultedFree with straps := .all .disabled }
def mutesClaim : State :=
  on { record .claiming .draw with exchange := some (exchangeOf .claim 0 none none) } { attached with txQueue := [statusFrame 1 0, statusFrame 0 0], txSide := .waiting }
def mutesRecall : State :=
  on { record .active .supply with agreement := some agreed40, recallOut := some openRecall, exchange := some (exchangeOf .recall 0 none none) } { attached with txQueue := [statusFrame 0 0], txSide := .waiting }
def mutesSlow : State :=
  on { record .baseline .draw with unmanaged := true, timers := { timersOff with slowFrame := some 1 } } { attached with txQueue := [statusFrame 1 0, statusFrame 0 0], txSide := .waiting }
def mutesAnnounce : State :=
  on { record .baseline .draw with unmanaged := true, exchange := some (exchangeOf .announce 0 none none) } { attached with txQueue := [statusFrame 1 0, statusFrame 0 0], txSide := .waiting }
def mutesGranted : State :=
  on { record .switching .draw with agreement := some agreed20, exchange := some (exchangeOf .claimGranted 0 none none) } { attached with txQueue := [statusFrame 1 0, statusFrame 0 0], txSide := .waiting }
def mayOffer : State :=
  { on (record .offering .supply) attached with menu := base.menu.set 0 ⟨true, ⟨.fixed, 250, 250, 120⟩⟩ }
def reoffers : State :=
  { on { record .active .supply with agreement := some agreed20 } attached with menu := base.menu.set 0 ⟨true, ⟨.fixed, 250, 250, 120⟩⟩ }
def mayOfferNone : State := on (record .offering .supply) attached
def powersUp : State := on { record .powering .supply with grant := some poweredGrant } attached
def choosesBare : State := on { record .active .draw with agreement := some agreed20 } attached
def choosesNone : State :=
  on { record .baseline .draw with farMenu := some (farMenuOf [⟨⟨.fixed, 450, 450, 30⟩, .survives, 20⟩]) } attached
def choosesForwards : State :=
  answering .forward .wait 0 (on { record .active .draw with agreement := some agreed20, farMenu := some ⟨[0x41], [struckPoint, farPoint]⟩ } attached)
def recallsTwice : State :=
  on { record .active .supply with agreement := some agreed40, recallOut := some openRecall, target := some ⟨25, .cap⟩ } attached
def decides (k : QueryKind) (a : Action) (st : CState) (r : Role) (w : Forwarded) : State :=
  let s := on { record st r with decision := some ⟨w, 5, 980, .offering⟩, far := some ⟨.supplier, 7, 1⟩ } attached
  { s with link := { s.link with verdicts := [⟨9, .l1, k, 3, a, 30, due, []⟩] } }
def decidedEntry (k : QueryKind) (a : Action) : VerdictEntry := ⟨9, .l1, k, 3, a, 30, due, []⟩
def claimDecides (a : Action) : State := decides .claim a .deciding .supply (.claim someClaim)
def announceDecides (a : Action) : State := decides .announce a .greeting .none (.announce false)
def announceDecidesAs (st : Straps) (cls : FarClass) : State :=
  (sells (announceDecides .auto)).onContract .l1 fun c => { c with options := Options.default st, far := some ⟨cls, 7, 1⟩, lineClamp := some 30 }
def menuDecides (p : FarPoint) (a : Action) : State :=
  (decides .menuPoint a .choosing .draw .menu).onContract .l1 fun c => { c with farMenu := some (farMenuOf [p]), decision := some ⟨.menu, 5, 980, .awaitMenu⟩ }
def freshPoint : FarPoint := ⟨⟨.fixed, 250, 250, 40⟩, .unqueried, 0⟩
/-- A CLAIM is being decided in ACTIVE. -/
def claimDecidesActive (a : Action) : State :=
  let s := on { record .active .supply with agreement := some agreed20, decision := some ⟨.claim someClaim, 5, 980, .active⟩ } attached
  { s with link := { s.link with verdicts := [⟨9, .l1, .claim, 3, a, 30, due, []⟩] } }
def recallingNow (s : State) : State := s.onContract .l1 fun c => { c with target := some ⟨10, .cap⟩ }
def smallRoom : State :=
  { claimDecides .auto with budget := { Budget.initial with supplyCeiling := 22, supplyHeadroom := 22 } }
/-- A preference so small that its claim current is 0. -/
def prefers (p : Preference) (s : State) : State := { s with prefs := s.prefs.set 0 p }
def bigPoint : FarPoint := ⟨⟨.fixed, 1300, 1300, 320⟩, .survives, 2080⟩

theorem witness_StepRunsTheFrontCommand : oneWaits.pending = .attach .l1 :: [.detach .l1] := by decide +kernel

theorem witness_QueueIsOnlyTakenFrom :
  base.pending = [] ∧ exec (.attach .l1) plugged = .next (plugged.attach .l1) :=
  ⟨by decide +kernel, rfl⟩

theorem witness_BudgetStaysConsistent :
  attaches.budget.SumsOk ∧ (attaches.budget.OrderOk ∧ attaches.budget.RankOk) ∧ attaches.AllocationsCurrent ∧
    step attaches = .next attachedNow :=
  ⟨by decide +kernel, ⟨⟨by decide +kernel, by intro l; cases l <;> decide +kernel⟩, by decide +kernel⟩,
    ⟨by decide +kernel, by intro l; cases l <;> decide +kernel⟩, rfl⟩

theorem witness_LinkUnitStaysLegal :
  NoticesDistinct attaches.link.notices ∧ step attaches = .next attachedNow ∧
    (VerdictsDistinct attaches.link.verdicts ∧ attaches.link.quietEmpty) ∧
    (attaches.link.responses.length ≤ 4 ∧ attaches.link.wakeRests) :=
  ⟨(by decide +kernel), rfl, (by decide +kernel), (by decide +kernel)⟩

theorem witness_QueuesRolesAndCountsStayBounded :
  attaches.QueuesBounded ∧ attaches.RolesStrapped ∧ attaches.CountsBounded ∧ step attaches = .next attachedNow :=
  ⟨by intro l; cases l <;> decide +kernel, by intro l; cases l <;> decide +kernel,
    ⟨by decide +kernel, by intro l; cases l <;> decide +kernel⟩, rfl⟩

theorem witness_PathFollowsTheContractState :
  (∀ l, attaches.LineSound l) ∧ step attaches = .next attachedNow ∧
    (∀ l, overcurrentDue.LineSound l) ∧ (overcurrentDue.channel .l1).tripped = true :=
  ⟨by intro l; cases l <;> decide +kernel, rfl, by intro l; cases l <;> decide +kernel, by decide +kernel⟩

theorem witness_LinesDoNotInterfere :
  (Instr.attach .l1).line? = some .l1 ∧ exec (.attach .l1) plugged = .next attachedNow := ⟨rfl, rfl⟩

theorem witness_AllocationsKeepTheCeiling :
  twoDraws.RankOk ∧ twoDraws.drawCopy.get .l0 = some { voltage := 450, current := 20 } ∧
    (twoDraws.share (fun _ => 8) twoDraws.rank (twoDraws.inputCeiling - twoDraws.floors fun _ => 8)).get .l0 = some
      { power := 30, current := 13 } ∧ (twoDraws.floors fun _ => 8) ≤ twoDraws.inputCeiling :=
  by decide +kernel

theorem witness_RuleConditionsMatch :
  (rule.enabled = true ∧ rule.hasVoltage = false ∧ rule.hasPower = false ∧ rule.hasStance = false) ∧
    RuleEntry.blank.enabled = false ∧ rule.meets query false = true ∧
    ({ voltRule with hasVoltage := false, hasPower := false, hasStance := false } : RuleEntry).meets query true = true := by
  decide +kernel

theorem witness_FirstMatchWinsAndCounts :
  (ruled.rules.get 3).meets query ruled.link.batteryLow = true ∧
    (∀ j < 3, (ruled.rules.get j).meets query ruled.link.batteryLow = false) ∧
    (∀ (i : Fin 32), (base.rules.get i).meets query base.link.batteryLow = false) :=
  by decide +kernel

theorem witness_CheckCharacterIsTheManuals :
  validate ([16, 0] ++ [128]) = Verdict.wellFormed askStatus ∧ 129 ≠ crc [16, 0] ∧ [1, 1].length ≤ 60 ∧
    0 ≠ crc [7#3 ++ LinkKind.request.code, byte [1, 1].length, 1, 1] :=
  by decide +kernel

theorem witness_CaptureComparesFaults :
  Capture.clear.held = false ∧ held.held = true ∧ held.cause = some Cause.loop ∧
    Cause.settle.cls.code < Cause.loop.cls.code ∧ Cause.loop.cls.code ≤ Cause.convention.cls.code ∧
    Cause.loop.cls.code ≤ Cause.malformed.cls.code :=
  by decide +kernel

theorem witness_ReverseWatchOpensDrawPaths :
  (record .baseline .draw).path.form = PathForm.draw ∧ drawChannel.tripped = false ∧ drawChannel.settleStart = none ∧
    drawChannel.command.watch.reverse = true ∧
    (3 ≤ if (flows 250 (-11) 7).current < -10 then drawChannel.reverseRun + 1 else 0) ∧
    (if (flows 250 (-10) 7).current < -10 then drawChannel.reverseRun + 1 else 0) < 3 ∧
    (reverseOnDraw.channel .l1).due.reverse = true ∧ reverseOnDraw.LineSound .l1 ∧
    (reverseOnDraw.contract .l1).role = .draw ∧ (reverseOnDraw.contract .l1).state ≠ .faulted :=
  by decide +kernel

theorem witness_WatchesCountTheirRuns :
  (reverseDue.channel .l1).tripped = true ∧ settling.tripped = false ∧ settling.settleStart = some 100 ∧
    250 < BitVec.toNat ((flows 472 0 351).time - 100) ∧ BitVec.toNat ((flows 472 0 351).time - 100) < 2147483648 ∧
    supplyChannel.tripped = false ∧ BitVec.toNat ((flows 450 (-22) 120).time - 100) ≤ 250 ∧
    supplyChannel.command.watch.overcurrent = true ∧
    (if ↑(supplyChannel.command.limit + supplyChannel.command.limit * 10 / 100) < -(flows 450 (-22) 120).current then
      supplyChannel.overcurrentRun + 1 else 0) < 5 ∧ BitVec.toNat ((flows 450 (-23) 120).time - 100) ≤ 250 ∧
    (5 ≤ if ↑(supplyChannel.command.limit + supplyChannel.command.limit * 10 / 100) < -(flows 450 (-23) 120).current
      then supplyChannel.overcurrentRun + 1 else 0) ∧ BitVec.toNat ((flows 487 (-23) 120).time - 100) ≤ 250 ∧
    supplyChannel.command.watch.hold = some 450 ∧
    (20 ≤ if 450 - 450 * 8 / 100 ≤ (flows 487 (-23) 120).voltage ∧ (flows 487 (-23) 120).voltage ≤ 450 + 450 * 8 /
      100 then 0 else supplyChannel.deviationRun + 1) ∧ BitVec.toNat ((flows 486 (-23) 120).time - 100) ≤ 250 ∧
    ((if 450 - 450 * 8 / 100 ≤ (flows 486 (-23) 120).voltage ∧ (flows 486 (-23) 120).voltage ≤ 450 + 450 * 8 / 100
      then 0 else supplyChannel.deviationRun + 1) < 20) ∧ BitVec.toNat ((flows 472 0 119).time - 100) ≤ 250 ∧
    BitVec.toNat ((flows 472 0 119).time - 100) < 20 ∧ BitVec.toNat ((flows 472 0 120).time - 100) ≤ 250 ∧
    20 ≤ BitVec.toNat ((flows 472 0 120).time - 100) ∧
    settling.command.voltage - settling.command.voltage * 5 / 100 ≤ (flows 472 0 120).voltage ∧
    (flows 472 0 120).voltage ≤ settling.command.voltage + settling.command.voltage * 5 / 100 ∧
    settling.settleRun = 2 ∧ BitVec.toNat ((flows 472 0 350).time - 100) ≤ 250 ∧
    20 ≤ BitVec.toNat ((flows 472 0 350).time - 100) ∧
    settling.command.voltage - settling.command.voltage * 5 / 100 ≤ (flows 472 0 350).voltage ∧
    (flows 472 0 350).voltage ≤ settling.command.voltage + settling.command.voltage * 5 / 100 ∧
    secondInWindow.tripped = false ∧ BitVec.toNat ((flows 428 0 120).time - 100) ≤ 250 ∧
    secondInWindow.settleStart = some 100 ∧ 20 ≤ BitVec.toNat ((flows 428 0 120).time - 100) ∧
    secondInWindow.settleRun < 2 ∧ BitVec.toNat ((flows 428 0 120).time - 100) < 250 ∧
    BitVec.toNat ((flows 473 0 349).time - 100) ≤ 250 ∧ 20 ≤ BitVec.toNat ((flows 473 0 349).time - 100) ∧
    (¬(settling.command.voltage - settling.command.voltage * 5 / 100 ≤ (flows 473 0 349).voltage ∧ (flows 473 0
      349).voltage ≤ settling.command.voltage + settling.command.voltage * 5 / 100)) ∧
    BitVec.toNat ((flows 473 0 349).time - 100) < 250 ∧ BitVec.toNat ((flows 428 0 350).time - 100) ≤ 250 ∧
    20 ≤ BitVec.toNat ((flows 428 0 350).time - 100) ∧ BitVec.toNat ((flows 428 0 350).time - 100) = 250 ∧
    BitVec.toNat ((flows 473 0 350).time - 100) ≤ 250 ∧ 20 ≤ BitVec.toNat ((flows 473 0 350).time - 100) ∧
    (¬(settling.command.voltage - settling.command.voltage * 5 / 100 ≤ (flows 473 0 350).voltage ∧ (flows 473 0
      350).voltage ≤ settling.command.voltage + settling.command.voltage * 5 / 100)) ∧
    BitVec.toNat ((flows 473 0 350).time - 100) = 250 ∧ (meters 99900 1).tripped = false ∧
    (meters 99900 1).settleStart = none :=
  by and_intros <;> decide +kernel

theorem witness_WatchesCountTheirRuns_2 :
  (meters 99900 1).command.watch.meter = true ∧ true = true ∧
    (meters 99900 1).energy + (flows 450 (-44) 9).voltage * (-(flows 450 (-44) 9).current).toNat / 200 < 100000 ∧
    (meters 99901 1).tripped = false ∧ (meters 99901 1).command.watch.meter = true ∧
    100000 ≤ (meters 99901 1).energy + (flows 450 (-44) 9).voltage * (-(flows 450 (-44) 9).current).toNat / 200 ∧
    false = false :=
  by decide +kernel

theorem witness_AttachAndDetachAreTaken :
  (base.engine .l1).present = false ∧ (base.engine .l1).presenceLevel = false ∧
    (pluggedLate.engine .l1).present = false ∧ (pluggedLate.engine .l1).presenceRun < 20 ∧
    (plugged.engine .l1).present = false ∧ (plugged.engine .l1).presenceLevel = true ∧
    20 ≤ (plugged.engine .l1).presenceRun ∧ (drawing.engine .l1).present = true ∧
    (drawing.engine .l1).presenceLevel = true ∧ (unpluggedLate.engine .l1).present = true ∧
    (unpluggedLate.engine .l1).presenceRun < 2 ∧ (unplugged.engine .l1).present = true ∧
    (unplugged.engine .l1).presenceLevel = false ∧ 2 ≤ (unplugged.engine .l1).presenceRun ∧
    (unpluggedAtExpiry.engine .l1).present = true ∧ (unpluggedAtExpiry.engine .l1).presenceLevel = false ∧
    2 ≤ (unpluggedAtExpiry.engine .l1).presenceRun ∧ (unpluggedAtExpiry.channel .l1).settleStart = some 750 ∧
    BitVec.toNat (unpluggedAtExpiry.now - (750 + 250)) < 2147483648 ∧ (unpluggedSettling.engine .l1).present = true ∧
    (unpluggedSettling.engine .l1).presenceLevel = false ∧ 2 ≤ (unpluggedSettling.engine .l1).presenceRun ∧
    2147483648 ≤ BitVec.toNat (unpluggedSettling.now - (751 + 250)) :=
  by decide +kernel

theorem witness_ReceivingStepsAreTaken :
  (quietLine.engine .l1).present = true ∧ (quietLine.engine .l1).txSide ≠ .sending ∧
    (quietLine.engine .l1).rxSide = .idle ∧ (midFrame.engine .l1).present = true ∧
    (midFrame.engine .l1).txSide ≠ .sending ∧ (midFrame.engine .l1).rxSide = .receiving ∧
    (midFrame.engine .l1).overLength = false ∧ (midFrame.engine .l1).complete = false ∧
    (discarding.engine .l1).present = true ∧ (discarding.engine .l1).txSide ≠ .sending ∧
    (discarding.engine .l1).rxSide = .discarding ∧ (midFrame.engine .l1).gapTimer = true ∧
    (firstChar.engine .l1).awaitsChar = true ∧ (wireChar .direct 58).parityOk = true ∧
    (¬((firstChar.engine .l1).rxChars = [] ∧ (firstChar.engine .l1).convention = .unknown ∧ (wireChar .direct
      58).data ≠ 58 ∧ (wireChar .direct 58).data ≠ 163)) ∧
    (.direct = if (firstChar.engine .l1).rxChars = [] then if (wireChar .direct 58).data = 58 then .direct else if
      (wireChar .direct 58).data = 163 then .inverse else (firstChar.engine .l1).convention else (firstChar.engine
      .l1).convention) ∧ (wireChar .inverse 58).parityOk = true ∧
    (¬((firstChar.engine .l1).rxChars = [] ∧ (firstChar.engine .l1).convention = .unknown ∧ (wireChar .inverse
      58).data ≠ 58 ∧ (wireChar .inverse 58).data ≠ 163)) ∧
    (.inverse = if (firstChar.engine .l1).rxChars = [] then if (wireChar .inverse 58).data = 58 then .direct else if
      (wireChar .inverse 58).data = 163 then .inverse else (firstChar.engine .l1).convention else (firstChar.engine
      .l1).convention) ∧ (secondChar.engine .l1).awaitsChar = true ∧ (wireChar .inverse 7).parityOk = true ∧
    (¬((secondChar.engine .l1).rxChars = [] ∧ (secondChar.engine .l1).convention = .unknown ∧ (wireChar .inverse
      7).data ≠ 58 ∧ (wireChar .inverse 7).data ≠ 163)) ∧
    (.inverse = if (secondChar.engine .l1).rxChars = [] then if (wireChar .inverse 7).data = 58 then .direct else if
      (wireChar .inverse 7).data = 163 then .inverse else (secondChar.engine .l1).convention else (secondChar.engine
      .l1).convention) ∧ (midFrame.engine .l1).awaitsChar = true ∧ oddChar.parityOk = false :=
  by decide +kernel

theorem witness_WireLevelsCarryCharacters :
  Convention.unknown ≠ .inverse ∧ Convention.direct ≠ .inverse ∧ 7 < 8 := by decide

theorem witness_ConventionErrorIsALinkFault :
  (firstChar.engine .l1).awaitsChar = true ∧ strayChar.parityOk = true ∧ (firstChar.engine .l1).rxChars = [] ∧
    (firstChar.engine .l1).convention = .unknown ∧ strayChar.data ≠ 58 ∧ strayChar.data ≠ 163 ∧
    firstChar.LineSettled .l1 ∧ (fourthStrike.engine .l1).awaitsChar = true ∧
    (fourthStrike.engine .l1).rxChars = [] ∧ (fourthStrike.engine .l1).convention = .unknown ∧
    fourthStrike.LineSettled .l1 :=
  by decide +kernel

theorem witness_MalformedFramesAreProtocolFaults :
  (overLong.engine .l1).present = true ∧ (overLong.engine .l1).rxSide = .receiving ∧ overLong.LineSettled .l1 ∧
    (overLong.engine .l1).overLength = true ∧ (badCheck.engine .l1).present = true ∧
    (badCheck.engine .l1).rxSide = .receiving ∧ badCheck.LineSettled .l1 ∧ (badCheck.engine .l1).frameReady = true ∧
    validate (badCheck.engine .l1).rxChars = Verdict.malformed none ∧ (badField.engine .l1).present = true ∧
    (badField.engine .l1).rxSide = .receiving ∧ badField.LineSettled .l1 ∧ (badField.engine .l1).frameReady = true ∧
    validate (badField.engine .l1).rxChars = Verdict.malformed (some .wait) :=
  by decide +kernel

theorem witness_SendingStepsAreTaken :
  (waitsToSend.engine .l1).txQueue = [statusFrame 0 0] ∧ (waitsToSend.engine .l1).present = true ∧
    (waitsToSend.engine .l1).wdCount < 3 ∧ (waitsToSend.engine .l1).rxSide = .idle ∧
    ((waitsToSend.engine .l1).txSide = .waiting ∨ (waitsToSend.engine .l1).txSide = .retryWait) ∧
    (retries.engine .l1).txQueue = [statusFrame 0 1] ∧ (retries.engine .l1).present = true ∧
    (retries.engine .l1).wdCount < 3 ∧ (retries.engine .l1).rxSide = .idle ∧
    ((retries.engine .l1).txSide = .waiting ∨ (retries.engine .l1).txSide = .retryWait) ∧
    (sendsAgain.engine .l1).txQueue = [statusFrame 0 0] ∧ (sendsAgain.engine .l1).present = true ∧
    (sendsAgain.engine .l1).wdCount < 3 ∧ (sendsAgain.engine .l1).rxSide = .idle ∧
    ((sendsAgain.engine .l1).txSide = .waiting ∨ (sendsAgain.engine .l1).txSide = .retryWait) ∧
    (sendsFirst.engine .l1).txSide = .sending ∧
    (sendsFirst.engine .l1).txIndex + 1 < (sendsFirst.engine .l1).txLevels.length ∧
    (sendsThird.engine .l1).txSide = .sending ∧ (sendsThird.engine .l1).txSends < 4 ∧
    (sendsThird.engine .l1).txIndex = 0 ∧ (drained.engine .l1).drain = some 0 :=
  by decide +kernel

theorem witness_SentFrameIsReported :
  (sendsLast.engine .l1).txQueue = [statusFrame 0 0] ∧ (sendsLast.engine .l1).txSide = .sending ∧
    (sendsLast.engine .l1).txIndex + 1 = (sendsLast.engine .l1).txLevels.length ∧ sendsLast.LineSettled .l1 ∧
    (∀ (x : Exchange), (sendsLast.contract .l1).exchange = some x → x.frameId ≠ (statusFrame 0 0).id) ∧
    (sendsLast.contract .l1).timers.slowFrame ≠ some (statusFrame 0 0).id ∧
    (sendsClosed.engine .l1).txQueue = [statusFrame 0 0] ∧ (sendsClosed.engine .l1).txSide = .sending ∧
    (sendsClosed.engine .l1).txIndex + 1 = (sendsClosed.engine .l1).txLevels.length ∧ sendsClosed.LineSettled .l1 ∧
    (∀ (x : Exchange), (sendsClosed.contract .l1).exchange = some x → x.frameId ≠ (statusFrame 0 0).id) ∧
    (sendsClosed.contract .l1).timers.slowFrame = some (statusFrame 0 0).id ∧
    (sendsClaim.engine .l1).txQueue = [statusFrame 0 0, statusFrame 1 0] ∧
    (sendsClaim.engine .l1).txSide = .sending ∧
    (sendsClaim.engine .l1).txIndex + 1 = (sendsClaim.engine .l1).txLevels.length ∧ sendsClaim.LineSettled .l1 ∧
    (sendsClaim.contract .l1).exchange = some (exchangeOf .claim 0 none none) ∧
    (exchangeOf .claim 0 none none).frameId = (statusFrame 0 0).id ∧
    ((exchangeOf .claim 0 none none).kind = .claim ∨ (exchangeOf .claim 0 none none).kind = .renew) ∧
    (sendsSlow.engine .l1).txQueue = [statusFrame 0 0] ∧ (sendsSlow.engine .l1).txSide = .sending ∧
    (sendsSlow.engine .l1).txIndex + 1 = (sendsSlow.engine .l1).txLevels.length ∧ sendsSlow.LineSettled .l1 ∧
    (sendsSlow.contract .l1).exchange = some (exchangeOf .announce 0 none none) ∧
    (exchangeOf .announce 0 none none).frameId = (statusFrame 0 0).id ∧
    (exchangeOf .announce 0 none none).kind = .announce ∧
    ((sendsSlow.contract .l1).state = .baseline ∧ (sendsSlow.contract .l1).unmanaged = true) ∧
    (sendsAnnounce.engine .l1).txQueue = [statusFrame 0 0] ∧ (sendsAnnounce.engine .l1).txSide = .sending ∧
    (sendsAnnounce.engine .l1).txIndex + 1 = (sendsAnnounce.engine .l1).txLevels.length ∧
    sendsAnnounce.LineSettled .l1 ∧ (sendsAnnounce.contract .l1).exchange = some (exchangeOf .announce 0 none none) ∧
    (¬((sendsAnnounce.contract .l1).state = .baseline ∧ (sendsAnnounce.contract .l1).unmanaged = true)) ∧
    (sendsGranted.engine .l1).txQueue = [statusFrame 0 0] ∧ (sendsGranted.engine .l1).txSide = .sending ∧
    (sendsGranted.engine .l1).txIndex + 1 = (sendsGranted.engine .l1).txLevels.length ∧
    sendsGranted.LineSettled .l1 ∧
    (sendsGranted.contract .l1).exchange = some (exchangeOf .claimGranted 0 none none) ∧
    (exchangeOf .claimGranted 0 none none).frameId = (statusFrame 0 0).id ∧
    (exchangeOf .claimGranted 0 none none).kind = .claimGranted ∧
    (sendsRecall.engine .l1).txQueue = [statusFrame 0 0] ∧ (sendsRecall.engine .l1).txSide = .sending ∧
    (sendsRecall.engine .l1).txIndex + 1 = (sendsRecall.engine .l1).txLevels.length ∧ sendsRecall.LineSettled .l1 ∧
    (sendsRecall.contract .l1).exchange = some (exchangeOf .recall 0 none none) ∧
    (exchangeOf .recall 0 none none).frameId = (statusFrame 0 0).id ∧
    (exchangeOf .recall 0 none none).kind = .recall ∧ (sendsRecall.contract .l1).recallOut = some openRecall :=
  by and_intros <;> decide +kernel

theorem witness_FailedSendsAreLinkFaults :
  (fourthSend.engine .l1).txQueue = [statusFrame 0 0] ∧ (fourthSend.engine .l1).txSide = .sending ∧
    fourthSend.LineSettled .l1 ∧ fourthSend.strikes.get .l1 + 1 ≠ 4 ∧
    (∀ (x : Exchange), (fourthSend.contract .l1).exchange = some x → x.frameId ≠ (statusFrame 0 0).id) ∧
    (fourthSend.engine .l1).txSends = 4 ∧ (firstLoop.engine .l1).txQueue = [statusFrame 0 0, statusFrame 1 0] ∧
    (firstLoop.engine .l1).txSide = .sending ∧ firstLoop.LineSettled .l1 ∧ firstLoop.strikes.get .l1 + 1 ≠ 4 ∧
    (statusFrame 0 0).loopFailures = 0 ∧ (ownFirstLoop.engine .l1).txQueue = [statusFrame 0 0, statusFrame 1 0] ∧
    (ownFirstLoop.engine .l1).txSide = .sending ∧ ownFirstLoop.LineSettled .l1 ∧
    ownFirstLoop.strikes.get .l1 + 1 ≠ 4 ∧ (secondLoop.engine .l1).txQueue = [statusFrame 0 1, statusFrame 1 0] ∧
    (secondLoop.engine .l1).txSide = .sending ∧ secondLoop.LineSettled .l1 ∧ secondLoop.strikes.get .l1 + 1 ≠ 4 ∧
    (∀ (x : Exchange), (secondLoop.contract .l1).exchange = some x → x.frameId ≠ (statusFrame 0 1).id) ∧
    (statusFrame 0 1).loopFailures ≠ 0 ∧ (slowSecondLoop.engine .l1).txQueue = [statusFrame 0 1, statusFrame 1 0] ∧
    (slowSecondLoop.engine .l1).txSide = .sending ∧ slowSecondLoop.LineSettled .l1 ∧
    slowSecondLoop.strikes.get .l1 + 1 ≠ 4 ∧
    (∀ (x : Exchange), (slowSecondLoop.contract .l1).exchange = some x → x.frameId ≠ (statusFrame 0 1).id) ∧
    (watchdogOver.engine .l1).txQueue = [statusFrame 0 0] ∧ (watchdogOver.engine .l1).txSide = .sending ∧
    watchdogOver.LineSettled .l1 ∧ watchdogOver.strikes.get .l1 + 1 ≠ 4 ∧
    (∀ (x : Exchange), (watchdogOver.contract .l1).exchange = some x → x.frameId ≠ (statusFrame 0 0).id) ∧
    (watchdogOver.engine .l1).watchdog = some 40 ∧ (watchdogOver.engine .l1).wdCount + 1 ≠ 3 ∧
    (claimFails.engine .l1).txQueue = [statusFrame 0 0] ∧ (claimFails.engine .l1).txSide = .sending ∧
    claimFails.LineSettled .l1 ∧ claimFails.strikes.get .l1 + 1 ≠ 4 ∧
    (claimFails.contract .l1).exchange = some (exchangeOf .claim 0 none none) ∧
    (exchangeOf .claim 0 none none).frameId = (statusFrame 0 0).id ∧ (claimFails.engine .l1).txSends = 4 ∧
    ((exchangeOf .claim 0 none none).kind = .claim ∨ (exchangeOf .claim 0 none none).kind = .renew) ∧
    (exchangeOf .claim 0 none none).expiries = 0 ∧ (claimFails.engine .l1).canSend = true ∧
    ([] : List TxFrame).length < 4 ∧ (claimFailsTwice.engine .l1).txQueue = [statusFrame 0 1] ∧
    (claimFailsTwice.engine .l1).txSide = .sending ∧ claimFailsTwice.LineSettled .l1 ∧
    claimFailsTwice.strikes.get .l1 + 1 ≠ 4 ∧
    (claimFailsTwice.contract .l1).exchange = some (exchangeOf .claim 1 none none) ∧
    (exchangeOf .claim 1 none none).frameId = (statusFrame 0 1).id ∧
    ((exchangeOf .claim 1 none none).kind = .claim ∨ (exchangeOf .claim 1 none none).kind = .renew) ∧
    (exchangeOf .claim 1 none none).expiries ≠ 0 :=
  by and_intros <;> decide +kernel

theorem witness_FailedSendsAreLinkFaults_2 :
  (grantedFails.engine .l1).txQueue = [statusFrame 0 0] ∧ (grantedFails.engine .l1).txSide = .sending ∧
    grantedFails.LineSettled .l1 ∧ grantedFails.strikes.get .l1 + 1 ≠ 4 ∧
    (grantedFails.contract .l1).exchange = some (exchangeOf .claimGranted 0 none none) ∧
    (exchangeOf .claimGranted 0 none none).frameId = (statusFrame 0 0).id ∧ (grantedFails.engine .l1).txSends = 4 ∧
    (exchangeOf .claimGranted 0 none none).kind = .claimGranted ∧
    (announceFails.engine .l1).txQueue = [statusFrame 0 0] ∧ (announceFails.engine .l1).txSide = .sending ∧
    announceFails.LineSettled .l1 ∧ announceFails.strikes.get .l1 + 1 ≠ 4 ∧
    (announceFails.contract .l1).exchange = some (exchangeOf .announce 0 none none) ∧
    (exchangeOf .announce 0 none none).frameId = (statusFrame 0 0).id ∧ (announceFails.engine .l1).wdCount + 1 < 3 ∧
    (announceFails.engine .l1).watchdog = some 40 ∧ (exchangeOf .announce 0 none none).kind = .announce ∧
    (announceFails.contract .l1).state = .greeting ∧ (announceFails.contract .l1).greetingCount < 2 ∧
    (slowFails.engine .l1).txQueue = [statusFrame 0 0] ∧ (slowFails.engine .l1).txSide = .sending ∧
    slowFails.LineSettled .l1 ∧ slowFails.strikes.get .l1 + 1 ≠ 4 ∧
    (slowFails.contract .l1).exchange = some (exchangeOf .announce 0 none none) ∧
    (slowFails.engine .l1).txSends = 4 ∧ (slowFails.contract .l1).state = .baseline ∧
    (slowFails.contract .l1).unmanaged = true ∧ (recallFails.engine .l1).txQueue = [statusFrame 0 0] ∧
    (recallFails.engine .l1).txSide = .sending ∧ recallFails.LineSettled .l1 ∧ recallFails.strikes.get .l1 + 1 ≠ 4 ∧
    (recallFails.contract .l1).exchange = some (exchangeOf .recall 0 none none) ∧
    (exchangeOf .recall 0 none none).frameId = (statusFrame 0 0).id ∧ (recallFails.engine .l1).txSends = 4 ∧
    (exchangeOf .recall 0 none none).kind = .recall ∧ (recallFails.contract .l1).recallOut = some openRecall ∧
    (recallFails.contract .l1).agreement = some agreed40 ∧ (recallFails.contract .l1).target = none ∧
    (recallFails.contract .l1).state = .active ∧ (recallFails.contract .l1).role = .supply ∧
    (recallFails.contract .l1).grant = none ∧ (announceFailsThrice.engine .l1).txQueue = [statusFrame 0 0] ∧
    (announceFailsThrice.engine .l1).txSide = .sending ∧ announceFailsThrice.LineSettled .l1 ∧
    announceFailsThrice.strikes.get .l1 + 1 ≠ 4 ∧
    (announceFailsThrice.contract .l1).exchange = some (exchangeOf .announce 0 none none) ∧
    (announceFailsThrice.engine .l1).txSends = 4 ∧ (announceFailsThrice.contract .l1).state = .greeting ∧
    (announceFailsThrice.contract .l1).greetingCount = 2 :=
  by and_intros <;> decide +kernel

theorem witness_FailedSendsAreLinkFaults_3 :
  (announceFailsSupplier.engine .l1).txQueue = [statusFrame 0 0] ∧
    (announceFailsSupplier.engine .l1).txSide = .sending ∧ announceFailsSupplier.LineSettled .l1 ∧
    announceFailsSupplier.strikes.get .l1 + 1 ≠ 4 ∧
    (announceFailsSupplier.contract .l1).exchange = some (exchangeOf .announce 0 none none) ∧
    (announceFailsSupplier.engine .l1).txSends = 4 ∧ (announceFailsSupplier.contract .l1).state = .greeting ∧
    (announceFailsSupplier.contract .l1).greetingCount = 2 ∧
    ((struck3 claimFails).engine .l1).txQueue = [statusFrame 0 0] ∧
    ((struck3 claimFails).engine .l1).txSide = .sending ∧ (struck3 claimFails).LineSettled .l1 ∧
    (struck3 claimFails).strikes.get .l1 + 1 = 4 ∧ ((struck3 claimFails).contract .l1).state ≠ .detached ∧
    ((struck3 claimFails).contract .l1).state ≠ .faulted ∧ ((struck3 claimFails).engine .l1).txSends = 4 ∧
    ((struck3 secondLoop).engine .l1).txQueue = [statusFrame 0 1, statusFrame 1 0] ∧
    ((struck3 secondLoop).engine .l1).txSide = .sending ∧ (struck3 secondLoop).LineSettled .l1 ∧
    (struck3 secondLoop).strikes.get .l1 + 1 = 4 ∧ ((struck3 secondLoop).contract .l1).state ≠ .detached ∧
    ((struck3 secondLoop).contract .l1).state ≠ .faulted ∧
    ((struck3 ownFirstLoop).engine .l1).txQueue = [statusFrame 0 0, statusFrame 1 0] ∧
    ((struck3 ownFirstLoop).engine .l1).txSide = .sending ∧ (struck3 ownFirstLoop).LineSettled .l1 ∧
    (struck3 ownFirstLoop).strikes.get .l1 + 1 = 4 ∧ ((struck3 ownFirstLoop).contract .l1).state ≠ .detached ∧
    ((struck3 ownFirstLoop).contract .l1).state ≠ .faulted ∧
    ((struck3 announceFails).engine .l1).txQueue = [statusFrame 0 0] ∧
    ((struck3 announceFails).engine .l1).txSide = .sending ∧ (struck3 announceFails).LineSettled .l1 ∧
    (struck3 announceFails).strikes.get .l1 + 1 = 4 ∧ ((struck3 announceFails).contract .l1).state ≠ .detached ∧
    ((struck3 announceFails).contract .l1).state ≠ .faulted ∧ ((struck3 announceFails).engine .l1).wdCount + 1 < 3 ∧
    ((struck3 announceFails).engine .l1).watchdog = some 40 ∧ (thirdExpiry.engine .l1).txQueue = [statusFrame 0 0] ∧
    (thirdExpiry.engine .l1).txSide = .sending ∧ (thirdExpiry.engine .l1).watchdog = some 40 ∧
    (thirdExpiry.engine .l1).wdCount = 2 ∧ thirdExpiry.LineSettled .l1 ∧
    (thirdExpiry.contract .l1).state ≠ .detached :=
  by and_intros <;> decide +kernel

theorem witness_GreetingTimersSendAnnounce :
  delayOver.MaySend .l1 ∧ delayOver.LineSettled .l1 ∧ BitVec.toNat (delayOver.now - due) < 2147483648 ∧
    (delayOver.contract .l1).state = .greeting ∧ (delayOver.contract .l1).timers.greetingDelay = some due ∧
    retryOver.MaySend .l1 ∧ retryOver.LineSettled .l1 ∧ BitVec.toNat (retryOver.now - due) < 2147483648 ∧
    (retryOver.contract .l1).state = .greeting ∧ (retryOver.contract .l1).timers.greetingRetry = some due ∧
    slowOver.MaySend .l1 ∧ slowOver.LineSettled .l1 ∧ BitVec.toNat (slowOver.now - due) < 2147483648 ∧
    (slowOver.contract .l1).state = .baseline ∧ (slowOver.contract .l1).unmanaged = true ∧
    (slowOver.contract .l1).timers.slowRegreeting = some due :=
  by decide +kernel

theorem witness_TimedRequestsAreHanded :
  (requestWaits.engine .l1).accepts = true ∧ (requestWaits.contract .l1).exchange = none ∧
    (requestWaits.contract .l1).waiting = some waitingRequest ∧ (backoffOver.contract .l1).state = .backoff ∧
    (backoffOver.contract .l1).timers.backoff = some due ∧ BitVec.toNat (backoffOver.now - due) < 2147483648 ∧
    backoffOver.candidate .l1 (backoffOver.contract .l1).cursor = some drawClaim ∧
    (renewalOver.contract .l1).state = .active ∧ (renewalOver.contract .l1).role = .draw ∧
    (renewalOver.contract .l1).timers.renewal = some due ∧ BitVec.toNat (renewalOver.now - due) < 2147483648 ∧
    renewalOver.LineSettled .l1 ∧ renewalOver.MaySend .l1 ∧ (renewalBehind.contract .l1).state = .active ∧
    (renewalBehind.contract .l1).role = .draw ∧ (renewalBehind.contract .l1).timers.renewal = some due ∧
    BitVec.toNat (renewalBehind.now - due) < 2147483648 ∧ renewalBehind.LineSettled .l1 ∧
    (renewalBehind.contract .l1).exchange.isSome = true ∧ (renewalBehind.contract .l1).waiting = none ∧
    (renewalDisplaces.contract .l1).state = .active ∧ (renewalDisplaces.contract .l1).role = .draw ∧
    (renewalDisplaces.contract .l1).timers.renewal = some due ∧
    BitVec.toNat (renewalDisplaces.now - due) < 2147483648 ∧ renewalDisplaces.LineSettled .l1 ∧
    (renewalDisplaces.contract .l1).exchange.isSome = true ∧
    (renewalDisplaces.contract .l1).waiting = some waitingRequest ∧
    (waitingRequest.kind = .claim ∨ waitingRequest.kind = .renew) :=
  by decide +kernel

theorem witness_AnswerTimeoutTakesTheExchangeOn :
  (claimSilent.contract .l1).exchange = some (exchangeOf .claim 0 (some due) (some 975)) ∧
    (exchangeOf .claim 0 (some due) (some 975)).timer = some due ∧
    BitVec.toNat (claimSilent.now - due) < 2147483648 ∧ claimSilent.LineSettled .l1 ∧
    ((exchangeOf .claim 0 (some due) (some 975)).kind = .claim ∨ (exchangeOf .claim 0 (some due) (some 975)).kind =
      .renew) ∧ (exchangeOf .claim 0 (some due) (some 975)).expiries = 0 ∧ (claimSilent.engine .l1).accepts = true ∧
    (claimSilentTwice.contract .l1).exchange = some (exchangeOf .claim 1 (some due) (some 975)) ∧
    (exchangeOf .claim 1 (some due) (some 975)).timer = some due ∧
    BitVec.toNat (claimSilentTwice.now - due) < 2147483648 ∧ claimSilentTwice.LineSettled .l1 ∧
    ((exchangeOf .claim 1 (some due) (some 975)).kind = .claim ∨ (exchangeOf .claim 1 (some due) (some 975)).kind =
      .renew) ∧ (exchangeOf .claim 1 (some due) (some 975)).expiries ≠ 0 ∧
    (greetingSilent.contract .l1).exchange = some (exchangeOf .announce 0 (some due) (some 975)) ∧
    (exchangeOf .announce 0 (some due) (some 975)).timer = some due ∧
    BitVec.toNat (greetingSilent.now - due) < 2147483648 ∧ greetingSilent.LineSettled .l1 ∧
    (exchangeOf .announce 0 (some due) (some 975)).kind = .announce ∧
    (exchangeOf .announce 0 (some due) (some 975)).reportedAt = some 975 ∧
    (greetingSilent.contract .l1).state = .greeting ∧ (greetingSilent.contract .l1).greetingCount < 2 ∧
    (greetingSilentThrice.contract .l1).exchange = some (exchangeOf .announce 0 (some due) (some 975)) ∧
    BitVec.toNat (greetingSilentThrice.now - due) < 2147483648 ∧ greetingSilentThrice.LineSettled .l1 ∧
    (greetingSilentThrice.contract .l1).state = .greeting ∧ (greetingSilentThrice.contract .l1).greetingCount = 2 ∧
    (displacedOnce.contract .l1).exchange = some (exchangeOf .renew 0 none none) ∧
    (exchangeOf .renew 0 none none).timer = none ∧
    (displacedOnce.contract .l1).displaced = [exchangeOf .renew 0 (some due) (some 975)] ∧
    (exchangeOf .renew 0 (some due) (some 975)).timer = some due ∧
    BitVec.toNat (displacedOnce.now - due) < 2147483648 ∧
    ((exchangeOf .renew 0 (some due) (some 975)).kind = .claim ∨ (exchangeOf .renew 0 (some due) (some 975)).kind =
      .renew) ∧ (displacedOnce.contract .l1).waiting = none ∧ displacedOnce.LineSettled .l1 ∧
    (exchangeOf .renew 0 (some due) (some 975)).expiries = 0 ∧
    (displacedTwice.contract .l1).exchange = some (exchangeOf .renew 0 none none) ∧
    (displacedTwice.contract .l1).displaced = [exchangeOf .renew 1 (some due) (some 975)] ∧
    (exchangeOf .renew 1 (some due) (some 975)).timer = some due ∧
    BitVec.toNat (displacedTwice.now - due) < 2147483648 ∧
    ((exchangeOf .renew 1 (some due) (some 975)).kind = .claim ∨ (exchangeOf .renew 1 (some due) (some 975)).kind =
      .renew) ∧ (displacedTwice.contract .l1).waiting = none ∧ displacedTwice.LineSettled .l1 ∧
    (exchangeOf .renew 1 (some due) (some 975)).expiries ≠ 0 :=
  by and_intros <;> decide +kernel

theorem witness_SilentFarEndsAreClosed :
  BitVec.toNat (noReady.now - due) < 2147483648 ∧ noReady.LineSettled .l1 ∧
    (noReady.contract .l1).state = .switching ∧ (noReady.contract .l1).timers.readyWait = some due ∧
    BitVec.toNat (leaseOver.now - due) < 2147483648 ∧ leaseOver.LineSettled .l1 ∧
    (leaseOver.contract .l1).state = .active ∧ (leaseOver.contract .l1).role = .supply ∧
    (leaseOver.contract .l1).leaseDeadline = some due ∧ (leaseOver.engine .l1).accepts = true :=
  by decide +kernel

theorem witness_RecallsEndByYieldOrForce :
  (recallOver.contract .l1).recallOut = some lateRecall ∧ (recallOver.contract .l1).agreement = some agreed40 ∧
    (recallOver.contract .l1).target = none ∧ (recallOver.contract .l1).state = .active ∧
    (recallOver.contract .l1).role = .supply ∧ (recallOver.contract .l1).grant = none ∧ recallOver.LineSettled .l1 ∧
    lateRecall.deadline = some due ∧ BitVec.toNat (recallOver.now - due) < 2147483648 ∧
    (yieldsMore.contract .l1).recallOut = some lateRecall ∧ (yieldsMore.contract .l1).agreement = some agreed40 ∧
    (yieldsMore.contract .l1).target = none ∧ (yieldsMore.contract .l1).state = .active ∧
    (yieldsMore.contract .l1).role = .supply ∧ (yieldsMore.contract .l1).grant = none ∧ yieldsMore.LineSettled .l1 ∧
    yieldsMore.Arrives .l1 { tag := 3, body := FrameBody.yield 21 } ∧
    (yieldsMore.contract .l1).fits .recall 3 = true ∧ lateRecall.level < 21 ∧
    (yieldsEnough.contract .l1).recallOut = some lateRecall ∧ (yieldsEnough.contract .l1).agreement = some agreed40 ∧
    (yieldsEnough.contract .l1).target = none ∧ (yieldsEnough.contract .l1).state = .active ∧
    (yieldsEnough.contract .l1).role = .supply ∧ (yieldsEnough.contract .l1).grant = none ∧
    yieldsEnough.LineSettled .l1 ∧ yieldsEnough.Arrives .l1 { tag := 3, body := FrameBody.yield 20 } ∧
    (yieldsEnough.contract .l1).fits .recall 3 = true ∧ 20 ≤ lateRecall.level :=
  by decide +kernel

theorem witness_TripsLeadToFaulted :
  (overcurrentDue.channel .l1).tripped = true ∧ (PathCommand.draw 20 false none).form ≠ PathForm.opened ∧
    (reverseDue.channel .l1).tripped = true ∧ overcurrentDue.LineSound .l1 ∧
    997 = (overcurrentDue.channel .l1).tripStamp ∧ (overcurrentDue.channel .l1).due.overcurrent = true ∧
    (overcurrentDue.contract .l1).state ≠ .detached ∧ (overcurrentDue.contract .l1).state ≠ .faulted ∧
    reverseDue.LineSound .l1 ∧ 997 = (reverseDue.channel .l1).tripStamp ∧
    (reverseDue.channel .l1).due.reverse = true ∧ (reverseDue.contract .l1).state ≠ .detached ∧
    (reverseDue.contract .l1).state ≠ .faulted ∧ holdDue.LineSound .l1 ∧ 997 = (holdDue.channel .l1).tripStamp ∧
    (holdDue.channel .l1).due.hold = true ∧ (holdDue.contract .l1).state ≠ .detached ∧
    (holdDue.contract .l1).state ≠ .faulted ∧ settleOver.LineSound .l1 ∧
    (settleOver.channel .l1).due.settle = false ∧ (settleOver.channel .l1).settleStart = some 750 ∧
    BitVec.toNat (settleOver.now - (750 + 250)) < 2147483648 ∧ 1000 = 750 + 250 ∧
    (settleOver.contract .l1).state ≠ .detached ∧ (settleOver.contract .l1).state ≠ .faulted ∧
    settleLate.LineSound .l1 ∧ (settleLate.channel .l1).due.settle = false ∧
    (settleLate.channel .l1).settleStart = some 700 ∧ BitVec.toNat (settleLate.now - (700 + 250)) < 2147483648 ∧
    950 = 700 + 250 ∧ (settleLate.contract .l1).state ≠ .detached ∧ (settleLate.contract .l1).state ≠ .faulted ∧
    settleDue.LineSound .l1 ∧ 997 = (settleDue.channel .l1).tripStamp ∧ (settleDue.channel .l1).due.settle = true ∧
    (settleDue.contract .l1).state ≠ .detached ∧ (settleDue.contract .l1).state ≠ .faulted ∧
    checkOver.LineSound .l1 ∧ 1000 = checkOver.now ∧ (checkOver.contract .l1).state = .switching ∧
    (checkOver.contract .l1).timers.voltageCheck = some 950 ∧
    BitVec.toNat (checkOver.now - (950 + 50)) < 2147483648 ∧ (checkOver.contract .l1).state ≠ .detached ∧
    (checkOver.contract .l1).state ≠ .faulted ∧ settleLatched.LineSound .l1 ∧
    0 = (settleLatched.channel .l1).tripStamp ∧ (settleLatched.channel .l1).due.settle = true ∧
    (settleLatched.contract .l1).state = .detached :=
  by and_intros <;> decide +kernel

theorem witness_TripsLeadToFaulted_2 :
  tripInFault.LineSound .l1 ∧ 0 = (tripInFault.channel .l1).tripStamp ∧
    (tripInFault.channel .l1).due.overcurrent = true ∧ (tripInFault.contract .l1).state = .faulted :=
  by decide +kernel

theorem witness_SamplesAreTakenAndJudged :
  (drawing.contract wide.line).timers.voltageCheck = none ∧
    (∀ (a : Agreement), (checksVoltage.contract belowEdge.line).agreement = some a → ¬(a.voltage - a.voltage * 5 /
      100 ≤ min 1500 belowEdge.voltage.toNat ∧ min 1500 belowEdge.voltage.toNat ≤ a.voltage + a.voltage * 5 / 100)) ∧
    (checksVoltage.contract lowEdge.line).state = .switching ∧ (checksVoltage.contract lowEdge.line).role = .draw ∧
    (checksVoltage.contract lowEdge.line).timers.voltageCheck = some 990 ∧
    (checksVoltage.contract lowEdge.line).agreement = some agreed20 ∧
    agreed20.voltage - agreed20.voltage * 5 / 100 ≤ min 1500 lowEdge.voltage.toNat ∧
    min 1500 lowEdge.voltage.toNat ≤ agreed20.voltage + agreed20.voltage * 5 / 100 ∧
    checksVoltage.LineSettled lowEdge.line ∧ (checksVoltage.contract lowEdge.line).deferred = false ∧
    (checksVoltage.contract highEdge.line).state = .switching ∧ (checksVoltage.contract highEdge.line).role = .draw ∧
    (checksVoltage.contract highEdge.line).timers.voltageCheck = some 990 ∧
    (checksVoltage.contract highEdge.line).agreement = some agreed20 ∧
    agreed20.voltage - agreed20.voltage * 5 / 100 ≤ min 1500 highEdge.voltage.toNat ∧
    min 1500 highEdge.voltage.toNat ≤ agreed20.voltage + agreed20.voltage * 5 / 100 ∧
    checksVoltage.LineSettled highEdge.line ∧ (checksVoltage.contract highEdge.line).deferred = false ∧
    (checksReversed.contract reversed.line).state = .switching ∧
    (checksReversed.contract reversed.line).role = .draw ∧
    (checksReversed.contract reversed.line).timers.voltageCheck = some 990 ∧
    (checksReversed.contract reversed.line).agreement = some agreed20 ∧
    agreed20.voltage - agreed20.voltage * 5 / 100 ≤ min 1500 reversed.voltage.toNat ∧
    min 1500 reversed.voltage.toNat ≤ agreed20.voltage + agreed20.voltage * 5 / 100 ∧
    checksReversed.LineSettled reversed.line ∧ (checksReversed.contract reversed.line).deferred = false ∧
    (checksHeld.contract highEdge.line).state = .switching ∧ (checksHeld.contract highEdge.line).role = .draw ∧
    (checksHeld.contract highEdge.line).timers.voltageCheck = some 990 ∧
    (checksHeld.contract highEdge.line).agreement = some agreed20 ∧ checksHeld.LineSettled highEdge.line ∧
    (checksHeld.contract highEdge.line).options.holdAfterActive = true ∧
    (checksDeferred.contract highEdge.line).state = .switching ∧
    (checksDeferred.contract highEdge.line).role = .draw ∧
    (checksDeferred.contract highEdge.line).timers.voltageCheck = some 990 ∧
    (checksDeferred.contract highEdge.line).agreement = some agreed20 ∧ checksDeferred.LineSettled highEdge.line ∧
    (checksDeferred.contract highEdge.line).deferred = true ∧
    (checksDeferred.contract highEdge.line).paused = false ∧
    (checksDeferred.contract highEdge.line).options.holdAfterActive = false ∧
    (checksDeferred.contract highEdge.line).farMenu = some (farMenuOf [farPoint]) ∧
    checksDeferred.NoForward highEdge.line (List.map FarPoint.point (farMenuOf [farPoint]).points) ∧
    (checksDeferredNone.contract highEdge.line).state = .switching ∧
    (checksDeferredNone.contract highEdge.line).role = .draw ∧
    (checksDeferredNone.contract highEdge.line).timers.voltageCheck = some 990 ∧
    (checksDeferredNone.contract highEdge.line).agreement = some agreed20 ∧
    checksDeferredNone.LineSettled highEdge.line ∧ (checksDeferredNone.contract highEdge.line).deferred = true ∧
    (checksDeferredNone.contract highEdge.line).paused = false ∧
    (checksDeferredNone.contract highEdge.line).options.holdAfterActive = false ∧
    (checksDeferredNone.contract highEdge.line).farMenu = some (farMenuOf
      [{ point := { kind := PointKind.fixed, v1 := 450, v2 := 450, limit := 30 }, mark := .unqueried, capacity := 0 }]) ∧
    checksDeferredNone.NoForward highEdge.line (List.map FarPoint.point (farMenuOf
      [{ point := { kind := PointKind.fixed, v1 := 450, v2 := 450, limit := 30 }, mark := .unqueried, capacity := 0 }]).points) :=
  by and_intros <;> first | decide +kernel | exact noForward_of (by decide +kernel)

theorem witness_SamplesAreTakenAndJudged_2 :
  (checksDeferredTwo.contract highEdge.line).state = .switching ∧
    (checksDeferredTwo.contract highEdge.line).role = .draw ∧
    (checksDeferredTwo.contract highEdge.line).timers.voltageCheck = some 990 ∧
    (checksDeferredTwo.contract highEdge.line).agreement = some agreed20 ∧
    checksDeferredTwo.LineSettled highEdge.line ∧ (checksDeferredTwo.contract highEdge.line).deferred = true ∧
    (checksDeferredTwo.contract highEdge.line).paused = false ∧
    (checksDeferredTwo.contract highEdge.line).options.holdAfterActive = false ∧
    (checksDeferredTwo.contract highEdge.line).farMenu = some (farMenuOf
      [{ point := { kind := PointKind.fixed, v1 := 450, v2 := 450, limit := 30 }, mark := .unqueried, capacity := 0 }, farPoint]) ∧
    1 < (List.map FarPoint.point (farMenuOf
      [{ point := { kind := PointKind.fixed, v1 := 450, v2 := 450, limit := 30 }, mark := .unqueried, capacity := 0 }, farPoint]).points).length ∧
    exec (MidKind.tablePut.row strikePut) checksDeferredTwo = .next (after (Instr.tablePut strikePut)
      checksDeferredTwo) ∧
    checksDeferredTwo.NoForwardUpTo (after (Instr.tablePut strikePut) checksDeferredTwo) highEdge.line 1 (List.map
      FarPoint.point (farMenuOf
      [{ point := { kind := PointKind.fixed, v1 := 450, v2 := 450, limit := 30 }, mark := .unqueried, capacity := 0 }, farPoint]).points) ∧
    exec (MidKind.stanceSet.row lowBattery) checksDeferredTwo = .next (after (Instr.stanceSet lowBattery)
      checksDeferredTwo) ∧
    checksDeferredTwo.NoForwardUpTo (after (Instr.stanceSet lowBattery) checksDeferredTwo) highEdge.line 1 (List.map
      FarPoint.point (farMenuOf
      [{ point := { kind := PointKind.fixed, v1 := 450, v2 := 450, limit := 30 }, mark := .unqueried, capacity := 0 }, farPoint]).points) ∧
    exec (MidKind.tableGet.row readsFirst) checksDeferredTwo = .next (after (Instr.tableGet readsFirst)
      checksDeferredTwo) ∧
    checksDeferredTwo.NoForwardUpTo (after (Instr.tableGet readsFirst) checksDeferredTwo) highEdge.line 1 (List.map
      FarPoint.point (farMenuOf
      [{ point := { kind := PointKind.fixed, v1 := 450, v2 := 450, limit := 30 }, mark := .unqueried, capacity := 0 }, farPoint]).points) ∧
    exec (Instr.sample true { mid := none, readings := [lowEdge] }) checksVoltage = .next (after (Instr.sample true
      { mid := none, readings := [lowEdge] }) checksVoltage) :=
  by and_intros <;> first | decide +kernel | exact noForwardUpTo_of (by decide +kernel) | rfl

theorem witness_ChannelReportsAreTaken :
  (settledLate.channel .l1).settleReport = some 451 ∧ (settledLate.contract .l1).state ≠ .powering ∧
    (settledNow.channel .l1).settleReport = some 451 ∧ (settledNow.contract .l1).state = .powering ∧
    (settledNow.contract .l1).grant = some poweredGrant ∧ (settledNow.contract .l1).target = none ∧
    settledNow.LineSettled .l1 ∧ ((capped .endAtCap (record .active .draw)).channel .l1).capReport = true ∧
    (capped .endAtCap (record .active .draw)).LineSettled .l1 ∧
    (¬(((capped .endAtCap (record .active .draw)).contract .l1).state = .powering ∨ ((capped .endAtCap (record
      .active .draw)).contract .l1).state = .active ∧ ((capped .endAtCap (record .active .draw)).contract .l1).role =
      .supply)) ∧ ((capped .uncapped underCap).channel .l1).capReport = true ∧
    (capped .uncapped underCap).LineSettled .l1 ∧
    ((capped .uncapped underCap).contract .l1).options.capMode = .uncapped ∧
    ((capped .endAtCap underCap).channel .l1).capReport = true ∧ (capped .endAtCap underCap).LineSettled .l1 ∧
    (((capped .endAtCap underCap).contract .l1).state = .powering ∨ ((capped .endAtCap underCap).contract .l1).state
      = .active ∧ ((capped .endAtCap underCap).contract .l1).role = .supply) ∧
    ((capped .endAtCap underCap).contract .l1).options.capMode = .endAtCap ∧
    ((capped .endAtCap underCap).engine .l1).accepts = true ∧
    ((capped .endAtCap cappedPowering).channel .l1).capReport = true ∧
    (capped .endAtCap cappedPowering).LineSettled .l1 ∧
    (((capped .endAtCap cappedPowering).contract .l1).state = .powering ∨ ((capped .endAtCap cappedPowering).contract
      .l1).state = .active ∧ ((capped .endAtCap cappedPowering).contract .l1).role = .supply) ∧
    ((capped .endAtCap cappedPowering).contract .l1).options.capMode = .endAtCap ∧
    ((capped .endAtCap cappedPowering).engine .l1).accepts = true ∧
    ((capped .recallAtCap cappedPowering).channel .l1).capReport = true ∧
    (capped .recallAtCap cappedPowering).LineSettled .l1 ∧
    ((capped .recallAtCap cappedPowering).contract .l1).options.capMode = .recallAtCap ∧
    ((capped .recallAtCap cappedPowering).contract .l1).state = .powering ∧
    ((capped .recallAtCap cappedPowering).contract .l1).target = none ∧
    ((capped .recallAtCap cappedLow).channel .l1).capReport = true ∧
    (capped .recallAtCap cappedLow).LineSettled .l1 ∧
    ((capped .recallAtCap cappedLow).contract .l1).options.capMode = .recallAtCap ∧
    ((capped .recallAtCap cappedLow).contract .l1).state = .active ∧
    ((capped .recallAtCap cappedLow).contract .l1).role = .supply ∧
    ((capped .recallAtCap cappedLow).contract .l1).recallOut = none ∧
    ((capped .recallAtCap cappedLow).contract .l1).agreement = some agreed20 ∧
    agreed20.current ≤ ((capped .recallAtCap cappedLow).contract .l1).options.baseline ∧
    ((capped .recallAtCap underCap).channel .l1).capReport = true ∧ (capped .recallAtCap underCap).LineSettled .l1 ∧
    ((capped .recallAtCap underCap).contract .l1).options.capMode = .recallAtCap ∧
    ((capped .recallAtCap underCap).contract .l1).state = .active ∧
    ((capped .recallAtCap underCap).contract .l1).role = .supply ∧
    ((capped .recallAtCap underCap).contract .l1).recallOut = none ∧
    ((capped .recallAtCap underCap).contract .l1).agreement = some agreed40 ∧
    ((capped .recallAtCap underCap).contract .l1).options.baseline < agreed40.current ∧
    (capped .recallAtCap underCap).MaySend .l1 :=
  by and_intros <;> decide +kernel

theorem witness_AnnounceDecidesTheRole :
  (meets .both FarClass.supplier).Arrives .l1
      { tag := 1, body := FrameBody.announce FarClass.supplier true false 239075330 1 } ∧
    ((meets .both FarClass.supplier).contract .l1).state = .greeting ∧
    ((meets .both FarClass.supplier).contract .l1).decision = none ∧
    ((meets .both FarClass.supplier).engine .l1).accepts = true ∧
    ((meets .both FarClass.supplier).channel .l1).tripped = false ∧
    (meets .both FarClass.supplier).actionOf (announced .supplier) = .auto ∧
    (meets .both FarClass.both).Arrives .l1
      { tag := 1, body := FrameBody.announce FarClass.both true false 239075330 1 } ∧
    ((meets .both FarClass.both).contract .l1).state = .greeting ∧
    ((meets .both FarClass.both).contract .l1).decision = none ∧
    ((meets .both FarClass.both).engine .l1).accepts = true ∧
    ((meets .both FarClass.both).channel .l1).tripped = false ∧
    (meets .both FarClass.both).actionOf (announced .both) = .auto ∧
    (answering .clamp .auto 30 (meets .both FarClass.supplier)).Arrives .l1
      { tag := 1, body := FrameBody.announce FarClass.supplier true false 239075330 1 } ∧
    ((answering .clamp .auto 30 (meets .both FarClass.supplier)).contract .l1).state = .greeting ∧
    ((answering .clamp .auto 30 (meets .both FarClass.supplier)).contract .l1).decision = none ∧
    ((answering .clamp .auto 30 (meets .both FarClass.supplier)).engine .l1).accepts = true ∧
    ((answering .clamp .auto 30 (meets .both FarClass.supplier)).channel .l1).tripped = false ∧
    (answering .clamp .auto 30 (meets .both FarClass.supplier)).actionOf (announced .supplier) = .clamp ∧
    some 30 = some ((answering .clamp .auto 30 (meets .both FarClass.supplier)).answerOf (announced .supplier)).clamp
      ∧
    (meets .both FarClass.consumer).Arrives .l1
      { tag := 1, body := FrameBody.announce FarClass.consumer true false 239075330 1 } ∧
    ((meets .both FarClass.consumer).contract .l1).state = .greeting ∧
    ((meets .both FarClass.consumer).contract .l1).decision = none ∧
    ((meets .both FarClass.consumer).engine .l1).accepts = true ∧
    ((meets .both FarClass.consumer).channel .l1).tripped = false ∧
    (meets .both FarClass.consumer).actionOf (announced .consumer) = .auto ∧
    (answering .clamp .auto 30 (sells (meets .both FarClass.consumer))).Arrives .l1
      { tag := 1, body := FrameBody.announce FarClass.consumer true false 239075330 1 } ∧
    ((answering .clamp .auto 30 (sells (meets .both FarClass.consumer))).contract .l1).state = .greeting ∧
    ((answering .clamp .auto 30 (sells (meets .both FarClass.consumer))).contract .l1).decision = none ∧
    ((answering .clamp .auto 30 (sells (meets .both FarClass.consumer))).engine .l1).accepts = true ∧
    ((answering .clamp .auto 30 (sells (meets .both FarClass.consumer))).channel .l1).tripped = false ∧
    (answering .clamp .auto 30 (sells (meets .both FarClass.consumer))).actionOf (announced .consumer) = .clamp ∧
    some 30 = some ((answering .clamp .auto 30 (sells (meets .both FarClass.consumer))).answerOf (announced
      .consumer)).clamp ∧
    (alone (answering .forward .clamp 30 (sells (meets .both FarClass.consumer)))).Arrives .l1
      { tag := 1, body := FrameBody.announce FarClass.consumer true false 239075330 1 } ∧
    ((alone (answering .forward .clamp 30 (sells (meets .both FarClass.consumer)))).contract .l1).state = .greeting ∧
    ((alone (answering .forward .clamp 30 (sells (meets .both FarClass.consumer)))).contract .l1).decision = none ∧
    ((alone (answering .forward .clamp 30 (sells (meets .both FarClass.consumer)))).engine .l1).accepts = true ∧
    ((alone (answering .forward .clamp 30 (sells (meets .both FarClass.consumer)))).channel .l1).tripped = false ∧
    (alone (answering .forward .clamp 30 (sells (meets .both FarClass.consumer)))).actionOf (announced .consumer) =
      .clamp ∧
    some 30 = some ((alone (answering .forward .clamp 30 (sells (meets .both FarClass.consumer)))).answerOf
      (announced .consumer)).clamp ∧
    (meets .drawOnly FarClass.consumer).Arrives .l1
      { tag := 1, body := FrameBody.announce FarClass.consumer true false 239075330 1 } ∧
    ((meets .drawOnly FarClass.consumer).contract .l1).state = .greeting ∧
    ((meets .drawOnly FarClass.consumer).contract .l1).decision = none ∧
    ((meets .drawOnly FarClass.consumer).engine .l1).accepts = true ∧
    ((meets .drawOnly FarClass.consumer).channel .l1).tripped = false ∧
    (meets .drawOnly FarClass.consumer).actionOf (announced .consumer) = .auto :=
  by and_intros <;> decide +kernel

theorem witness_AnnounceDecidesTheRole_2 :
  (greeted .both FarClass.supplier).Arrives .l1
      { tag := 1, body := FrameBody.announce FarClass.supplier true true 239075330 1 } ∧
    ((greeted .both FarClass.supplier).contract .l1).fits .announce 1 = true ∧
    ((greeted .both FarClass.supplier).contract .l1).state = .greeting ∧
    ((greeted .both FarClass.supplier).contract .l1).decision = none ∧
    ((greeted .both FarClass.supplier).engine .l1).accepts = true ∧
    ((greeted .both FarClass.supplier).channel .l1).tripped = false ∧
    (greeted .both FarClass.supplier).actionOf (announced .supplier) = .auto ∧
    (sells (greeted .both FarClass.consumer)).Arrives .l1
      { tag := 1, body := FrameBody.announce FarClass.consumer true true 239075330 1 } ∧
    ((sells (greeted .both FarClass.consumer)).contract .l1).fits .announce 1 = true ∧
    ((sells (greeted .both FarClass.consumer)).contract .l1).state = .greeting ∧
    ((sells (greeted .both FarClass.consumer)).contract .l1).decision = none ∧
    ((sells (greeted .both FarClass.consumer)).engine .l1).accepts = true ∧
    ((sells (greeted .both FarClass.consumer)).channel .l1).tripped = false ∧
    (sells (greeted .both FarClass.consumer)).actionOf (announced .consumer) = .auto ∧
    (greeted .both FarClass.consumer).Arrives .l1
      { tag := 1, body := FrameBody.announce FarClass.consumer true true 239075330 1 } ∧
    ((greeted .both FarClass.consumer).contract .l1).fits .announce 1 = true ∧
    ((greeted .both FarClass.consumer).contract .l1).state = .greeting ∧
    ((greeted .both FarClass.consumer).contract .l1).decision = none ∧
    ((greeted .both FarClass.consumer).engine .l1).accepts = true ∧
    ((greeted .both FarClass.consumer).channel .l1).tripped = false ∧
    (greeted .both FarClass.consumer).actionOf (announced .consumer) = .auto ∧
    (greeted .drawOnly FarClass.consumer).Arrives .l1
      { tag := 1, body := FrameBody.announce FarClass.consumer true true 239075330 1 } ∧
    ((greeted .drawOnly FarClass.consumer).contract .l1).fits .announce 1 = true ∧
    ((greeted .drawOnly FarClass.consumer).contract .l1).state = .greeting ∧
    ((greeted .drawOnly FarClass.consumer).contract .l1).decision = none ∧
    ((greeted .drawOnly FarClass.consumer).engine .l1).accepts = true ∧
    ((greeted .drawOnly FarClass.consumer).channel .l1).tripped = false ∧
    (greeted .drawOnly FarClass.consumer).actionOf (announced .consumer) = .auto ∧
    (answering .refuse .auto 0 (meets .both FarClass.supplier)).Arrives .l1
      { tag := 1, body := FrameBody.announce FarClass.supplier true false 239075330 1 } ∧
    ((answering .refuse .auto 0 (meets .both FarClass.supplier)).contract .l1).state = .greeting ∧
    ((answering .refuse .auto 0 (meets .both FarClass.supplier)).contract .l1).decision = none ∧
    ((answering .refuse .auto 0 (meets .both FarClass.supplier)).engine .l1).accepts = true ∧
    ((answering .refuse .auto 0 (meets .both FarClass.supplier)).channel .l1).tripped = false ∧
    (answering .refuse .auto 0 (meets .both FarClass.supplier)).actionOf (announced .supplier) = .refuse ∧
    (answering .wait .auto 0 (meets .both FarClass.supplier)).Arrives .l1
      { tag := 1, body := FrameBody.announce FarClass.supplier true false 239075330 1 } ∧
    ((answering .wait .auto 0 (meets .both FarClass.supplier)).contract .l1).state = .greeting ∧
    ((answering .wait .auto 0 (meets .both FarClass.supplier)).contract .l1).decision = none ∧
    ((answering .wait .auto 0 (meets .both FarClass.supplier)).engine .l1).accepts = true ∧
    ((answering .wait .auto 0 (meets .both FarClass.supplier)).channel .l1).tripped = false ∧
    (answering .wait .auto 0 (meets .both FarClass.supplier)).actionOf (announced .supplier) = .wait ∧
    restarts.Arrives .l1 { tag := 1, body := FrameBody.announce FarClass.supplier true false 239075330 1 } ∧
    restarts.LineSettled .l1 ∧ (restarts.contract .l1).decision = none ∧ (restarts.contract .l1).state ≠ .greeting ∧
    (restarts.contract .l1).state ≠ .faulted ∧
    (¬((restarts.contract .l1).state = .blocked ∧ restarts.straps.get .l1 = .disabled)) :=
  by and_intros <;> decide +kernel

theorem witness_AnnounceDecidesTheRole_3 :
  restartsBlocked.Arrives .l1 { tag := 1, body := FrameBody.announce FarClass.consumer true false 239075330 1 } ∧
    restartsBlocked.LineSettled .l1 ∧ (restartsBlocked.contract .l1).decision = none ∧
    (restartsBlocked.contract .l1).state ≠ .greeting ∧ (restartsBlocked.contract .l1).state ≠ .faulted ∧
    (¬((restartsBlocked.contract .l1).state = .blocked ∧ restartsBlocked.straps.get .l1 = .disabled)) ∧
    answeredSlowly.Arrives .l1 { tag := 1, body := FrameBody.announce FarClass.consumer true true 239075330 1 } ∧
    answeredSlowly.LineSettled .l1 ∧ (answeredSlowly.contract .l1).fits .announce 1 = true ∧
    (answeredSlowly.contract .l1).state = .baseline ∧ (answeredSlowly.contract .l1).unmanaged = true ∧
    answeredLate.Arrives .l1 { tag := 1, body := FrameBody.announce FarClass.both true true 239075330 1 } ∧
    answeredLate.LineSettled .l1 ∧ (answeredLate.contract .l1).fits .announce 1 = true ∧
    (answeredLate.contract .l1).state ≠ .greeting ∧
    (¬((answeredLate.contract .l1).state = .baseline ∧ (answeredLate.contract .l1).unmanaged = true)) ∧
    answeredStray.Arrives .l1 { tag := 1, body := FrameBody.announce FarClass.both true true 239075330 1 } ∧
    answeredStray.LineSettled .l1 ∧ (answeredStray.contract .l1).fits .announce 1 = false ∧
    announcedFaulted.Arrives .l1 { tag := 1, body := FrameBody.announce FarClass.both true false 239075330 1 } ∧
    announcedFaulted.LineSettled .l1 ∧ (announcedFaulted.contract .l1).decision = none ∧
    (announcedFaulted.contract .l1).state = .faulted ∧
    announcedDisabled.Arrives .l1 { tag := 1, body := FrameBody.announce FarClass.supplier true false 239075330 1 } ∧
    announcedDisabled.LineSettled .l1 ∧ (announcedDisabled.contract .l1).decision = none ∧
    (announcedDisabled.contract .l1).state = .blocked ∧ announcedDisabled.straps.get .l1 = .disabled ∧
    (announcedDisabled.engine .l1).accepts = true ∧ (restarts.contract .l1).state.contracted = true ∧
    (restarts.contract .l1).options.roles.draw = true ∧ (restarts.contract .l1).role ≠ .none ∧
    (restarts.engine .l1).accepts = true ∧ restarts.actionOf (announced .supplier) = .auto ∧
    (answering .clamp .auto 9 restarts).Arrives .l1
      { tag := 1, body := FrameBody.announce FarClass.supplier true false 239075330 1 } ∧
    ((answering .clamp .auto 9 restarts).contract .l1).state.contracted = true ∧
    ((answering .clamp .auto 9 restarts).contract .l1).decision = none ∧
    (answering .clamp .auto 9 restarts).LineSettled .l1 ∧
    ((answering .clamp .auto 9 restarts).contract .l1).options.roles.draw = true ∧
    ((answering .clamp .auto 9 restarts).contract .l1).role ≠ .none ∧
    ((answering .clamp .auto 9 restarts).engine .l1).accepts = true ∧
    (answering .clamp .auto 9 restarts).actionOf (announced .supplier) = .clamp :=
  by and_intros <;> decide +kernel

theorem witness_MenuLeadsToTheFirstClaim :
  menuArrives.Arrives .l1 { tag := 2, body := FrameBody.menu true twoPoints } ∧
    (menuArrives.contract .l1).decision = none ∧ menuArrives.LineSettled .l1 ∧
    (menuArrives.contract .l1).state = .awaitMenu ∧ (menuArrives.contract .l1).paused = false ∧
    menuArrives.NoForward .l1 twoPoints ∧
    (answering .clamp .auto 24 menuArrives).Arrives .l1 { tag := 2, body := FrameBody.menu true twoPoints } ∧
    ((answering .clamp .auto 24 menuArrives).contract .l1).decision = none ∧
    (answering .clamp .auto 24 menuArrives).LineSettled .l1 ∧
    ((answering .clamp .auto 24 menuArrives).contract .l1).state = .awaitMenu ∧
    ((answering .clamp .auto 24 menuArrives).contract .l1).paused = false ∧
    (answering .clamp .auto 24 menuArrives).NoForward .l1 twoPoints ∧
    (answering .refuse .auto 24 menuArrives).Arrives .l1 { tag := 2, body := FrameBody.menu true twoPoints } ∧
    ((answering .refuse .auto 24 menuArrives).contract .l1).decision = none ∧
    (answering .refuse .auto 24 menuArrives).LineSettled .l1 ∧
    ((answering .refuse .auto 24 menuArrives).contract .l1).state = .awaitMenu ∧
    ((answering .refuse .auto 24 menuArrives).contract .l1).paused = false ∧
    (answering .refuse .auto 24 menuArrives).NoForward .l1 twoPoints ∧
    menuUnfit.Arrives .l1
      { tag := 2, body := FrameBody.menu false [{ kind := PointKind.fixed, v1 := 450, v2 := 450, limit := 30 }] } ∧
    (menuUnfit.contract .l1).decision = none ∧ menuUnfit.LineSettled .l1 ∧
    (menuUnfit.contract .l1).state = .awaitMenu ∧ (menuUnfit.contract .l1).paused = false ∧
    menuUnfit.NoForward .l1 [{ kind := PointKind.fixed, v1 := 450, v2 := 450, limit := 30 }] ∧
    menuClaims.Arrives .l1 { tag := 2, body := FrameBody.menu true twoPoints } ∧
    (menuClaims.contract .l1).decision = none ∧ menuClaims.LineSettled .l1 ∧
    (menuClaims.contract .l1).state = .claiming ∧ (menuClaims.contract .l1).paused = false ∧
    menuClaims.NoForward .l1 twoPoints ∧
    menuBacksOff.Arrives .l1 { tag := 2, body := FrameBody.menu true twoPoints } ∧
    (menuBacksOff.contract .l1).decision = none ∧ menuBacksOff.LineSettled .l1 ∧
    (menuBacksOff.contract .l1).state = .backoff ∧ (menuBacksOff.contract .l1).paused = false ∧
    menuBacksOff.NoForward .l1 twoPoints ∧
    menuBaseline.Arrives .l1 { tag := 2, body := FrameBody.menu true twoPoints } ∧
    (menuBaseline.contract .l1).decision = none ∧ menuBaseline.LineSettled .l1 ∧
    (menuBaseline.contract .l1).state = .baseline ∧ (menuBaseline.contract .l1).paused = false ∧
    menuBaseline.NoForward .l1 twoPoints :=
  by and_intros <;> first | decide +kernel | exact noForward_of (by decide +kernel)

theorem witness_MenuLeadsToTheFirstClaim_2 :
  menuActive.Arrives .l1 { tag := 2, body := FrameBody.menu true twoPoints } ∧
    (menuActive.contract .l1).decision = none ∧ menuActive.LineSettled .l1 ∧
    ((menuActive.contract .l1).state = .active ∧ (menuActive.contract .l1).role = .draw) ∧
    (menuActive.contract .l1).paused = false ∧
    menuActive.NoForward .l1 twoPoints ∧ 1 < twoPoints.length ∧
    exec (MidKind.tablePut.row strikePut) menuArrives = .next (after (Instr.tablePut strikePut) menuArrives) ∧
    menuArrives.NoForwardUpTo (after (Instr.tablePut strikePut) menuArrives) .l1 1 twoPoints ∧
    exec (MidKind.tablePut.row strikePut) menuClaims = .next (after (Instr.tablePut strikePut) menuClaims) ∧
    menuClaims.NoForwardUpTo (after (Instr.tablePut strikePut) menuClaims) .l1 1 twoPoints ∧
    exec (MidKind.tablePut.row strikePut) menuBacksOff = .next (after (Instr.tablePut strikePut) menuBacksOff) ∧
    menuBacksOff.NoForwardUpTo (after (Instr.tablePut strikePut) menuBacksOff) .l1 1 twoPoints ∧
    exec (MidKind.tablePut.row strikePut) menuBaseline = .next (after (Instr.tablePut strikePut) menuBaseline) ∧
    menuBaseline.NoForwardUpTo (after (Instr.tablePut strikePut) menuBaseline) .l1 1 twoPoints ∧
    exec (MidKind.tablePut.row strikePut) menuActive = .next (after (Instr.tablePut strikePut) menuActive) ∧
    menuActive.NoForwardUpTo (after (Instr.tablePut strikePut) menuActive) .l1 1 twoPoints ∧
    exec (MidKind.stanceSet.row lowBattery) menuArrives = .next (after (Instr.stanceSet lowBattery) menuArrives) ∧
    menuArrives.NoForwardUpTo (after (Instr.stanceSet lowBattery) menuArrives) .l1 1 twoPoints ∧
    exec (MidKind.tableGet.row readsFirst) menuArrives = .next (after (Instr.tableGet readsFirst) menuArrives) ∧
    menuArrives.NoForwardUpTo (after (Instr.tableGet readsFirst) menuArrives) .l1 1 twoPoints ∧
    menuPaused.Arrives .l1 { tag := 2, body := FrameBody.menu true twoPoints } ∧
    (menuPaused.contract .l1).decision = none ∧ menuPaused.LineSettled .l1 ∧
    (menuPaused.contract .l1).state = .awaitMenu ∧ (menuPaused.contract .l1).paused = true ∧
    menuClaimsPaused.Arrives .l1 { tag := 2, body := FrameBody.menu true twoPoints } ∧
    (menuClaimsPaused.contract .l1).decision = none ∧ menuClaimsPaused.LineSettled .l1 ∧
    (menuClaimsPaused.contract .l1).state = .claiming ∧ (menuClaimsPaused.contract .l1).paused = true ∧
    menuSwitching.Arrives .l1 { tag := 2, body := FrameBody.menu true twoPoints } ∧
    (menuSwitching.contract .l1).decision = none ∧ menuSwitching.LineSettled .l1 ∧
    (menuSwitching.contract .l1).state = .switching ∧
    (∀ (x : Exchange), (menuClaims.contract .l1).exchange = some x → x.kind = .claim) ∧
    (menuClaims.contract .l1).waiting = none :=
  by
    and_intros <;> first
      | decide +kernel
      | rfl
      | ((with_reducible apply noForward_of); decide +kernel)
      | ((with_reducible apply noForwardUpTo_of); decide +kernel)

theorem witness_ForwardHandsTheDecision :
  ((answering .forward .refuse 0 (meets .both FarClass.supplier)).contract .l1).decision = none ∧
    (answering .forward .refuse 0 (meets .both FarClass.supplier)).LineSettled .l1 ∧
    (answering .forward .refuse 0 (meets .both FarClass.supplier)).link.mode = .running ∧
    (answering .forward .refuse 0 (meets .both FarClass.supplier)).Arrives .l1
      { tag := 1, body := FrameBody.announce FarClass.supplier true false 239075330 1 } ∧
    ((answering .forward .refuse 0 (meets .both FarClass.supplier)).contract .l1).state = .greeting ∧
    ((answering .forward .refuse 0 (meets .both FarClass.supplier)).answerOf (announced .supplier)).action = .forward
      ∧ ((answering .forward .refuse 0 menuArrives).contract .l1).decision = none ∧
    (answering .forward .refuse 0 menuArrives).LineSettled .l1 ∧
    (answering .forward .refuse 0 menuArrives).link.mode = .running ∧
    (answering .forward .refuse 0 menuArrives).Arrives .l1 { tag := 2, body := FrameBody.menu true twoPoints } ∧
    ((answering .forward .refuse 0 menuArrives).contract .l1).state = .awaitMenu ∧
    ((answering .forward .refuse 0 menuArrives).contract .l1).paused = false ∧
    twoPoints[0]? = some { kind := PointKind.fixed, v1 := 450, v2 := 450, limit := 30 } ∧
    ((answering .forward .refuse 0 menuArrives).pointAnswer .l1
      { kind := PointKind.fixed, v1 := 450, v2 := 450, limit := 30 } 0).action = .forward ∧
    (∀ (i : ℕ) (o : Point), i < 0 → twoPoints[i]? = some o → ((answering .forward .refuse 0 menuArrives).pointAnswer
      .l1 o i).action ≠ .forward) ∧ (secondForwards.contract .l1).decision = none ∧ secondForwards.LineSettled .l1 ∧
    secondForwards.link.mode = .running ∧
    secondForwards.Arrives .l1 { tag := 2, body := FrameBody.menu true twoPoints } ∧
    (secondForwards.contract .l1).state = .awaitMenu ∧ (secondForwards.contract .l1).paused = false ∧
    twoPoints[1]? = some { kind := PointKind.fixed, v1 := 250, v2 := 250, limit := 40 } ∧
    (secondForwards.pointAnswer .l1 { kind := PointKind.fixed, v1 := 250, v2 := 250, limit := 40 } 1).action =
      .forward ∧
    (∀ (i : ℕ) (o : Point), i < 1 → twoPoints[i]? = some o → (secondForwards.pointAnswer .l1 o i).action ≠ .forward) ∧
    (claimForwards.contract .l1).decision = none ∧ claimForwards.LineSettled .l1 ∧
    claimForwards.link.mode = .running ∧ claimForwards.Arrives .l1 { tag := 5, body := FrameBody.claim someClaim } ∧
    (claimForwards.contract .l1).state = .offering ∧ (claimForwards.contract .l1).offered = some oneOffered ∧
    oneOffered.held = false ∧ someClaim.fitsMenu oneOffered.points = true ∧
    claimForwards.link.stance.getLsbD 3 = false ∧ (claimForwards.contract .l1).paused = false ∧
    (claimForwards.contract .l1).recallOut = none ∧ (claimForwards.contract .l1).target = none ∧
    (claimForwards.answerOf (claimed claimForwards)).action = .forward ∧
    (claimForwardsActive.contract .l1).decision = none ∧ claimForwardsActive.LineSettled .l1 ∧
    claimForwardsActive.link.mode = .running ∧
    claimForwardsActive.Arrives .l1 { tag := 5, body := FrameBody.claim someClaim } ∧
    (claimForwardsActive.contract .l1).state = .active ∧ (claimForwardsActive.contract .l1).role = .supply ∧
    (claimForwardsActive.contract .l1).offered = some oneOffered ∧
    claimForwardsActive.link.stance.getLsbD 3 = false ∧ (claimForwardsActive.contract .l1).paused = false ∧
    (claimForwardsActive.contract .l1).recallOut = none ∧ (claimForwardsActive.contract .l1).target = none ∧
    (claimForwardsActive.answerOf (claimed claimForwardsActive)).action = .forward :=
  by and_intros <;> first | decide +kernel | exact noForwardBefore_of (by decide +kernel)

theorem witness_ForwardHandsTheDecision_2 :
  ((alone secondForwards).contract .l1).decision = none ∧ (alone secondForwards).LineSettled .l1 ∧
    (alone secondForwards).link.mode = .autonomous ∧
    (alone secondForwards).Arrives .l1 { tag := 2, body := FrameBody.menu true twoPoints } ∧
    ((alone secondForwards).contract .l1).state = .awaitMenu ∧ ((alone secondForwards).contract .l1).paused = false ∧
    ((alone secondForwards).pointAnswer .l1 { kind := PointKind.fixed, v1 := 250, v2 := 250, limit := 40 } 1).action
      = .forward ∧
    (∀ (i : ℕ) (o : Point), i < 1 → twoPoints[i]? = some o → ((alone secondForwards).pointAnswer .l1 o i).action ≠
      .forward) ∧
    (alone secondForwards).firstClaim .l1 (List.map (fun o => markedBy ((alone secondForwards).pointAnswer .l1
      { kind := PointKind.fixed, v1 := 250, v2 := 250, limit := 40 } 1).fallback ((alone secondForwards).pointAnswer
      .l1 { kind := PointKind.fixed, v1 := 250, v2 := 250, limit := 40 } 1).clamp ((alone secondForwards).contract
      .l1).lineClamp o) twoPoints) = some ({ pref := 0, point := 1 },
      { point := 1, voltage := 250, claimed := 20, least := 8 }) ∧
    ((alone (answering .forward .clamp 9 menuArrives)).contract .l1).decision = none ∧
    (alone (answering .forward .clamp 9 menuArrives)).LineSettled .l1 ∧
    (alone (answering .forward .clamp 9 menuArrives)).link.mode = .autonomous ∧
    (alone (answering .forward .clamp 9 menuArrives)).Arrives .l1 { tag := 2, body := FrameBody.menu true twoPoints }
      ∧ ((alone (answering .forward .clamp 9 menuArrives)).contract .l1).state = .awaitMenu ∧
    ((alone (answering .forward .clamp 9 menuArrives)).contract .l1).paused = false ∧
    ((alone (answering .forward .clamp 9 menuArrives)).pointAnswer .l1
      { kind := PointKind.fixed, v1 := 450, v2 := 450, limit := 30 } 0).action = .forward ∧
    (∀ (i : ℕ) (o : Point), i < 0 → twoPoints[i]? = some o → ((alone (answering .forward .clamp 9
      menuArrives)).pointAnswer .l1 o i).action ≠ .forward) ∧
    (alone (answering .forward .clamp 9 menuArrives)).firstClaim .l1 (List.map (fun o => markedBy ((alone (answering
      .forward .clamp 9 menuArrives)).pointAnswer .l1 { kind := PointKind.fixed, v1 := 450, v2 := 450, limit := 30 }
      0).fallback ((alone (answering .forward .clamp 9 menuArrives)).pointAnswer .l1
      { kind := PointKind.fixed, v1 := 450, v2 := 450, limit := 30 } 0).clamp ((alone (answering .forward .clamp 9
      menuArrives)).contract .l1).lineClamp o) twoPoints) = none ∧
    ((alone (answering .forward .wait 9 menuArrives)).contract .l1).decision = none ∧
    (alone (answering .forward .wait 9 menuArrives)).LineSettled .l1 ∧
    (alone (answering .forward .wait 9 menuArrives)).link.mode = .autonomous ∧
    (alone (answering .forward .wait 9 menuArrives)).Arrives .l1 { tag := 2, body := FrameBody.menu true twoPoints } ∧
    ((alone (answering .forward .wait 9 menuArrives)).contract .l1).state = .awaitMenu ∧
    ((alone (answering .forward .wait 9 menuArrives)).contract .l1).paused = false ∧
    ((alone (answering .forward .wait 9 menuArrives)).pointAnswer .l1
      { kind := PointKind.fixed, v1 := 450, v2 := 450, limit := 30 } 0).action = .forward ∧
    (∀ (i : ℕ) (o : Point), i < 0 → twoPoints[i]? = some o → ((alone (answering .forward .wait 9
      menuArrives)).pointAnswer .l1 o i).action ≠ .forward) ∧
    (alone (answering .forward .wait 9 menuArrives)).firstClaim .l1 (List.map (fun o => markedBy ((alone (answering
      .forward .wait 9 menuArrives)).pointAnswer .l1 { kind := PointKind.fixed, v1 := 450, v2 := 450, limit := 30 }
      0).fallback ((alone (answering .forward .wait 9 menuArrives)).pointAnswer .l1
      { kind := PointKind.fixed, v1 := 450, v2 := 450, limit := 30 } 0).clamp ((alone (answering .forward .wait 9
      menuArrives)).contract .l1).lineClamp o) twoPoints) = none ∧
    choiceSuperseded.Arrives .l1 { tag := 2, body := FrameBody.menu true twoPoints } ∧
    (choiceSuperseded.contract .l1).state = .choosing ∧
    (choiceSuperseded.contract .l1).decision = some
      { what := Forwarded.menu, tag := 1, arrival := 990, began := .awaitMenu } ∧ choiceSuperseded.LineSettled .l1 ∧
    (choiceSuperseded.contract .l1).paused = false ∧ (⟨.menu, 1, 990, .awaitMenu⟩ : Decision).began = .awaitMenu ∧
    choiceSuperseded.NoForward .l1 twoPoints ∧ choiceSuperseded.firstClaim .l1 (List.mapIdx (choiceSuperseded.markOf .l1) twoPoints) = some
      ({ pref := 0, point := 1 }, { point := 1, voltage := 250, claimed := 20, least := 8 }) ∧
    choiceHeld.Arrives .l1 { tag := 2, body := FrameBody.menu true twoPoints } ∧
    (choiceHeld.contract .l1).state = .choosing ∧
    (choiceHeld.contract .l1).decision = some { what := Forwarded.menu, tag := 1, arrival := 990, began := .active } ∧
    choiceHeld.LineSettled .l1 ∧ (choiceHeld.contract .l1).paused = false ∧
    (⟨.menu, 1, 990, .active⟩ : Decision).began = .active ∧
    (choiceHeld.contract .l1).options.holdAfterActive = true :=
  by
    and_intros <;> first
      | decide +kernel
      | exact noForward_of (by decide +kernel)
      | exact noForwardBefore_of (by decide +kernel)

theorem witness_UnfitClaimsAreTurnedDown :
  noMenu.Arrives .l1 { tag := 5, body := FrameBody.claim someClaim } ∧ (noMenu.contract .l1).decision = none ∧
    noMenu.LineSettled .l1 ∧ (noMenu.contract .l1).state = .offering ∧ (noMenu.contract .l1).offered = none ∧
    noMenuActive.Arrives .l1 { tag := 5, body := FrameBody.claim someClaim } ∧
    (noMenuActive.contract .l1).decision = none ∧ noMenuActive.LineSettled .l1 ∧
    (noMenuActive.contract .l1).state = .active ∧ (noMenuActive.contract .l1).role = .supply ∧
    (noMenuActive.contract .l1).offered = none ∧
    heldMenu.Arrives .l1 { tag := 5, body := FrameBody.claim someClaim } ∧ (heldMenu.contract .l1).decision = none ∧
    heldMenu.LineSettled .l1 ∧ (heldMenu.contract .l1).state = .offering ∧
    (heldMenu.contract .l1).offered = some (offeredOf [] true) ∧ (offeredOf [] true).held = true ∧
    otherMenu.Arrives .l1 { tag := 5, body := FrameBody.claim someClaim } ∧
    (otherMenu.contract .l1).decision = none ∧ otherMenu.LineSettled .l1 ∧
    (otherMenu.contract .l1).state = .offering ∧
    (otherMenu.contract .l1).offered = some (offeredOf
      [{ kind := PointKind.fixed, v1 := 250, v2 := 250, limit := 40 }] false) ∧
    (offeredOf [{ kind := PointKind.fixed, v1 := 250, v2 := 250, limit := 40 }] false).held = false ∧
    someClaim.fitsMenu (offeredOf [{ kind := PointKind.fixed, v1 := 250, v2 := 250, limit := 40 }] false).points =
      false ∧ busy.Arrives .l1 { tag := 5, body := FrameBody.claim someClaim } ∧
    (busy.contract .l1).decision = none ∧ busy.LineSettled .l1 ∧ (busy.contract .l1).state = .offering ∧
    (busy.contract .l1).offered = some (offeredOf [{ kind := PointKind.fixed, v1 := 450, v2 := 450, limit := 30 }]
      false) ∧ (offeredOf [{ kind := PointKind.fixed, v1 := 450, v2 := 450, limit := 30 }] false).held = false ∧
    someClaim.fitsMenu (offeredOf [{ kind := PointKind.fixed, v1 := 450, v2 := 450, limit := 30 }] false).points =
      true ∧
    (busy.link.stance.getLsbD 3 = true ∨ (busy.contract .l1).paused = true ∨ (busy.contract .l1).recallOut.isSome =
      true ∨ (busy.contract .l1).target.isSome = true) ∧
    recallingActive.Arrives .l1 { tag := 5, body := FrameBody.claim someClaim } ∧
    (recallingActive.contract .l1).decision = none ∧ recallingActive.LineSettled .l1 ∧
    (recallingActive.contract .l1).state = .active ∧ (recallingActive.contract .l1).role = .supply ∧
    (recallingActive.contract .l1).offered = some (offeredOf
      [{ kind := PointKind.fixed, v1 := 450, v2 := 450, limit := 30 }] false) ∧
    (recallingActive.link.stance.getLsbD 3 = true ∨ (recallingActive.contract .l1).paused = true ∨
      (recallingActive.contract .l1).recallOut.isSome = true ∨ (recallingActive.contract .l1).target.isSome = true) ∧
    claimPowering.Arrives .l1 { tag := 5, body := FrameBody.claim someClaim } ∧
    (claimPowering.contract .l1).decision = none ∧ claimPowering.LineSettled .l1 ∧
    (claimPowering.contract .l1).state = .powering ∧
    claimDrawing.Arrives .l1 { tag := 5, body := FrameBody.claim someClaim } ∧
    (claimDrawing.contract .l1).decision = none ∧ claimDrawing.LineSettled .l1 ∧
    (claimDrawing.contract .l1).role = .draw ∧ (claimDrawing.contract .l1).state ≠ .faulted :=
  by and_intros <;> decide +kernel

theorem witness_UnfitClaimsAreTurnedDown_2 :
  claimStray.Arrives .l1 { tag := 5, body := FrameBody.claim someClaim } ∧
    (claimStray.contract .l1).decision = none ∧ claimStray.LineSettled .l1 ∧
    (claimStray.contract .l1).state = .greeting ∧
    (deciding claimFrame).Arrives .l1 { tag := 5, body := FrameBody.claim someClaim } ∧
    ((deciding claimFrame).contract .l1).state = .deciding ∧
    ((deciding claimFrame).contract .l1).decision = some
      { what := Forwarded.claim someClaim, tag := 4, arrival := 990, began := .offering } ∧
    (⟨.menu, 1, 990, .offering⟩ : Decision).began = .offering ∧ (deciding claimFrame).LineSettled .l1 :=
  by decide +kernel

theorem witness_ClaimIsAdmittedByHeadroom :
  fits.Arrives .l1 { tag := 5, body := FrameBody.claim someClaim } ∧ (fits.contract .l1).state = .offering ∧
    (fits.contract .l1).decision = none ∧ (fits.contract .l1).offered = some oneOffered ∧ oneOffered.held = false ∧
    someClaim.fitsMenu oneOffered.points = true ∧ fits.link.stance.getLsbD 3 = false ∧
    (fits.contract .l1).paused = false ∧ (fits.contract .l1).recallOut = none ∧ (fits.contract .l1).target = none ∧
    fits.LineSettled .l1 ∧ fits.actionOf (claimed fits) = .auto ∧
    150 = capBy (fits.budget.supplyHeadroom + fits.budget.supplyCommit.get .l1) (fits.contract .l1).lineClamp ∧
    1 ≤ min someClaim.claimed (150 * 200 / someClaim.voltage) ∧
    someClaim.least ≤ min someClaim.claimed (150 * 200 / someClaim.voltage) ∧ (fits.engine .l1).accepts = true ∧
    fitsActive.Arrives .l1 { tag := 5, body := FrameBody.claim someClaim } ∧
    (fitsActive.contract .l1).state = .active ∧ (fitsActive.contract .l1).role = .supply ∧
    (fitsActive.contract .l1).decision = none ∧ (fitsActive.contract .l1).offered = some oneOffered ∧
    fitsActive.link.stance.getLsbD 3 = false ∧ (fitsActive.contract .l1).paused = false ∧
    (fitsActive.contract .l1).recallOut = none ∧ (fitsActive.contract .l1).target = none ∧
    fitsActive.LineSettled .l1 ∧ fitsActive.actionOf (claimed fitsActive) = .auto ∧
    150 = capBy (fitsActive.budget.supplyHeadroom + fitsActive.budget.supplyCommit.get .l1) (fitsActive.contract
      .l1).lineClamp ∧ (fitsActive.engine .l1).accepts = true ∧
    littleRoom.Arrives .l1 { tag := 5, body := FrameBody.claim someClaim } ∧
    (littleRoom.contract .l1).state = .offering ∧ (littleRoom.contract .l1).decision = none ∧
    (littleRoom.contract .l1).offered = some oneOffered ∧ littleRoom.link.stance.getLsbD 3 = false ∧
    (littleRoom.contract .l1).paused = false ∧ (littleRoom.contract .l1).recallOut = none ∧
    (littleRoom.contract .l1).target = none ∧ littleRoom.LineSettled .l1 ∧
    littleRoom.actionOf (claimed littleRoom) = .auto ∧
    22 = capBy (littleRoom.budget.supplyHeadroom + littleRoom.budget.supplyCommit.get .l1) (littleRoom.contract
      .l1).lineClamp ∧
    (min someClaim.claimed (22 * 200 / someClaim.voltage) < 1 ∨ min someClaim.claimed (22 * 200 / someClaim.voltage)
      < someClaim.least) ∧
    (answering .clamp .auto 23 fits).Arrives .l1 { tag := 5, body := FrameBody.claim someClaim } ∧
    ((answering .clamp .auto 23 fits).contract .l1).state = .offering ∧
    ((answering .clamp .auto 23 fits).contract .l1).decision = none ∧
    ((answering .clamp .auto 23 fits).contract .l1).offered = some oneOffered ∧
    (answering .clamp .auto 23 fits).link.stance.getLsbD 3 = false ∧
    ((answering .clamp .auto 23 fits).contract .l1).paused = false ∧
    ((answering .clamp .auto 23 fits).contract .l1).recallOut = none ∧
    ((answering .clamp .auto 23 fits).contract .l1).target = none ∧
    (answering .clamp .auto 23 fits).LineSettled .l1 ∧
    (answering .clamp .auto 23 fits).actionOf (claimed (answering .clamp .auto 23 fits)) = .clamp ∧
    23 = min (capBy ((answering .clamp .auto 23 fits).budget.supplyHeadroom + (answering .clamp .auto 23
      fits).budget.supplyCommit.get .l1) ((answering .clamp .auto 23 fits).contract .l1).lineClamp) ((answering
      .clamp .auto 23 fits).answerOf (claimed (answering .clamp .auto 23 fits))).clamp ∧
    1 ≤ min someClaim.claimed (23 * 200 / someClaim.voltage) ∧
    someClaim.least ≤ min someClaim.claimed (23 * 200 / someClaim.voltage) ∧
    ((answering .clamp .auto 23 fits).engine .l1).accepts = true :=
  by and_intros <;> decide +kernel

theorem witness_ClaimIsAdmittedByHeadroom_2 :
  (answering .clamp .auto 22 fitsActive).Arrives .l1 { tag := 5, body := FrameBody.claim someClaim } ∧
    ((answering .clamp .auto 22 fitsActive).contract .l1).state = .active ∧
    ((answering .clamp .auto 22 fitsActive).contract .l1).role = .supply ∧
    ((answering .clamp .auto 22 fitsActive).contract .l1).decision = none ∧
    ((answering .clamp .auto 22 fitsActive).contract .l1).offered = some oneOffered ∧
    (answering .clamp .auto 22 fitsActive).link.stance.getLsbD 3 = false ∧
    ((answering .clamp .auto 22 fitsActive).contract .l1).paused = false ∧
    ((answering .clamp .auto 22 fitsActive).contract .l1).recallOut = none ∧
    ((answering .clamp .auto 22 fitsActive).contract .l1).target = none ∧
    (answering .clamp .auto 22 fitsActive).LineSettled .l1 ∧
    (answering .clamp .auto 22 fitsActive).actionOf (claimed (answering .clamp .auto 22 fitsActive)) = .clamp ∧
    22 = min (capBy ((answering .clamp .auto 22 fitsActive).budget.supplyHeadroom + (answering .clamp .auto 22
      fitsActive).budget.supplyCommit.get .l1) ((answering .clamp .auto 22 fitsActive).contract .l1).lineClamp)
      ((answering .clamp .auto 22 fitsActive).answerOf (claimed (answering .clamp .auto 22 fitsActive))).clamp ∧
    (answering .clamp .auto 22 fits).Arrives .l1 { tag := 5, body := FrameBody.claim someClaim } ∧
    ((answering .clamp .auto 22 fits).contract .l1).state = .offering ∧
    ((answering .clamp .auto 22 fits).contract .l1).decision = none ∧
    ((answering .clamp .auto 22 fits).contract .l1).offered = some oneOffered ∧
    (answering .clamp .auto 22 fits).link.stance.getLsbD 3 = false ∧
    ((answering .clamp .auto 22 fits).contract .l1).paused = false ∧
    ((answering .clamp .auto 22 fits).contract .l1).recallOut = none ∧
    ((answering .clamp .auto 22 fits).contract .l1).target = none ∧
    (answering .clamp .auto 22 fits).LineSettled .l1 ∧
    (answering .clamp .auto 22 fits).actionOf (claimed (answering .clamp .auto 22 fits)) = .clamp ∧
    22 = min (capBy ((answering .clamp .auto 22 fits).budget.supplyHeadroom + (answering .clamp .auto 22
      fits).budget.supplyCommit.get .l1) ((answering .clamp .auto 22 fits).contract .l1).lineClamp) ((answering
      .clamp .auto 22 fits).answerOf (claimed (answering .clamp .auto 22 fits))).clamp ∧
    (alone (answering .forward .clamp 23 fits)).Arrives .l1 { tag := 5, body := FrameBody.claim someClaim } ∧
    ((alone (answering .forward .clamp 23 fits)).contract .l1).state = .offering ∧
    ((alone (answering .forward .clamp 23 fits)).contract .l1).decision = none ∧
    ((alone (answering .forward .clamp 23 fits)).contract .l1).offered = some oneOffered ∧
    (alone (answering .forward .clamp 23 fits)).link.stance.getLsbD 3 = false ∧
    ((alone (answering .forward .clamp 23 fits)).contract .l1).paused = false ∧
    ((alone (answering .forward .clamp 23 fits)).contract .l1).recallOut = none ∧
    ((alone (answering .forward .clamp 23 fits)).contract .l1).target = none ∧
    (alone (answering .forward .clamp 23 fits)).LineSettled .l1 ∧
    (alone (answering .forward .clamp 23 fits)).actionOf (claimed (alone (answering .forward .clamp 23 fits))) =
      .clamp ∧
    23 = min (capBy ((alone (answering .forward .clamp 23 fits)).budget.supplyHeadroom + (alone (answering .forward
      .clamp 23 fits)).budget.supplyCommit.get .l1) ((alone (answering .forward .clamp 23 fits)).contract
      .l1).lineClamp) ((alone (answering .forward .clamp 23 fits)).answerOf (claimed (alone (answering .forward
      .clamp 23 fits)))).clamp ∧ ((alone (answering .forward .clamp 23 fits)).engine .l1).accepts = true ∧
    (answering .refuse .auto 0 fits).Arrives .l1 { tag := 5, body := FrameBody.claim someClaim } ∧
    ((answering .refuse .auto 0 fits).contract .l1).state = .offering ∧
    ((answering .refuse .auto 0 fits).contract .l1).decision = none ∧
    ((answering .refuse .auto 0 fits).contract .l1).offered = some oneOffered ∧
    (answering .refuse .auto 0 fits).link.stance.getLsbD 3 = false ∧
    ((answering .refuse .auto 0 fits).contract .l1).paused = false ∧
    ((answering .refuse .auto 0 fits).contract .l1).recallOut = none ∧
    ((answering .refuse .auto 0 fits).contract .l1).target = none ∧
    (answering .refuse .auto 0 fits).LineSettled .l1 ∧
    (answering .refuse .auto 0 fits).actionOf (claimed (answering .refuse .auto 0 fits)) = .refuse :=
  by and_intros <;> decide +kernel

theorem witness_ClaimIsAdmittedByHeadroom_3 :
  (answering .wait .auto 0 fits).Arrives .l1 { tag := 5, body := FrameBody.claim someClaim } ∧
    ((answering .wait .auto 0 fits).contract .l1).state = .offering ∧
    ((answering .wait .auto 0 fits).contract .l1).decision = none ∧
    ((answering .wait .auto 0 fits).contract .l1).offered = some oneOffered ∧
    (answering .wait .auto 0 fits).link.stance.getLsbD 3 = false ∧
    ((answering .wait .auto 0 fits).contract .l1).paused = false ∧
    ((answering .wait .auto 0 fits).contract .l1).recallOut = none ∧
    ((answering .wait .auto 0 fits).contract .l1).target = none ∧ (answering .wait .auto 0 fits).LineSettled .l1 ∧
    (answering .wait .auto 0 fits).actionOf (claimed (answering .wait .auto 0 fits)) = .wait :=
  by decide +kernel

theorem witness_GrantIsTakenOrRefused :
  granted8.Arrives .l1 { tag := 3, body := FrameBody.grant 8 20 } ∧ (granted8.contract .l1).state = .claiming ∧
    (granted8.contract .l1).claim = some outClaim ∧
    (granted8.contract .l1).exchange = some (exchangeOf .claim 0 (some due) (some 975)) ∧
    (exchangeOf .claim 0 (some due) (some 975)).kind = .claim ∧ (exchangeOf .claim 0 (some due) (some 975)).tag = 3 ∧
    granted8.LineSettled .l1 ∧ outClaim.fields.least ≤ 8 ∧ 8 ≤ outClaim.fields.claimed ∧
    granted20.Arrives .l1 { tag := 3, body := FrameBody.grant 20 20 } ∧ (granted20.contract .l1).state = .claiming ∧
    (granted20.contract .l1).claim = some outClaim ∧
    (granted20.contract .l1).exchange = some (exchangeOf .claim 0 (some due) (some 975)) ∧
    granted20.LineSettled .l1 ∧ outClaim.fields.least ≤ 20 ∧ 20 ≤ outClaim.fields.claimed ∧
    granted7.Arrives .l1 { tag := 3, body := FrameBody.grant 7 20 } ∧ (granted7.contract .l1).state = .claiming ∧
    (granted7.contract .l1).claim = some outClaim ∧
    (granted7.contract .l1).exchange = some (exchangeOf .claim 0 (some due) (some 975)) ∧ granted7.LineSettled .l1 ∧
    (7 < outClaim.fields.least ∨ outClaim.fields.claimed < 7) ∧ (granted7.engine .l1).accepts = true ∧
    granted21.Arrives .l1 { tag := 3, body := FrameBody.grant 21 20 } ∧ (granted21.contract .l1).state = .claiming ∧
    (granted21.contract .l1).claim = some outClaim ∧
    (granted21.contract .l1).exchange = some (exchangeOf .claim 0 (some due) (some 975)) ∧
    granted21.LineSettled .l1 ∧ (21 < outClaim.fields.least ∨ outClaim.fields.claimed < 21) ∧
    (granted21.engine .l1).accepts = true :=
  by decide +kernel

theorem witness_DenyAndWaitMoveTheCursor :
  (deniedFirst.contract .l1).state = .claiming ∧ (deniedFirst.contract .l1).claim = some outClaim ∧
    (deniedFirst.contract .l1).fits .claim 3 = true ∧ deniedFirst.LineSettled .l1 ∧
    deniedFirst.Arrives .l1 { tag := 3, body := FrameBody.deny DenyReason.policy } ∧
    (denied.contract .l1).state = .claiming ∧ (denied.contract .l1).claim = some outClaim ∧
    (denied.contract .l1).fits .claim 3 = true ∧ denied.LineSettled .l1 ∧
    denied.Arrives .l1 { tag := 3, body := FrameBody.deny DenyReason.policy } ∧
    (toldToWait.contract .l1).state = .claiming ∧ (toldToWait.contract .l1).claim = some outClaim ∧
    (toldToWait.contract .l1).fits .claim 3 = true ∧ toldToWait.LineSettled .l1 ∧
    toldToWait.Arrives .l1 { tag := 3, body := FrameBody.wait 50 } ∧ (toldToWait.contract .l1).waitStreak < 2 ∧
    (toldToWaitAgain.contract .l1).state = .claiming ∧ (toldToWaitAgain.contract .l1).claim = some outClaim ∧
    (toldToWaitAgain.contract .l1).fits .claim 3 = true ∧ toldToWaitAgain.LineSettled .l1 ∧
    toldToWaitAgain.Arrives .l1 { tag := 3, body := FrameBody.wait 50 } ∧
    2 ≤ (toldToWaitAgain.contract .l1).waitStreak :=
  by decide +kernel

theorem witness_AnswersAreTakenInPlace :
  readyArrives.LineSettled .l1 ∧ readyArrives.Arrives .l1 { tag := 3, body := FrameBody.ready 250 20 } ∧
    (readyArrives.contract .l1).fits .claimGranted 3 = true ∧ (astray (FrameBody.ready 250 20)).LineSettled .l1 ∧
    (astray (FrameBody.ready 250 20)).Arrives .l1 { tag := 3, body := FrameBody.ready 250 20 } ∧
    ((astray (FrameBody.ready 250 20)).contract .l1).fits .claimGranted 3 = false ∧ keepArrives.LineSettled .l1 ∧
    keepArrives.Arrives .l1 { tag := 3, body := FrameBody.keep 0 } ∧
    (keepArrives.contract .l1).fits .renew 3 = true ∧ (keepArrives.contract .l1).state = .active ∧
    (keepArrives.contract .l1).agreement = some agreed20 ∧ keepLate.LineSettled .l1 ∧
    keepLate.Arrives .l1 { tag := 3, body := FrameBody.keep 0 } ∧ (keepLate.contract .l1).fits .renew 3 = true ∧
    (keepLate.contract .l1).state ≠ .active ∧ (astray (FrameBody.keep 0)).LineSettled .l1 ∧
    (astray (FrameBody.keep 0)).Arrives .l1 { tag := 3, body := FrameBody.keep 0 } ∧
    ((astray (FrameBody.keep 0)).contract .l1).fits .renew 3 = false ∧ renewArrives.LineSettled .l1 ∧
    renewArrives.Arrives .l1 { tag := 3, body := FrameBody.renew 18 } ∧ (renewArrives.contract .l1).state = .active ∧
    (renewArrives.contract .l1).role = .supply ∧ (renewArrives.contract .l1).agreement = some agreed20 ∧
    renewPowering.LineSettled .l1 ∧ renewPowering.Arrives .l1 { tag := 3, body := FrameBody.renew 18 } ∧
    (renewPowering.contract .l1).state = .powering ∧ (astray (FrameBody.renew 18)).LineSettled .l1 ∧
    (astray (FrameBody.renew 18)).Arrives .l1 { tag := 3, body := FrameBody.renew 18 } ∧
    (¬(((astray (FrameBody.renew 18)).contract .l1).state = .active ∧ ((astray (FrameBody.renew 18)).contract
      .l1).role = .supply ∨ ((astray (FrameBody.renew 18)).contract .l1).state = .powering)) ∧
    statusArrives.LineSettled .l1 ∧
    statusArrives.Arrives .l1 { tag := 3, body := FrameBody.status 0 .none .detached 0 0 } ∧
    (astray (FrameBody.grant 20 20)).LineSettled .l1 ∧
    ((astray (FrameBody.grant 20 20)).contract .l1).fits .claim 3 = false ∧
    (astray (FrameBody.grant 20 20)).Arrives .l1 { tag := 3, body := FrameBody.grant 20 20 } ∧
    (astray (FrameBody.deny DenyReason.policy)).LineSettled .l1 ∧
    ((astray (FrameBody.deny DenyReason.policy)).contract .l1).fits .claim 3 = false ∧
    (astray (FrameBody.deny DenyReason.policy)).Arrives .l1 { tag := 3, body := FrameBody.deny DenyReason.policy } ∧
    (astray (FrameBody.wait 50)).LineSettled .l1 ∧
    ((astray (FrameBody.wait 50)).contract .l1).fits .claim 3 = false ∧
    (astray (FrameBody.wait 50)).Arrives .l1 { tag := 3, body := FrameBody.wait 50 } ∧
    (astray (FrameBody.yield 20)).LineSettled .l1 ∧
    ((astray (FrameBody.yield 20)).contract .l1).fits .recall 3 = false ∧
    (astray (FrameBody.yield 20)).Arrives .l1 { tag := 3, body := FrameBody.yield 20 } ∧
    (astray (FrameBody.menu true [{ kind := PointKind.fixed, v1 := 250, v2 := 250, limit := 40 }])).LineSettled .l1 ∧
    (¬(((astray (FrameBody.menu true [{ kind := PointKind.fixed, v1 := 250, v2 := 250, limit := 40 }])).contract
      .l1).role = .draw ∧ ((astray (FrameBody.menu true
      [{ kind := PointKind.fixed, v1 := 250, v2 := 250, limit := 40 }])).contract .l1).state ≠ .faulted)) ∧
    ((astray (FrameBody.menu true [{ kind := PointKind.fixed, v1 := 250, v2 := 250, limit := 40 }])).contract
      .l1).decision = none ∧
    (astray (FrameBody.menu true [{ kind := PointKind.fixed, v1 := 250, v2 := 250, limit := 40 }])).Arrives .l1
      { tag := 3, body := FrameBody.menu true [{ kind := PointKind.fixed, v1 := 250, v2 := 250, limit := 40 }] } :=
  by and_intros <;> decide +kernel

theorem witness_AnswersAreTakenInPlace_2 :
  (astray (FrameBody.recall 10 1)).LineSettled .l1 ∧
    (¬(((astray (FrameBody.recall 10 1)).contract .l1).role = .draw ∧ ((astray (FrameBody.recall 10 1)).contract
      .l1).state ≠ .faulted)) ∧
    (astray (FrameBody.recall 10 1)).Arrives .l1 { tag := 3, body := FrameBody.recall 10 1 } :=
  by decide +kernel

theorem witness_StatusCarriesTheStance :
  statusAsked.Arrives .l1 { tag := 7, body := FrameBody.statusQ } ∧ statusAsked.LineSettled .l1 ∧
    manual.link.manualStance = true ∧ statusAsked.link.manualStance = false :=
  by decide +kernel

theorem witness_RecallIsHonoured :
  recallEarly.Arrives .l1 { tag := 4, body := FrameBody.recall 10 100 } ∧ recallEarly.LineSettled .l1 ∧
    ((recallEarly.contract .l1).state = .awaitMenu ∨ (recallEarly.contract .l1).state = .choosing ∨
      (recallEarly.contract .l1).state = .claiming ∨ (recallEarly.contract .l1).state = .backoff ∨
      (recallEarly.contract .l1).state = .baseline) ∧
    recallActive.Arrives .l1 { tag := 4, body := FrameBody.recall 10 1 } ∧ recallActive.LineSettled .l1 ∧
    (recallActive.contract .l1).agreement = some agreed20 ∧ (recallActive.contract .l1).claim = none ∧
    (recallActive.contract .l1).state = .active ∧ (recallActive.contract .l1).role = .draw ∧
    recallSwitching.Arrives .l1 { tag := 4, body := FrameBody.recall 10 1 } ∧ recallSwitching.LineSettled .l1 ∧
    (recallSwitching.contract .l1).agreement = some agreed20 ∧ (recallSwitching.contract .l1).claim = none ∧
    (recallSwitching.contract .l1).state = .switching :=
  by decide +kernel

theorem witness_FarEndingEndsTheContract :
  endsFinal.Arrives .l1 { tag := 4, body := FrameBody.ending EndReason.final } ∧ endsFinal.LineSettled .l1 ∧
    (endsFinal.contract .l1).state.contracted = true ∧ EndReason.final = EndReason.final ∧
    endsNormal.Arrives .l1 { tag := 4, body := FrameBody.ending EndReason.normal } ∧ endsNormal.LineSettled .l1 ∧
    (endsNormal.contract .l1).state.contracted = true ∧ EndReason.normal ≠ EndReason.final ∧
    endsGreeting.Arrives .l1 { tag := 4, body := FrameBody.ending EndReason.normal } ∧ endsGreeting.LineSettled .l1 ∧
    (endsGreeting.contract .l1).state = .greeting ∧
    endsGreetingFinal.Arrives .l1 { tag := 4, body := FrameBody.ending EndReason.final } ∧
    endsGreetingFinal.LineSettled .l1 ∧ (endsGreetingFinal.contract .l1).state = .greeting ∧
    endsFaulted.Arrives .l1 { tag := 4, body := FrameBody.ending EndReason.normal } ∧ endsFaulted.LineSettled .l1 ∧
    (endsFaulted.contract .l1).state = .faulted :=
  by decide +kernel

theorem witness_LegalFramesAreReadBack :
  (⟨1, .announce .both true true 0xFFFFFFFF 255⟩ : Frame).Legal ∧
    (⟨7, .menu true [⟨.fixed, 200, 200, 320⟩, ⟨.window, 200, 1300, 2500⟩, ⟨.fixed, 1300, 1300, 0⟩, ⟨.fixed, 250, 250, 1⟩,
      ⟨.fixed, 250, 250, 2⟩, ⟨.window, 1299, 1300, 0⟩]⟩ : Frame).Legal ∧
    (⟨0, .claim ⟨5, 1300, 320, 320⟩⟩ : Frame).Legal ∧ (⟨3, .grant 320 120⟩ : Frame).Legal ∧
    (⟨3, .deny .noMenu⟩ : Frame).Legal ∧ (⟨3, .wait 255⟩ : Frame).Legal ∧ (⟨3, .ready 1300 320⟩ : Frame).Legal ∧
    (⟨3, .renew 320⟩ : Frame).Legal ∧ (⟨3, .keep 0xFFFF⟩ : Frame).Legal ∧ (⟨3, .recall 320 100⟩ : Frame).Legal ∧
    (⟨3, .yield 320⟩ : Frame).Legal ∧ (⟨3, .statusQ⟩ : Frame).Legal ∧
    (⟨3, .status 0xFFFF .supply .powering 0 320⟩ : Frame).Legal ∧ (⟨3, .ending .role⟩ : Frame).Legal :=
  by and_intros <;> decide +kernel

theorem witness_LinkFramesComeAndGo :
  [7, 1].length ≤ 60 ∧
    (crc [225, 2, 7, 1] = crc [225, 2, 7, 1] ∧ ¬(4 ≤ (225 : Byte).toNat / 32 ∧ (225 : Byte).toNat / 32 ≤ 6) ∧ ((225 :
      Byte).toNat % 32 = 1 ∧ 2 ≤ [7, 1].length ∨ (225 : Byte).toNat % 32 = 2 ∧ [7, 1].length = 5)) ∧
    (¬(0 = crc [225, 2, 7, 1] ∧ ¬(4 ≤ (225 : Byte).toNat / 32 ∧ (225 : Byte).toNat / 32 ≤ 6) ∧ ((225 : Byte).toNat %
      32 = 1 ∧ 2 ≤ [7, 1].length ∨ (225 : Byte).toNat % 32 = 2 ∧ [7, 1].length = 5))) ∧
    (¬(crc [129, 2, 7, 1] = crc [129, 2, 7, 1] ∧ ¬(4 ≤ (129 : Byte).toNat / 32 ∧ (129 : Byte).toNat / 32 ≤ 6) ∧ ((129
      : Byte).toNat % 32 = 1 ∧ 2 ≤ [7, 1].length ∨ (129 : Byte).toNat % 32 = 2 ∧ [7, 1].length = 5))) ∧
    [7, 1, 2, 3].length ≤ 60 ∧
    (¬(crc [34, 4, 7, 1, 2, 3] = crc [34, 4, 7, 1, 2, 3] ∧ ¬(4 ≤ (34 : Byte).toNat / 32 ∧ (34 : Byte).toNat / 32 ≤ 6)
      ∧ ((34 : Byte).toNat % 32 = 1 ∧ 2 ≤ [7, 1, 2, 3].length ∨ (34 : Byte).toNat % 32 = 2 ∧ [7, 1, 2, 3].length =
      5))) ∧ 60 < BitVec.toNat (linkChar 61).data ∧ (∀ d ∈ [linkChar 225], d.bad = false) ∧ parityBad.bad = true ∧
    [linkChar 225].length < 2 ∧ (∀ d ∈ [linkChar 225, linkChar 1], d.bad = false) ∧ stopBad.bad = true ∧
    [linkChar 225, linkChar 1][1]? = some (linkChar 1) ∧ BitVec.toNat (linkChar 1).data ≤ 60 ∧
    [linkChar 225, linkChar 1].length < BitVec.toNat (linkChar 1).data + 2 ∧
    (∀ d ∈ [linkChar 225, linkChar 1, linkChar 9], d.bad = false) ∧
    [linkChar 225, linkChar 1, linkChar 9][1]? = some (linkChar 1) ∧
    [linkChar 225, linkChar 1, linkChar 9].length = BitVec.toNat (linkChar 1).data + 2 ∧
    linkIdle.link.receiver = .idle ∧ base.link.receiver = .receiving ∧
    judgeLink ([linkChar 225] ++ [linkChar 61]) = some false ∧
    judgeLink (List.map linkChar [225, 2, 1, 1] ++ [linkChar 0]) = some true ∧ linkSkips.link.receiver = .skipping ∧
    answers.link.stx = none ∧ answers.link.responses = [okResponse] ∧ relays.link.stx = none ∧
    relays.link.responses = [] ∧ relays.link.verdicts = [olderEntry] ++ [entryOf [[9]]] ∧
    (∀ u ∈ [olderEntry], u.relays = []) ∧ (entryOf [[9]]).relays = [[9]] ∧ tells.link.stx = none ∧
    tells.link.responses = [] ∧ (∀ u ∈ tells.link.verdicts, u.relays = []) ∧ tells.link.mode = .running ∧
    tells.link.notices = [attachNotice] ∧ base.link.stx = none ∧ base.link.responses = [] ∧
    (∀ u ∈ base.link.verdicts, u.relays = []) ∧ (base.link.mode = .autonomous ∨ base.link.notices = []) ∧
    sendsFrame.link.stx.isSome = true :=
  by and_intros <;> decide +kernel

theorem witness_BadRequestsAreRefused :
  base.Takes ∧ 5 ∉ requestCodes ∧ actionAssigned [0, 0, 0] = false ∧ actionAssigned [9, 0, 0] = false ∧
    (Addr.line .l1 ≠ Addr.device ∨ ([] : List Byte).length ≠ 0) ∧ (Addr.device ≠ Addr.device ∨ [1].length ≠ 0) ∧
    (Addr.device ≠ Addr.device ∨ ([] : List Byte).length ≠ 1) ∧ (Addr.device ≠ Addr.device ∨ [1].length ≠ 2) ∧
    (Addr.line .l1 ≠ Addr.device ∨ [1, 2, 3].length ≠ 3) ∧
    (Addr.device ≠ Addr.device ∨ ([] : List Byte).length ≠ 5) ∧
    (Addr.device ≠ Addr.device ∨ ([] : List Byte).length ≠ 9) ∧
    (Addr.device ≠ Addr.device ∨ ([] : List Byte).length ≠ 10) ∧
    (Addr.device ≠ Addr.device ∨ ([] : List Byte).length ≠ 25) ∧
    (Addr.device = Addr.device ∨ ([] : List Byte).length ≠ 0) ∧
    (Addr.line .l1 = Addr.device ∨ ([] : List Byte).length ≠ 1) ∧
    (Addr.line .l1 = Addr.device ∨ ([] : List Byte).length ≠ 7) ∧ (Addr.line .l1 = Addr.device ∨ [1].length ≠ 2) ∧
    full.link.receiver = .receiving ∧ (Instr.identify (toLine [])).asks = true ∧
    (Instr.identify (toLine [])).wellFormed = true ∧ 4 ≤ full.link.responses.length ∧
    (Instr.endLine (toLine [0, 0])).asks = true ∧ (Instr.endLine (toLine [0, 0])).wellFormed = true ∧
    (Instr.requestUnassigned 5 (toDevice [])).asks = true ∧
    (Instr.requestUnassigned 5 (toDevice [])).wellFormed = true ∧
    (Instr.lineCtrlUnassigned (toLine [9, 0, 0])).asks = true ∧
    (Instr.lineCtrlUnassigned (toLine [9, 0, 0])).wellFormed = true ∧
    (Instr.verdictUnassigned 6 deviceVerdict).asks = true ∧
    (Instr.verdictUnassigned 6 deviceVerdict).wellFormed = true ∧ (Instr.verdictGrant lineVerdict).asks = true ∧
    (Instr.verdictGrant lineVerdict).wellFormed = true :=
  by decide +kernel

theorem witness_EntriesHaveTheirLayouts :
  (136 :: 242 :: 252 :: List.drop 3 ruleChars).length = 24 ∧ (255 :: prefChars.tail).length = 9 ∧
    (254 :: supplyChars.tail).length = 8 ∧ (optionChars 248).length = 7 ∧ (budgetChars 200 80).length = 5 ∧
    parseBudget (budgetChars 200 80) = some (200, 80, [.l0, .l1, .l2, .l3]) :=
  by decide +kernel

theorem witness_ReadsAreAnswered :
  attachedNow.Takes :=
  by decide +kernel

theorem witness_WritesAreStored :
  base.Takes ∧ ruleChars.length = 24 ∧ parseRule ruleChars = some ruleStored ∧ (0 :: ruleChars.tail).length = 24 ∧
    parseRule (0 :: ruleChars.tail) = some ruleDisabled ∧ (132 :: ruleChars.tail).length = 24 ∧
    parseRule (132 :: ruleChars.tail) = none ∧ prefChars.length = 9 ∧
    parsePref prefChars = some { enabled := true, vMin := 200, vMax := 1300, wanted := 2500, least := 1 } ∧
    (1 :: 0 :: 199 :: List.drop 3 prefChars).length = 9 ∧ parsePref (1 :: 0 :: 199 :: List.drop 3 prefChars) = none ∧
    supplyChars.length = 8 ∧
    parseSupply supplyChars = some
      { enabled := true, point := { kind := PointKind.fixed, v1 := 250, v2 := 250, limit := 120 } } ∧
    (∀ (l : Line), (base.contract l).awaitsRise = false) ∧ (List.take 7 supplyChars ++ [121]).length = 8 ∧
    parseSupply (List.take 7 supplyChars ++ [121]) = none ∧ captured.Takes ∧
    (captured.captures.get .l1).held = true ∧ (base.captures.get .l1).held = false ∧ heldAnew.Takes ∧
    { enabled := true, point := { kind := PointKind.fixed, v1 := 250, v2 := 250, limit := 120 } } ≠
      heldAnew.menu[(3 : Byte).toNat] ∧ heldAnew.budget.RankOk ∧ (heldAnew.contract .l1).awaitsRise = true :=
  by and_intros <;> first | decide +kernel | (intro l; cases l <;> decide +kernel)

theorem witness_ResetPartResetsTheBlocks :
  worksAutonomously.Takes ∧ answers.Takes :=
  by decide +kernel

theorem witness_QuietAndRestartEmptyTheVerdictQueue :
  noticed.Takes ∧ noticed.link.verdicts = [] ∧ noticed.link.wakeRests ∧ base.Takes ∧
    worksAutonomously.link.verdicts = [] :=
  by decide +kernel

theorem witness_BudgetClearShowsWhatStillHolds :
  overspent.Takes ∧ overspent.budget.SumsOk ∧ base.Takes ∧ base.budget.SumsOk :=
  by decide +kernel

theorem witness_BudgetSetStoresAndRecalls :
  base.Takes ∧ [9, 197, 0, 0, 27].length = 5 ∧ parseBudget [9, 197, 0, 0, 27] = none ∧ supplies.Takes ∧
    (budgetChars 200 150).length = 5 ∧ parseBudget (budgetChars 200 150) = some (200, 150, [.l0, .l1, .l2, .l3]) ∧
    supplies.budget.SumsOk ∧ supplies.budget.committedSupply ≤ 150 ∧
    150 - supplies.budget.committedSupply ≤ supplies.budget.supplyHeadroom ∧ 200 ≤ supplies.budget.inputCeiling ∧
    heldAnew.Takes ∧ [0, 200, 0, 151, 27].length = 5 ∧
    parseBudget [0, 200, 0, 151, 27] = some (200, 151, [.l0, .l1, .l2, .l3]) ∧ heldAnew.budget.SumsOk ∧
    heldAnew.budget.supplyHeadroom < 151 - heldAnew.budget.committedSupply ∧ 200 ≤ heldAnew.budget.inputCeiling ∧
    (heldAnew.contract .l1).awaitsRise = true :=
  by and_intros <;> decide +kernel

theorem witness_BudgetSetStoresAndRecalls_2 :
  reselects.Takes ∧ [9, 196, 0, 150, 27].length = 5 ∧
    parseBudget [9, 196, 0, 150, 27] = some (2500, 150, [.l0, .l1, .l2, .l3]) ∧ reselects.budget.SumsOk ∧
    reselects.budget.inputCeiling < 2500 ∧ (∀ (o : Line), o ≠ .l1 → (reselects.contract o).state ≠ .baseline) ∧
    (reselects.contract .l1).state = .baseline ∧ (reselects.contract .l1).farMenu = some (farMenuOf [struckPoint]) ∧
    (reselects.contract .l1).paused = false ∧ reselects.LineSettled .l1 ∧ reselects.NoForward .l1 (List.map FarPoint.point (farMenuOf [struckPoint]).points) :=
  by and_intros <;> first | decide +kernel | exact noForward_of (by decide +kernel) | (intro l; cases l <;> decide +kernel)

theorem witness_LineSetStoresTheOptions :
  supplies.Takes ∧ [4, 120, 20, 48, 0, 0, 5].length = 7 ∧ parseOptions [4, 120, 20, 48, 0, 0, 5] = none ∧
    drawOnly.Takes ∧ (optionChars 32).length = 7 ∧
    parseOptions (optionChars 32) = some (optionsOf { draw := false, supply := true }) ∧
    (optionsOf { draw := false, supply := true }).roles.within (drawOnly.straps.get .l1).roles = false ∧
    (optionChars 48).length = 7 ∧ parseOptions (optionChars 48) = some (optionsOf { draw := true, supply := true }) ∧
    (optionsOf { draw := true, supply := true }).roles.within (supplies.straps.get .l1).roles = true ∧
    supplies.LineSettled .l1 ∧
    ((supplies.contract .l1).role = .draw → (optionsOf { draw := true, supply := true }).roles.draw = true) ∧
    ((supplies.contract .l1).role = .supply → (optionsOf { draw := true, supply := true }).roles.supply = true) ∧
    (optionsOf { draw := true, supply := true }).baseline = (supplies.contract .l1).options.baseline ∧
    (otherBase 20 50).length = 7 ∧ parseOptions (otherBase 20 50) = some (optionsFor 20 .endAtCap) ∧
    (optionsFor 20 .endAtCap).roles.within (supplies.straps.get .l1).roles = true ∧
    ((supplies.contract .l1).role = .draw → (optionsFor 20 .endAtCap).roles.draw = true) ∧
    ((supplies.contract .l1).role = .supply → (optionsFor 20 .endAtCap).roles.supply = true) ∧
    (optionsFor 20 .endAtCap).baseline = (supplies.contract .l1).options.baseline ∧ (otherBase 60 50).length = 7 ∧
    parseOptions (otherBase 60 50) = some (optionsFor 60 .endAtCap) ∧
    (optionsFor 60 .endAtCap).roles.within (supplies.straps.get .l1).roles = true ∧
    ((supplies.contract .l1).role = .draw → (optionsFor 60 .endAtCap).roles.draw = true) ∧
    ((supplies.contract .l1).role = .supply → (optionsFor 60 .endAtCap).roles.supply = true) ∧
    (optionsFor 60 .endAtCap).baseline ≠ (supplies.contract .l1).options.baseline ∧ setsWaiting.Takes ∧
    (otherBase 4 48).length = 7 ∧ parseOptions (otherBase 4 48) = some (optionsFor 4 .uncapped) ∧
    (optionsFor 4 .uncapped).roles.within (setsWaiting.straps.get .l1).roles = true ∧ setsWaiting.LineSettled .l1 ∧
    ((setsWaiting.contract .l1).role = .draw → (optionsFor 4 .uncapped).roles.draw = true) ∧
    ((setsWaiting.contract .l1).role = .supply → (optionsFor 4 .uncapped).roles.supply = true) ∧
    (optionsFor 4 .uncapped).baseline ≠ (setsWaiting.contract .l1).options.baseline ∧ setsSwitching.Takes ∧
    (optionsFor 4 .uncapped).roles.within (setsSwitching.straps.get .l1).roles = true ∧
    setsSwitching.LineSettled .l1 ∧
    ((setsSwitching.contract .l1).role = .draw → (optionsFor 4 .uncapped).roles.draw = true) ∧
    ((setsSwitching.contract .l1).role = .supply → (optionsFor 4 .uncapped).roles.supply = true) ∧
    (optionsFor 4 .uncapped).baseline ≠ (setsSwitching.contract .l1).options.baseline ∧ setsOffering.Takes ∧
    (optionsFor 4 .uncapped).roles.within (setsOffering.straps.get .l1).roles = true ∧ setsOffering.LineSettled .l1 ∧
    ((setsOffering.contract .l1).role = .draw → (optionsFor 4 .uncapped).roles.draw = true) ∧
    ((setsOffering.contract .l1).role = .supply → (optionsFor 4 .uncapped).roles.supply = true) ∧
    (optionsFor 4 .uncapped).baseline ≠ (setsOffering.contract .l1).options.baseline :=
  by and_intros <;> decide +kernel

theorem witness_LineSetStoresTheOptions_2 :
  mayChoose.Takes ∧ (optionsFor 4 .uncapped).roles.within (mayChoose.straps.get .l1).roles = true ∧
    mayChoose.LineSettled .l1 ∧
    ((mayChoose.contract .l1).role = .draw → (optionsFor 4 .uncapped).roles.draw = true) ∧
    ((mayChoose.contract .l1).role = .supply → (optionsFor 4 .uncapped).roles.supply = true) ∧
    (optionsFor 4 .uncapped).baseline ≠ (mayChoose.contract .l1).options.baseline ∧ (optionChars 16).length = 7 ∧
    parseOptions (optionChars 16) = some (optionsOf { draw := true, supply := false }) ∧
    (optionsOf { draw := true, supply := false }).roles.within (supplies.straps.get .l1).roles = true ∧
    (supplies.contract .l1).state.contracted = true ∧
    ((supplies.contract .l1).role = .supply ∧ (optionsOf { draw := true, supply := false }).roles.supply = false) ∧
    (supplies.engine .l1).accepts = true :=
  by decide +kernel

theorem witness_LineControlsAct :
  base.Takes ∧ (base.contract .l1).state = .detached ∧ drawing.Takes ∧ (drawing.contract .l1).state ≠ .detached ∧
    (drawing.contract .l1).paused = false ∧ pausedLine.Takes ∧ (pausedLine.contract .l1).state ≠ .detached ∧
    (pausedLine.contract .l1).paused = true ∧ (pausedLine.contract .l1).deferred = false ∧ releasesSwitching.Takes ∧
    (releasesSwitching.contract .l1).state ≠ .detached ∧ (releasesSwitching.contract .l1).paused = true ∧
    (releasesSwitching.contract .l1).state = .switching ∧ releases.Takes ∧
    (releases.contract .l1).state ≠ .detached ∧ (releases.contract .l1).paused = true ∧
    (releases.contract .l1).deferred = true ∧ (releases.contract .l1).role = .draw ∧
    (releases.contract .l1).state ≠ .switching ∧ (releases.contract .l1).state ≠ .choosing ∧
    (releases.contract .l1).farMenu = some (farMenuOf [struckPoint]) ∧
    releases.NoForward .l1 (List.map FarPoint.point (farMenuOf [struckPoint]).points) ∧ releases.LineSettled .l1 ∧ mutesSlow.Takes ∧
    (∀ (x : Exchange), (mutesSlow.contract .l1).exchange = some x → ∀ f ∈ (mutesSlow.engine .l1).txQueue, f.id ≠
      x.frameId) ∧ statusFrame 1 0 ∈ (mutesSlow.engine .l1).txQueue ∧
    (mutesSlow.contract .l1).timers.slowFrame = some (statusFrame 1 0).id ∧ mutesAnnounce.Takes ∧
    (mutesAnnounce.contract .l1).timers.slowFrame = none ∧
    (mutesAnnounce.contract .l1).exchange = some (exchangeOf .announce 0 none none) ∧
    statusFrame 0 0 ∈ (mutesAnnounce.engine .l1).txQueue ∧
    (statusFrame 0 0).id = (exchangeOf .announce 0 none none).frameId ∧
    (exchangeOf .announce 0 none none).kind = .announce ∧ (mutesAnnounce.contract .l1).state = .baseline ∧
    (mutesAnnounce.contract .l1).unmanaged = true ∧ mutesGranted.Takes ∧
    (mutesGranted.contract .l1).timers.slowFrame = none ∧
    (mutesGranted.contract .l1).exchange = some (exchangeOf .claimGranted 0 none none) ∧
    statusFrame 0 0 ∈ (mutesGranted.engine .l1).txQueue ∧
    (statusFrame 0 0).id = (exchangeOf .claimGranted 0 none none).frameId ∧
    (exchangeOf .claimGranted 0 none none).kind = .claimGranted ∧
    (∀ (x : Exchange), (pausedLine.contract .l1).exchange = some x → ∀ f ∈ (pausedLine.engine .l1).txQueue, f.id ≠
      x.frameId) ∧ (∀ f ∈ (pausedLine.engine .l1).txQueue, (pausedLine.contract .l1).timers.slowFrame ≠ some f.id) ∧
    mutesClaim.Takes ∧ (mutesClaim.contract .l1).timers.slowFrame = none ∧
    (mutesClaim.contract .l1).exchange = some (exchangeOf .claim 0 none none) ∧
    statusFrame 0 0 ∈ (mutesClaim.engine .l1).txQueue ∧
    (statusFrame 0 0).id = (exchangeOf .claim 0 none none).frameId ∧ (exchangeOf .claim 0 none none).kind = .claim :=
  by and_intros <;> first | decide +kernel | exact noForward_of (by decide +kernel)

theorem witness_LineControlsAct_2 :
  mutesRecall.Takes ∧ (mutesRecall.contract .l1).timers.slowFrame = none ∧
    (mutesRecall.contract .l1).exchange = some (exchangeOf .recall 0 none none) ∧
    statusFrame 0 0 ∈ (mutesRecall.engine .l1).txQueue ∧
    (statusFrame 0 0).id = (exchangeOf .recall 0 none none).frameId ∧
    (exchangeOf .recall 0 none none).kind = .recall ∧ (mutesRecall.contract .l1).recallOut = some openRecall ∧
    faultedFree.Takes ∧ (faultedFree.contract .l1).state.contracted = false ∧
    (pausedLine.contract .l1).state.contracted = true ∧ pausedLine.LineSettled .l1 ∧
    (pausedLine.engine .l1).accepts = true ∧ disabledLine.Takes ∧ (disabledLine.contract .l1).state = .blocked ∧
    disabledLine.straps.get .l1 = .disabled ∧ faultedHeld.Takes ∧ (faultedHeld.contract .l1).state = .faulted ∧
    (faultedHeld.captures.get .l1).held = true ∧ faultedFree.LineSettled .l1 ∧
    ((faultedFree.contract .l1).state = .faulted ∧ (faultedFree.captures.get .l1).held = false) ∧
    faultedFree.straps.get .l1 ≠ .disabled ∧ blockedLine.Takes ∧ blockedLine.LineSettled .l1 ∧
    (blockedLine.contract .l1).state = .blocked ∧ blockedLine.straps.get .l1 ≠ .disabled ∧ greetingSilent.Takes ∧
    greetingSilent.LineSettled .l1 ∧ (greetingSilent.contract .l1).state = .greeting ∧
    greetingSilent.straps.get .l1 ≠ .disabled ∧ faultedDisabled.Takes ∧ faultedDisabled.LineSettled .l1 ∧
    (faultedDisabled.contract .l1).state = .faulted ∧ (faultedDisabled.captures.get .l1).held = false ∧
    faultedDisabled.straps.get .l1 = .disabled :=
  by decide +kernel

theorem witness_RenegotiateAndRecallAct :
  pausedLine.Takes ∧ (pausedLine.contract .l1).paused = true ∧ powersUp.Takes ∧
    (¬((powersUp.contract .l1).role = .draw ∧ ((powersUp.contract .l1).state = .active ∨ (powersUp.contract
      .l1).state = .baseline ∧ (powersUp.contract .l1).farMenu.isSome = true)) ∧ ¬((powersUp.contract .l1).role =
      .supply ∧ ((powersUp.contract .l1).state = .offering ∨ (powersUp.contract .l1).state = .active))) ∧
    choiceHeld.Takes ∧
    (¬((choiceHeld.contract .l1).role = .draw ∧ ((choiceHeld.contract .l1).state = .active ∨ (choiceHeld.contract
      .l1).state = .baseline ∧ (choiceHeld.contract .l1).farMenu.isSome = true)) ∧ ¬((choiceHeld.contract .l1).role =
      .supply ∧ ((choiceHeld.contract .l1).state = .offering ∨ (choiceHeld.contract .l1).state = .active))) ∧
    slowOver.Takes ∧
    (¬((slowOver.contract .l1).role = .draw ∧ ((slowOver.contract .l1).state = .active ∨ (slowOver.contract
      .l1).state = .baseline ∧ (slowOver.contract .l1).farMenu.isSome = true)) ∧ ¬((slowOver.contract .l1).role =
      .supply ∧ ((slowOver.contract .l1).state = .offering ∨ (slowOver.contract .l1).state = .active))) ∧
    choosesBare.Takes ∧ (choosesBare.contract .l1).paused = false ∧ (choosesBare.contract .l1).role = .draw ∧
    ((choosesBare.contract .l1).state = .active ∨ (choosesBare.contract .l1).state = .baseline ∧
      (choosesBare.contract .l1).farMenu.isSome = true) ∧ (choosesBare.contract .l1).farMenu = none ∧
    choosesBare.LineSettled .l1 ∧ mayChoose.Takes ∧ (mayChoose.contract .l1).paused = false ∧
    (mayChoose.contract .l1).role = .draw ∧
    ((mayChoose.contract .l1).state = .active ∨ (mayChoose.contract .l1).state = .baseline ∧ (mayChoose.contract
      .l1).farMenu.isSome = true) ∧ (mayChoose.contract .l1).farMenu = some (farMenuOf [struckPoint]) ∧
    mayChoose.LineSettled .l1 ∧ mayChoose.NoForward .l1 (List.map FarPoint.point (farMenuOf [struckPoint]).points) ∧
    choosesNone.Takes ∧ (choosesNone.contract .l1).paused = false ∧
    (choosesNone.contract .l1).role = .draw ∧
    ((choosesNone.contract .l1).state = .active ∨ (choosesNone.contract .l1).state = .baseline ∧
      (choosesNone.contract .l1).farMenu.isSome = true) ∧
    (choosesNone.contract .l1).farMenu = some (farMenuOf
      [{ point := { kind := PointKind.fixed, v1 := 450, v2 := 450, limit := 30 }, mark := .survives, capacity := 20 }]) ∧
    choosesNone.LineSettled .l1 ∧
    choosesNone.NoForward .l1 (List.map FarPoint.point (farMenuOf
      [{ point := { kind := PointKind.fixed, v1 := 450, v2 := 450, limit := 30 }, mark := .survives, capacity := 20 }]).points) ∧
    choosesForwards.Takes ∧ (choosesForwards.contract .l1).paused = false ∧
    (choosesForwards.contract .l1).role = .draw ∧
    ((choosesForwards.contract .l1).state = .active ∨ (choosesForwards.contract .l1).state = .baseline ∧
      (choosesForwards.contract .l1).farMenu.isSome = true) ∧
    (choosesForwards.contract .l1).farMenu = some { raw := [65], points := [struckPoint, farPoint] } ∧
    choosesForwards.LineSettled .l1 ∧ ({ raw := [65], points := [struckPoint, farPoint] } : FarMenu).raw = [65] ∧
    (List.map FarPoint.point [struckPoint, farPoint])[0]? = some struckPoint.point ∧
    (choosesForwards.pointAnswer .l1 struckPoint.point 0).action = .forward ∧
    (∀ (i : ℕ) (o : Point), i < 0 → (List.map FarPoint.point [struckPoint, farPoint])[i]? = some o →
      (choosesForwards.pointAnswer .l1 o i).action ≠ .forward) ∧ recallsTwice.Takes ∧
    (recallsTwice.contract .l1).role = .supply ∧ (recallsTwice.contract .l1).state = .active ∧
    (recallsTwice.contract .l1).recallOut.isSome = true ∧ mayOffer.Takes ∧ (mayOffer.contract .l1).paused = false ∧
    (mayOffer.contract .l1).role = .supply ∧
    ((mayOffer.contract .l1).state = .offering ∨ (mayOffer.contract .l1).state = .active) ∧
    (mayOffer.engine .l1).accepts = true :=
  by
    and_intros <;> first
      | decide +kernel
      | exact noForward_of (by decide +kernel)
      | exact noForwardBefore_of (by decide +kernel)

theorem witness_RenegotiateAndRecallAct_2 :
  reoffers.Takes ∧ (reoffers.contract .l1).paused = false ∧ (reoffers.contract .l1).role = .supply ∧
    ((reoffers.contract .l1).state = .offering ∨ (reoffers.contract .l1).state = .active) ∧
    (reoffers.engine .l1).accepts = true ∧ mayOfferNone.Takes ∧ (mayOfferNone.contract .l1).paused = false ∧
    (mayOfferNone.contract .l1).role = .supply ∧
    ((mayOfferNone.contract .l1).state = .offering ∨ (mayOfferNone.contract .l1).state = .active) ∧
    (mayOfferNone.engine .l1).accepts = true ∧ supplies.Takes ∧ 320 < (1 : Byte).toNat * 256 + (65 : Byte).toNat ∧
    drawing.Takes ∧
    (¬((drawing.contract .l1).role = .supply ∧ ((drawing.contract .l1).state = .active ∨ (drawing.contract .l1).state
      = .powering))) ∧ (powersUp.contract .l1).role = .supply ∧ (powersUp.contract .l1).state = .powering ∧
    (supplies.contract .l1).role = .supply ∧ (supplies.contract .l1).state = .active ∧
    (supplies.contract .l1).recallOut = none ∧ (supplies.contract .l1).agreement = some agreed40 ∧
    agreed40.current ≤ max ((0 : Byte).toNat * 256 + (40 : Byte).toNat) (supplies.contract .l1).options.baseline ∧
    max ((0 : Byte).toNat * 256 + (39 : Byte).toNat) (supplies.contract .l1).options.baseline < agreed40.current ∧
    supplies.MaySend .l1 :=
  by decide +kernel

theorem witness_VerdictsAreApplied_unknownTag :
  (∀ e, base.verdictOf .l1 = some e → e.tag ≠ 9) ∧
    (∀ e, (announceDecides .refuse).verdictOf .l1 = some e → e.tag ≠ 8) :=
  ⟨(by intro e h; cases h), (by intro e h; cases h; decide)⟩

theorem witness_VerdictsAreApplied :
  base.Takes ∧ (announceDecides .refuse).Takes ∧
    (claimDecides .auto).verdictOf .l1 = some (decidedEntry .claim .auto) ∧
    VerdictsDistinct (claimDecides .auto).link.verdicts ∧ (claimDecides .auto).LineSettled .l1 ∧
    (claimDecides .auto).Takes ∧ (decidedEntry .claim .auto).tag = 9 ∧ (decidedEntry .claim .auto).kind = .claim ∧
    (announceDecides .refuse).verdictOf .l1 = some (decidedEntry .announce .refuse) ∧
    VerdictsDistinct (announceDecides .refuse).link.verdicts ∧ (announceDecides .refuse).LineSettled .l1 ∧
    (decidedEntry .announce .refuse).tag = 9 ∧ (decidedEntry .announce .refuse).kind ≠ .claim ∧
    (announceDecides .auto).verdictOf .l1 = some (decidedEntry .announce .auto) ∧
    VerdictsDistinct (announceDecides .auto).link.verdicts ∧ (announceDecides .auto).LineSettled .l1 ∧
    ((announceDecides .auto).contract .l1).decision = some
      { what := Forwarded.announce false, tag := 5, arrival := 980, began := .offering } ∧
    ((announceDecides .auto).engine .l1).accepts = true ∧ (announceDecides .auto).Takes ∧
    (decidedEntry .announce .auto).tag = 9 ∧ (decidedEntry .announce .auto).kind = .announce ∧
    ((announceDecides .auto).contract .l1).state = .greeting ∧
    ((announceDecides .auto).contract .l1).far = some { cls := FarClass.supplier, identity := 7, level := 1 } ∧
    (announceDecidesAs .both FarClass.consumer).verdictOf .l1 = some (decidedEntry .announce .auto) ∧
    VerdictsDistinct (announceDecidesAs .both FarClass.consumer).link.verdicts ∧
    (announceDecidesAs .both FarClass.consumer).LineSettled .l1 ∧
    ((announceDecidesAs .both FarClass.consumer).contract .l1).decision = some
      { what := Forwarded.announce false, tag := 5, arrival := 980, began := .offering } ∧
    ((announceDecidesAs .both FarClass.consumer).engine .l1).accepts = true ∧
    (announceDecidesAs .both FarClass.consumer).Takes ∧
    ((announceDecidesAs .both FarClass.consumer).contract .l1).state = .greeting ∧
    ((announceDecidesAs .both FarClass.consumer).contract .l1).far = some
      { cls := FarClass.consumer, identity := 7, level := 1 } ∧
    (announceDecidesAs .drawOnly FarClass.consumer).verdictOf .l1 = some (decidedEntry .announce .auto) ∧
    VerdictsDistinct (announceDecidesAs .drawOnly FarClass.consumer).link.verdicts ∧
    (announceDecidesAs .drawOnly FarClass.consumer).LineSettled .l1 ∧
    ((announceDecidesAs .drawOnly FarClass.consumer).contract .l1).decision = some
      { what := Forwarded.announce false, tag := 5, arrival := 980, began := .offering } ∧
    ((announceDecidesAs .drawOnly FarClass.consumer).engine .l1).accepts = true ∧
    (announceDecidesAs .drawOnly FarClass.consumer).Takes ∧
    ((announceDecidesAs .drawOnly FarClass.consumer).contract .l1).state = .greeting ∧
    ((announceDecidesAs .drawOnly FarClass.consumer).contract .l1).far = some
      { cls := FarClass.consumer, identity := 7, level := 1 } ∧ (decidedEntry .announce .auto).kind ≠ .claim ∧
    Action.auto = (decidedEntry .announce Action.auto).fallback ∧
    BitVec.toNat ((announceDecides .auto).now - (decidedEntry .announce .auto).deadline) < 2147483648 ∧
    (announceDecides .clamp).verdictOf .l1 = some (decidedEntry .announce .clamp) ∧
    VerdictsDistinct (announceDecides .clamp).link.verdicts ∧ (announceDecides .clamp).LineSettled .l1 ∧
    ((announceDecides .clamp).contract .l1).decision = some
      { what := Forwarded.announce false, tag := 5, arrival := 980, began := .offering } ∧
    ((announceDecides .clamp).engine .l1).accepts = true ∧
    Action.clamp = (decidedEntry .announce Action.clamp).fallback ∧
    BitVec.toNat ((announceDecides .clamp).now - (decidedEntry .announce .clamp).deadline) < 2147483648 ∧
    (decidedEntry .announce .clamp).kind = .announce ∧ ((announceDecides .clamp).contract .l1).state = .greeting ∧
    ((announceDecides .clamp).contract .l1).far = some { cls := FarClass.supplier, identity := 7, level := 1 } :=
  by and_intros <;> decide +kernel

theorem witness_VerdictsAreApplied_2 :
  ((announceDecides .refuse).contract .l1).decision = some
      { what := Forwarded.announce false, tag := 5, arrival := 980, began := .offering } ∧
    ((announceDecides .refuse).engine .l1).accepts = true ∧
    Action.refuse = (decidedEntry .announce Action.refuse).fallback ∧
    BitVec.toNat ((announceDecides .refuse).now - (decidedEntry .announce .refuse).deadline) < 2147483648 ∧
    (decidedEntry .announce .refuse).kind = .announce ∧ ((announceDecides .refuse).contract .l1).state = .greeting ∧
    ((announceDecides .refuse).contract .l1).far = some { cls := FarClass.supplier, identity := 7, level := 1 } ∧
    (announceDecides .wait).verdictOf .l1 = some (decidedEntry .announce .wait) ∧
    VerdictsDistinct (announceDecides .wait).link.verdicts ∧ (announceDecides .wait).LineSettled .l1 ∧
    ((announceDecides .wait).contract .l1).decision = some
      { what := Forwarded.announce false, tag := 5, arrival := 980, began := .offering } ∧
    ((announceDecides .wait).engine .l1).accepts = true ∧
    Action.wait = (decidedEntry .announce Action.wait).fallback ∧
    BitVec.toNat ((announceDecides .wait).now - (decidedEntry .announce .wait).deadline) < 2147483648 ∧
    (decidedEntry .announce .wait).kind = .announce ∧ ((announceDecides .wait).contract .l1).state = .greeting ∧
    ((announceDecides .wait).contract .l1).far = some { cls := FarClass.supplier, identity := 7, level := 1 } ∧
    (menuDecides freshPoint .auto).verdictOf .l1 = some (decidedEntry .menuPoint .auto) ∧
    VerdictsDistinct (menuDecides freshPoint .auto).link.verdicts ∧ (menuDecides freshPoint .auto).LineSettled .l1 ∧
    ((menuDecides freshPoint .auto).contract .l1).decision = some
      { what := Forwarded.menu, tag := 5, arrival := 980, began := .awaitMenu } ∧
    (menuDecides freshPoint .auto).Takes ∧
    (decidedEntry .menuPoint .auto).tag = 9 ∧ (decidedEntry .menuPoint .auto).kind = .menuPoint ∧
    ((menuDecides freshPoint .auto).contract .l1).state = .choosing ∧
    ((menuDecides freshPoint .auto).contract .l1).farMenu = some (farMenuOf [freshPoint]) ∧
    (decidedEntry .menuPoint .auto).kind ≠ .claim ∧
    Action.auto = (decidedEntry .menuPoint Action.auto).fallback ∧
    BitVec.toNat ((menuDecides freshPoint .auto).now - (decidedEntry .menuPoint .auto).deadline) < 2147483648 ∧
    (menuDecides freshPoint .clamp).verdictOf .l1 = some (decidedEntry .menuPoint .clamp) ∧
    VerdictsDistinct (menuDecides freshPoint .clamp).link.verdicts ∧
    (menuDecides freshPoint .clamp).LineSettled .l1 ∧
    ((menuDecides freshPoint .clamp).contract .l1).decision = some
      { what := Forwarded.menu, tag := 5, arrival := 980, began := .awaitMenu } ∧
    Action.clamp = (decidedEntry .menuPoint Action.clamp).fallback ∧
    BitVec.toNat ((menuDecides freshPoint .clamp).now - (decidedEntry .menuPoint .clamp).deadline) < 2147483648 ∧
    (decidedEntry .menuPoint .clamp).kind = .menuPoint ∧
    ((menuDecides freshPoint .clamp).contract .l1).state = .choosing ∧
    ((menuDecides freshPoint .clamp).contract .l1).farMenu = some (farMenuOf [freshPoint]) ∧
    (menuDecides freshPoint .refuse).verdictOf .l1 = some (decidedEntry .menuPoint .refuse) ∧
    VerdictsDistinct (menuDecides freshPoint .refuse).link.verdicts ∧
    (menuDecides freshPoint .refuse).LineSettled .l1 ∧
    ((menuDecides freshPoint .refuse).contract .l1).decision = some
      { what := Forwarded.menu, tag := 5, arrival := 980, began := .awaitMenu } ∧
    Action.refuse = (decidedEntry .menuPoint Action.refuse).fallback ∧
    BitVec.toNat ((menuDecides freshPoint .refuse).now - (decidedEntry .menuPoint .refuse).deadline) < 2147483648 ∧
    (decidedEntry .menuPoint .refuse).kind = .menuPoint ∧
    ((menuDecides freshPoint .refuse).contract .l1).state = .choosing ∧
    ((menuDecides freshPoint .refuse).contract .l1).farMenu = some (farMenuOf [freshPoint]) :=
  by and_intros <;> decide +kernel

theorem witness_VerdictsAreApplied_3 :
  (menuDecides freshPoint .wait).verdictOf .l1 = some (decidedEntry .menuPoint .wait) ∧
    VerdictsDistinct (menuDecides freshPoint .wait).link.verdicts ∧ (menuDecides freshPoint .wait).LineSettled .l1 ∧
    ((menuDecides freshPoint .wait).contract .l1).decision = some
      { what := Forwarded.menu, tag := 5, arrival := 980, began := .awaitMenu } ∧
    Action.wait = (decidedEntry .menuPoint Action.wait).fallback ∧
    BitVec.toNat ((menuDecides freshPoint .wait).now - (decidedEntry .menuPoint .wait).deadline) < 2147483648 ∧
    (decidedEntry .menuPoint .wait).kind = .menuPoint ∧
    ((menuDecides freshPoint .wait).contract .l1).state = .choosing ∧
    ((menuDecides freshPoint .wait).contract .l1).farMenu = some (farMenuOf [freshPoint]) ∧
    ((claimDecides .auto).contract .l1).decision = some
      { what := Forwarded.claim someClaim, tag := 5, arrival := 980, began := .offering } ∧
    ((claimDecides .auto).engine .l1).accepts = true ∧ ((claimDecides .auto).contract .l1).state = .deciding ∧
    (((claimDecides Action.auto).contract .l1).recallOut = none ∧ ((claimDecides Action.auto).contract .l1).target =
      none ∧ 1 ≤ someClaim.claimOfRoom (if Action.auto = Action.clamp then min ((claimDecides Action.auto).supplyRoom
      .l1) (decidedEntry .claim Action.auto).clamp else (claimDecides Action.auto).supplyRoom .l1) ∧ someClaim.least
      ≤ someClaim.claimOfRoom (if Action.auto = Action.clamp then min ((claimDecides Action.auto).supplyRoom .l1)
      (decidedEntry .claim Action.auto).clamp else (claimDecides Action.auto).supplyRoom .l1)) ∧
    (recallingNow (claimDecides .auto)).verdictOf .l1 = some (decidedEntry .claim .auto) ∧
    VerdictsDistinct (recallingNow (claimDecides .auto)).link.verdicts ∧
    (recallingNow (claimDecides .auto)).LineSettled .l1 ∧
    ((recallingNow (claimDecides .auto)).contract .l1).decision = some
      { what := Forwarded.claim someClaim, tag := 5, arrival := 980, began := .offering } ∧
    ((recallingNow (claimDecides .auto)).engine .l1).accepts = true ∧ (recallingNow (claimDecides .auto)).Takes ∧
    ((recallingNow (claimDecides .auto)).contract .l1).state = .deciding ∧
    (¬(((recallingNow (claimDecides Action.auto)).contract .l1).recallOut = none ∧ ((recallingNow (claimDecides
      Action.auto)).contract .l1).target = none ∧ 1 ≤ someClaim.claimOfRoom (if Action.auto = Action.clamp then min
      ((recallingNow (claimDecides Action.auto)).supplyRoom .l1) (decidedEntry .claim Action.auto).clamp else
      (recallingNow (claimDecides Action.auto)).supplyRoom .l1) ∧ someClaim.least ≤ someClaim.claimOfRoom (if
      Action.auto = Action.clamp then min ((recallingNow (claimDecides Action.auto)).supplyRoom .l1) (decidedEntry
      .claim Action.auto).clamp else (recallingNow (claimDecides Action.auto)).supplyRoom .l1))) ∧
    Action.auto = (decidedEntry .claim Action.auto).fallback ∧
    BitVec.toNat ((claimDecides .auto).now - (decidedEntry .claim .auto).deadline) < 2147483648 ∧
    BitVec.toNat ((recallingNow (claimDecides .auto)).now - (decidedEntry .claim .auto).deadline) < 2147483648 ∧
    (claimDecides .clamp).verdictOf .l1 = some (decidedEntry .claim .clamp) ∧
    VerdictsDistinct (claimDecides .clamp).link.verdicts ∧ (claimDecides .clamp).LineSettled .l1 ∧
    ((claimDecides .clamp).contract .l1).decision = some
      { what := Forwarded.claim someClaim, tag := 5, arrival := 980, began := .offering } ∧
    ((claimDecides .clamp).engine .l1).accepts = true ∧ Action.clamp = (decidedEntry .claim Action.clamp).fallback ∧
    BitVec.toNat ((claimDecides .clamp).now - (decidedEntry .claim .clamp).deadline) < 2147483648 ∧
    (decidedEntry .claim .clamp).kind = .claim ∧ ((claimDecides .clamp).contract .l1).state = .deciding ∧
    (((claimDecides Action.clamp).contract .l1).recallOut = none ∧ ((claimDecides Action.clamp).contract .l1).target
      = none ∧ 1 ≤ someClaim.claimOfRoom (if Action.clamp = Action.clamp then min ((claimDecides
      Action.clamp).supplyRoom .l1) (decidedEntry .claim Action.clamp).clamp else (claimDecides
      Action.clamp).supplyRoom .l1) ∧ someClaim.least ≤ someClaim.claimOfRoom (if Action.clamp = Action.clamp then
      min ((claimDecides Action.clamp).supplyRoom .l1) (decidedEntry .claim Action.clamp).clamp else (claimDecides
      Action.clamp).supplyRoom .l1)) ∧
    (recallingNow (claimDecides .clamp)).verdictOf .l1 = some (decidedEntry .claim .clamp) ∧
    VerdictsDistinct (recallingNow (claimDecides .clamp)).link.verdicts ∧
    (recallingNow (claimDecides .clamp)).LineSettled .l1 ∧
    ((recallingNow (claimDecides .clamp)).contract .l1).decision = some
      { what := Forwarded.claim someClaim, tag := 5, arrival := 980, began := .offering } ∧
    ((recallingNow (claimDecides .clamp)).engine .l1).accepts = true ∧
    BitVec.toNat ((recallingNow (claimDecides .clamp)).now - (decidedEntry .claim .clamp).deadline) < 2147483648 ∧
    ((recallingNow (claimDecides .clamp)).contract .l1).state = .deciding ∧
    (¬(((recallingNow (claimDecides Action.clamp)).contract .l1).recallOut = none ∧ ((recallingNow (claimDecides
      Action.clamp)).contract .l1).target = none ∧ 1 ≤ someClaim.claimOfRoom (if Action.clamp = Action.clamp then min
      ((recallingNow (claimDecides Action.clamp)).supplyRoom .l1) (decidedEntry .claim Action.clamp).clamp else
      (recallingNow (claimDecides Action.clamp)).supplyRoom .l1) ∧ someClaim.least ≤ someClaim.claimOfRoom (if
      Action.clamp = Action.clamp then min ((recallingNow (claimDecides Action.clamp)).supplyRoom .l1) (decidedEntry
      .claim Action.clamp).clamp else (recallingNow (claimDecides Action.clamp)).supplyRoom .l1))) :=
  by and_intros <;> decide +kernel

theorem witness_VerdictsAreApplied_4 :
  (claimDecides .refuse).verdictOf .l1 = some (decidedEntry .claim .refuse) ∧
    VerdictsDistinct (claimDecides .refuse).link.verdicts ∧ (claimDecides .refuse).LineSettled .l1 ∧
    ((claimDecides .refuse).contract .l1).decision = some
      { what := Forwarded.claim someClaim, tag := 5, arrival := 980, began := .offering } ∧
    ((claimDecides .refuse).engine .l1).accepts = true ∧
    Action.refuse = (decidedEntry .claim Action.refuse).fallback ∧
    BitVec.toNat ((claimDecides .refuse).now - (decidedEntry .claim .refuse).deadline) < 2147483648 ∧
    (decidedEntry .claim .refuse).kind = .claim ∧ ((claimDecides .refuse).contract .l1).state = .deciding ∧
    (claimDecides .wait).verdictOf .l1 = some (decidedEntry .claim .wait) ∧
    VerdictsDistinct (claimDecides .wait).link.verdicts ∧ (claimDecides .wait).LineSettled .l1 ∧
    ((claimDecides .wait).contract .l1).decision = some
      { what := Forwarded.claim someClaim, tag := 5, arrival := 980, began := .offering } ∧
    ((claimDecides .wait).engine .l1).accepts = true ∧ Action.wait = (decidedEntry .claim Action.wait).fallback ∧
    BitVec.toNat ((claimDecides .wait).now - (decidedEntry .claim .wait).deadline) < 2147483648 ∧
    (decidedEntry .claim .wait).kind = .claim ∧ ((claimDecides .wait).contract .l1).state = .deciding ∧
    (claimDecidesActive .auto).verdictOf .l1 = some (decidedEntry .claim .auto) ∧
    VerdictsDistinct (claimDecidesActive .auto).link.verdicts ∧ (claimDecidesActive .auto).LineSettled .l1 ∧
    ((claimDecidesActive .auto).contract .l1).decision = some
      { what := Forwarded.claim someClaim, tag := 5, arrival := 980, began := .active } ∧
    ((claimDecidesActive .auto).engine .l1).accepts = true ∧ (claimDecidesActive .auto).Takes ∧
    ((claimDecidesActive .auto).contract .l1).state = .active ∧
    ((claimDecidesActive .auto).contract .l1).role = .supply ∧
    (((claimDecidesActive Action.auto).contract .l1).recallOut = none ∧ ((claimDecidesActive Action.auto).contract
      .l1).target = none ∧ 1 ≤ someClaim.claimOfRoom (if Action.auto = Action.clamp then min ((claimDecidesActive
      Action.auto).supplyRoom .l1) (decidedEntry .claim Action.auto).clamp else (claimDecidesActive
      Action.auto).supplyRoom .l1) ∧ someClaim.least ≤ someClaim.claimOfRoom (if Action.auto = Action.clamp then min
      ((claimDecidesActive Action.auto).supplyRoom .l1) (decidedEntry .claim Action.auto).clamp else
      (claimDecidesActive Action.auto).supplyRoom .l1)) ∧
    (recallingNow (claimDecidesActive .auto)).verdictOf .l1 = some (decidedEntry .claim .auto) ∧
    VerdictsDistinct (recallingNow (claimDecidesActive .auto)).link.verdicts ∧
    (recallingNow (claimDecidesActive .auto)).LineSettled .l1 ∧
    ((recallingNow (claimDecidesActive .auto)).contract .l1).decision = some
      { what := Forwarded.claim someClaim, tag := 5, arrival := 980, began := .active } ∧
    ((recallingNow (claimDecidesActive .auto)).engine .l1).accepts = true ∧
    (recallingNow (claimDecidesActive .auto)).Takes ∧
    ((recallingNow (claimDecidesActive .auto)).contract .l1).state = .active ∧
    ((recallingNow (claimDecidesActive .auto)).contract .l1).role = .supply ∧
    (¬(((recallingNow (claimDecidesActive Action.auto)).contract .l1).recallOut = none ∧ ((recallingNow
      (claimDecidesActive Action.auto)).contract .l1).target = none ∧ 1 ≤ someClaim.claimOfRoom (if Action.auto =
      Action.clamp then min ((recallingNow (claimDecidesActive Action.auto)).supplyRoom .l1) (decidedEntry .claim
      Action.auto).clamp else (recallingNow (claimDecidesActive Action.auto)).supplyRoom .l1) ∧ someClaim.least ≤
      someClaim.claimOfRoom (if Action.auto = Action.clamp then min ((recallingNow (claimDecidesActive
      Action.auto)).supplyRoom .l1) (decidedEntry .claim Action.auto).clamp else (recallingNow (claimDecidesActive
      Action.auto)).supplyRoom .l1))) ∧
    BitVec.toNat ((claimDecidesActive .auto).now - (decidedEntry .claim .auto).deadline) < 2147483648 ∧
    BitVec.toNat ((recallingNow (claimDecidesActive .auto)).now - (decidedEntry .claim .auto).deadline) < 2147483648 ∧
    (claimDecidesActive .clamp).verdictOf .l1 = some (decidedEntry .claim .clamp) ∧
    VerdictsDistinct (claimDecidesActive .clamp).link.verdicts ∧ (claimDecidesActive .clamp).LineSettled .l1 ∧
    ((claimDecidesActive .clamp).contract .l1).decision = some
      { what := Forwarded.claim someClaim, tag := 5, arrival := 980, began := .active } ∧
    ((claimDecidesActive .clamp).engine .l1).accepts = true ∧
    BitVec.toNat ((claimDecidesActive .clamp).now - (decidedEntry .claim .clamp).deadline) < 2147483648 ∧
    ((claimDecidesActive .clamp).contract .l1).state = .active ∧
    ((claimDecidesActive .clamp).contract .l1).role = .supply ∧
    (((claimDecidesActive Action.clamp).contract .l1).recallOut = none ∧ ((claimDecidesActive Action.clamp).contract
      .l1).target = none ∧ 1 ≤ someClaim.claimOfRoom (if Action.clamp = Action.clamp then min ((claimDecidesActive
      Action.clamp).supplyRoom .l1) (decidedEntry .claim Action.clamp).clamp else (claimDecidesActive
      Action.clamp).supplyRoom .l1) ∧ someClaim.least ≤ someClaim.claimOfRoom (if Action.clamp = Action.clamp then
      min ((claimDecidesActive Action.clamp).supplyRoom .l1) (decidedEntry .claim Action.clamp).clamp else
      (claimDecidesActive Action.clamp).supplyRoom .l1)) :=
  by and_intros <;> decide +kernel

theorem witness_VerdictsAreApplied_5 :
  (recallingNow (claimDecidesActive .clamp)).verdictOf .l1 = some (decidedEntry .claim .clamp) ∧
    VerdictsDistinct (recallingNow (claimDecidesActive .clamp)).link.verdicts ∧
    (recallingNow (claimDecidesActive .clamp)).LineSettled .l1 ∧
    ((recallingNow (claimDecidesActive .clamp)).contract .l1).decision = some
      { what := Forwarded.claim someClaim, tag := 5, arrival := 980, began := .active } ∧
    ((recallingNow (claimDecidesActive .clamp)).engine .l1).accepts = true ∧
    BitVec.toNat ((recallingNow (claimDecidesActive .clamp)).now - (decidedEntry .claim .clamp).deadline) <
      2147483648 ∧ ((recallingNow (claimDecidesActive .clamp)).contract .l1).state = .active ∧
    ((recallingNow (claimDecidesActive .clamp)).contract .l1).role = .supply ∧
    (¬(((recallingNow (claimDecidesActive Action.clamp)).contract .l1).recallOut = none ∧ ((recallingNow
      (claimDecidesActive Action.clamp)).contract .l1).target = none ∧ 1 ≤ someClaim.claimOfRoom (if Action.clamp =
      Action.clamp then min ((recallingNow (claimDecidesActive Action.clamp)).supplyRoom .l1) (decidedEntry .claim
      Action.clamp).clamp else (recallingNow (claimDecidesActive Action.clamp)).supplyRoom .l1) ∧ someClaim.least ≤
      someClaim.claimOfRoom (if Action.clamp = Action.clamp then min ((recallingNow (claimDecidesActive
      Action.clamp)).supplyRoom .l1) (decidedEntry .claim Action.clamp).clamp else (recallingNow (claimDecidesActive
      Action.clamp)).supplyRoom .l1))) ∧
    (claimDecidesActive .refuse).verdictOf .l1 = some (decidedEntry .claim .refuse) ∧
    VerdictsDistinct (claimDecidesActive .refuse).link.verdicts ∧ (claimDecidesActive .refuse).LineSettled .l1 ∧
    ((claimDecidesActive .refuse).contract .l1).decision = some
      { what := Forwarded.claim someClaim, tag := 5, arrival := 980, began := .active } ∧
    ((claimDecidesActive .refuse).engine .l1).accepts = true ∧
    BitVec.toNat ((claimDecidesActive .refuse).now - (decidedEntry .claim .refuse).deadline) < 2147483648 ∧
    ((claimDecidesActive .refuse).contract .l1).state = .active ∧
    ((claimDecidesActive .refuse).contract .l1).role = .supply ∧
    (claimDecidesActive .wait).verdictOf .l1 = some (decidedEntry .claim .wait) ∧
    VerdictsDistinct (claimDecidesActive .wait).link.verdicts ∧ (claimDecidesActive .wait).LineSettled .l1 ∧
    ((claimDecidesActive .wait).contract .l1).decision = some
      { what := Forwarded.claim someClaim, tag := 5, arrival := 980, began := .active } ∧
    ((claimDecidesActive .wait).engine .l1).accepts = true ∧
    BitVec.toNat ((claimDecidesActive .wait).now - (decidedEntry .claim .wait).deadline) < 2147483648 ∧
    ((claimDecidesActive .wait).contract .l1).state = .active ∧
    ((claimDecidesActive .wait).contract .l1).role = .supply ∧
    smallRoom.verdictOf .l1 = some (decidedEntry .claim .auto) ∧ VerdictsDistinct smallRoom.link.verdicts ∧
    smallRoom.LineSettled .l1 ∧
    (smallRoom.contract .l1).decision = some
      { what := Forwarded.claim someClaim, tag := 5, arrival := 980, began := .offering } ∧
    (smallRoom.engine .l1).accepts = true ∧ smallRoom.Takes ∧ (smallRoom.contract .l1).state = .deciding ∧
    (¬((smallRoom.contract .l1).recallOut = none ∧ (smallRoom.contract .l1).target = none ∧ 1 ≤ someClaim.claimOfRoom
      (if Action.auto = Action.clamp then min (smallRoom.supplyRoom .l1) (decidedEntry .claim Action.auto).clamp else
      smallRoom.supplyRoom .l1) ∧ someClaim.least ≤ someClaim.claimOfRoom (if Action.auto = Action.clamp then min
      (smallRoom.supplyRoom .l1) (decidedEntry .claim Action.auto).clamp else smallRoom.supplyRoom .l1))) ∧
    BitVec.toNat (smallRoom.now - (decidedEntry .claim .auto).deadline) < 2147483648 :=
  by decide +kernel

theorem witness_ChooseAndGrantAreCarriedOut :
  (menuDecides farPoint .auto).Takes ∧
    (menuDecides farPoint .auto).verdictOf .l1 = some (decidedEntry .menuPoint .auto) ∧
    (decidedEntry .menuPoint .auto).tag = 9 ∧ VerdictsDistinct (menuDecides farPoint .auto).link.verdicts ∧
    (menuDecides farPoint .auto).LineSettled .l1 ∧ (decidedEntry .menuPoint .auto).kind = .menuPoint ∧
    ((menuDecides farPoint .auto).contract .l1).state = .choosing ∧
    ((menuDecides farPoint .auto).contract .l1).decision = some
      { what := Forwarded.menu, tag := 5, arrival := 980, began := .awaitMenu } ∧
    ((menuDecides farPoint .auto).contract .l1).farMenu = some (farMenuOf [farPoint]) ∧
    (farMenuOf [farPoint]).points.length ≤ (1 : Byte).toNat ∧
    (farMenuOf [farPoint]).points[(0 : Byte).toNat]? = some farPoint ∧
    farPoint.mark = .survives ∧ 50 = farPoint.capacity ∧
    ((menuDecides farPoint .auto).prefs.get 0).enabled = true ∧
    ((menuDecides farPoint .auto).prefs.get 0).suits farPoint.point = some 250 ∧
    (∀ j < 0, ((menuDecides farPoint .auto).prefs.get j).enabled = false ∨ ((menuDecides farPoint .auto).prefs.get
      j).suits farPoint.point = none) ∧
    ((menuDecides farPoint .auto).prefs.get 0).least ≤ min ((25 : Byte).toNat) (min 50 ((menuDecides farPoint
      .auto).drawRoom .l1)) ∧
    1 ≤ min 320 (min ((25 : Byte).toNat) (min 50 ((menuDecides farPoint .auto).drawRoom .l1)) * 200 / 250) ∧
    min 320 (max 1 (((menuDecides farPoint .auto).prefs.get 0).least * 200 / 250)) ≤ min 320 (min ((25 : Byte).toNat)
      (min 50 ((menuDecides farPoint .auto).drawRoom .l1)) * 200 / 250) ∧ (menuDecides freshPoint .auto).Takes ∧
    (menuDecides freshPoint .auto).verdictOf .l1 = some (decidedEntry .menuPoint .auto) ∧
    VerdictsDistinct (menuDecides freshPoint .auto).link.verdicts ∧ (menuDecides freshPoint .auto).LineSettled .l1 ∧
    ((menuDecides freshPoint .auto).contract .l1).state = .choosing ∧
    ((menuDecides freshPoint .auto).contract .l1).decision = some
      { what := Forwarded.menu, tag := 5, arrival := 980, began := .awaitMenu } ∧
    ((menuDecides freshPoint .auto).contract .l1).farMenu = some (farMenuOf [freshPoint]) ∧
    (farMenuOf [freshPoint]).points[(0 : Byte).toNat]? = some freshPoint ∧
    freshPoint.mark = .unqueried ∧
    50 = capBy freshPoint.point.rawCapacity ((menuDecides freshPoint .auto).contract .l1).lineClamp ∧
    ((menuDecides freshPoint .auto).prefs.get 0).enabled = true ∧
    ((menuDecides freshPoint .auto).prefs.get 0).suits freshPoint.point = some 250 ∧
    (∀ j < 0, ((menuDecides freshPoint .auto).prefs.get j).enabled = false ∨ ((menuDecides freshPoint
      .auto).prefs.get j).suits freshPoint.point = none) ∧
    ((menuDecides freshPoint .auto).prefs.get 0).least ≤ min ((26 : Byte).toNat) (min 50 ((menuDecides freshPoint
      .auto).drawRoom .l1)) ∧
    1 ≤ min 320 (min ((26 : Byte).toNat) (min 50 ((menuDecides freshPoint .auto).drawRoom .l1)) * 200 / 250) ∧
    min 320 (max 1 (((menuDecides freshPoint .auto).prefs.get 0).least * 200 / 250)) ≤ min 320 (min ((26 :
      Byte).toNat) (min 50 ((menuDecides freshPoint .auto).drawRoom .l1)) * 200 / 250) ∧
    ((menuDecides farPoint .auto).prefs.get 0).least ≤ min ((12 : Byte).toNat) (min 50 ((menuDecides farPoint
      .auto).drawRoom .l1)) ∧
    1 ≤ min 320 (min ((12 : Byte).toNat) (min 50 ((menuDecides farPoint .auto).drawRoom .l1)) * 200 / 250) ∧
    min 320 (max 1 (((menuDecides farPoint .auto).prefs.get 0).least * 200 / 250)) ≤ min 320 (min ((12 : Byte).toNat)
      (min 50 ((menuDecides farPoint .auto).drawRoom .l1)) * 200 / 250) ∧
    min ((9 : Byte).toNat) (min 50 ((menuDecides farPoint .auto).drawRoom .l1)) < ((menuDecides farPoint
      .auto).prefs.get 0).least :=
  by and_intros <;> decide +kernel

theorem witness_ChooseAndGrantAreCarriedOut_2 :
  (prefers { enabled := true, vMin := 1300, vMax := 1300, wanted := 25, least := 5 } (menuDecides bigPoint
      .auto)).Takes ∧
    (prefers { enabled := true, vMin := 1300, vMax := 1300, wanted := 25, least := 5 } (menuDecides bigPoint
      .auto)).verdictOf .l1 = some (decidedEntry .menuPoint .auto) ∧
    VerdictsDistinct (prefers { enabled := true, vMin := 1300, vMax := 1300, wanted := 25, least := 5 } (menuDecides
      bigPoint .auto)).link.verdicts ∧
    (prefers { enabled := true, vMin := 1300, vMax := 1300, wanted := 25, least := 5 } (menuDecides bigPoint
      .auto)).LineSettled .l1 ∧
    ((prefers { enabled := true, vMin := 1300, vMax := 1300, wanted := 25, least := 5 } (menuDecides bigPoint
      .auto)).contract .l1).state = .choosing ∧
    ((prefers { enabled := true, vMin := 1300, vMax := 1300, wanted := 25, least := 5 } (menuDecides bigPoint
      .auto)).contract .l1).decision = some { what := Forwarded.menu, tag := 5, arrival := 980, began := .awaitMenu }
      ∧
    ((prefers { enabled := true, vMin := 1300, vMax := 1300, wanted := 25, least := 5 } (menuDecides bigPoint
      .auto)).contract .l1).farMenu = some (farMenuOf [bigPoint]) ∧
    (farMenuOf [bigPoint]).points[(0 : Byte).toNat]? = some bigPoint ∧
    bigPoint.mark = .survives ∧ 2080 = bigPoint.capacity ∧
    ((prefers { enabled := true, vMin := 1300, vMax := 1300, wanted := 25, least := 5 } (menuDecides bigPoint
      .auto)).prefs.get 0).enabled = true ∧
    ((prefers { enabled := true, vMin := 1300, vMax := 1300, wanted := 25, least := 5 } (menuDecides bigPoint
      .auto)).prefs.get 0).suits bigPoint.point = some 1300 ∧
    (∀ j < 0, ((prefers { enabled := true, vMin := 1300, vMax := 1300, wanted := 25, least := 5 } (menuDecides
      bigPoint .auto)).prefs.get j).enabled = false ∨ ((prefers
      { enabled := true, vMin := 1300, vMax := 1300, wanted := 25, least := 5 } (menuDecides bigPoint
      .auto)).prefs.get j).suits bigPoint.point = none) ∧
    min 320 (min ((5 : Byte).toNat) (min 2080 ((prefers
      { enabled := true, vMin := 1300, vMax := 1300, wanted := 25, least := 5 } (menuDecides bigPoint
      .auto)).drawRoom .l1)) * 200 / 1300) = 0 ∧ (menuDecides struckPoint .auto).Takes ∧
    (menuDecides struckPoint .auto).verdictOf .l1 = some (decidedEntry .menuPoint .auto) ∧
    VerdictsDistinct (menuDecides struckPoint .auto).link.verdicts ∧
    (menuDecides struckPoint .auto).LineSettled .l1 ∧ ((menuDecides struckPoint .auto).contract .l1).state = .choosing ∧
    ((menuDecides struckPoint .auto).contract .l1).decision = some
      { what := Forwarded.menu, tag := 5, arrival := 980, began := .awaitMenu } ∧
    ((menuDecides struckPoint .auto).contract .l1).farMenu = some (farMenuOf [struckPoint]) ∧
    (farMenuOf [struckPoint]).points[(0 : Byte).toNat]? = some struckPoint ∧
    struckPoint.mark = .struck ∧
    (claimDecides .auto).Takes ∧ (claimDecides .auto).verdictOf .l1 = some (decidedEntry .claim .auto) ∧
    (decidedEntry .claim .auto).tag = 9 ∧ VerdictsDistinct (claimDecides .auto).link.verdicts ∧
    (claimDecides .auto).LineSettled .l1 ∧ ((claimDecides .auto).engine .l1).accepts = true ∧
    (decidedEntry .claim .auto).kind = .claim ∧ ((claimDecides .auto).contract .l1).state = .deciding ∧
    ((claimDecides .auto).contract .l1).decision = some
      { what := Forwarded.claim someClaim, tag := 5, arrival := 980, began := .offering } ∧
    (((claimDecides .auto).contract .l1).recallOut = none ∧ ((claimDecides .auto).contract .l1).target = none ∧ 1 ≤
      min ((30 : Byte).toNat) (someClaim.claimOfRoom ((claimDecides .auto).supplyRoom .l1)) ∧ someClaim.least ≤ min
      ((30 : Byte).toNat) (someClaim.claimOfRoom ((claimDecides .auto).supplyRoom .l1))) ∧
    (((claimDecides .auto).contract .l1).recallOut = none ∧ ((claimDecides .auto).contract .l1).target = none ∧ 1 ≤
      min ((10 : Byte).toNat) (someClaim.claimOfRoom ((claimDecides .auto).supplyRoom .l1)) ∧ someClaim.least ≤ min
      ((10 : Byte).toNat) (someClaim.claimOfRoom ((claimDecides .auto).supplyRoom .l1))) ∧
    (¬(((claimDecides .auto).contract .l1).recallOut = none ∧ ((claimDecides .auto).contract .l1).target = none ∧ 1 ≤
      min ((9 : Byte).toNat) (someClaim.claimOfRoom ((claimDecides .auto).supplyRoom .l1)) ∧ someClaim.least ≤ min
      ((9 : Byte).toNat) (someClaim.claimOfRoom ((claimDecides .auto).supplyRoom .l1)))) ∧
    (((claimDecides .auto).contract .l1).recallOut = none ∧ ((claimDecides .auto).contract .l1).target = none ∧ 1 ≤
      min ((31 : Byte).toNat) (someClaim.claimOfRoom ((claimDecides .auto).supplyRoom .l1)) ∧ someClaim.least ≤ min
      ((31 : Byte).toNat) (someClaim.claimOfRoom ((claimDecides .auto).supplyRoom .l1))) ∧
    (claimDecidesActive .auto).Takes ∧ (claimDecidesActive .auto).verdictOf .l1 = some (decidedEntry .claim .auto) ∧
    VerdictsDistinct (claimDecidesActive .auto).link.verdicts ∧ (claimDecidesActive .auto).LineSettled .l1 ∧
    ((claimDecidesActive .auto).engine .l1).accepts = true ∧
    ((claimDecidesActive .auto).contract .l1).state = .active ∧
    ((claimDecidesActive .auto).contract .l1).role = .supply ∧
    ((claimDecidesActive .auto).contract .l1).decision = some
      { what := Forwarded.claim someClaim, tag := 5, arrival := 980, began := .active } ∧
    (((claimDecidesActive .auto).contract .l1).recallOut = none ∧ ((claimDecidesActive .auto).contract .l1).target =
      none ∧ 1 ≤ min ((30 : Byte).toNat) (someClaim.claimOfRoom ((claimDecidesActive .auto).supplyRoom .l1)) ∧
      someClaim.least ≤ min ((30 : Byte).toNat) (someClaim.claimOfRoom ((claimDecidesActive .auto).supplyRoom .l1)))
      :=
  by and_intros <;> decide +kernel

theorem witness_ChooseAndGrantAreCarriedOut_3 :
  (¬(((claimDecidesActive .auto).contract .l1).recallOut = none ∧ ((claimDecidesActive .auto).contract .l1).target =
      none ∧ 1 ≤ min ((9 : Byte).toNat) (someClaim.claimOfRoom ((claimDecidesActive .auto).supplyRoom .l1)) ∧
      someClaim.least ≤ min ((9 : Byte).toNat) (someClaim.claimOfRoom ((claimDecidesActive .auto).supplyRoom .l1))))
      :=
  by decide +kernel

/-! ### Witnesses of recalls' ends, superseding, forwarding and the recall walk -/

/-- The state with a pending recall target on L1. -/
def targets (n : Nat) (s : State) : State := s.onContract .l1 fun c => { c with target := some ⟨n, .cap⟩ }
/-- The state with a queue of `n` frames on L1. -/
def queued (n : Nat) (s : State) : State :=
  s.onEngine .l1 fun e => { e with txQueue := (List.range n).map fun i => statusFrame i 0 }
abbrev RecallStands (s : State) (r : RecallOut) (a : Agreement) : Prop :=
  (s.contract .l1).recallOut = some r ∧ (s.contract .l1).agreement = some a ∧ (s.contract .l1).state = .active ∧
    (s.contract .l1).role = .supply ∧ (s.contract .l1).grant = none ∧ s.LineSettled .l1
abbrev TargetBelow (s : State) (n : Nat) : Prop :=
  ∃ g, (s.contract .l1).target = some g ∧ g.level < n
def recallDropped : State := queued 4 (targets 19 recallOver)
def backoffMoves : State :=
  on { record .backoff .draw with farMenu := some (farMenuOf [struckPoint, farPoint]), timers := { timersOff with backoff := some due } } attached
def backoffEnds : State :=
  on { record .backoff .draw with waitStreak := 1, farMenu := some (farMenuOf [struckPoint]), timers := { timersOff with backoff := some due } } attached
def slowSilent : State :=
  on { record .baseline .draw with unmanaged := true, exchange := some (exchangeOf .announce 0 (some due) (some 975)) } attached
abbrev Settles (s : State) : Prop :=
  (s.channel .l1).settleReport = some 451 ∧ (s.contract .l1).state = .powering ∧
    (s.contract .l1).grant = some poweredGrant ∧ s.LineSettled .l1 ∧ (s.contract .l1).exchange = none ∧
    (s.contract .l1).waiting = none
def capsRecalling : State := capped .recallAtCap { recalled with target := some ⟨25, .budget⟩ }
/-- A decision pends on L1, with its verdict entry, and a frame arrives. -/
def pends (w : Forwarded) (k : QueryKind) (began : CState) (c : Contract) (f : Frame) : State :=
  let s := on { c with decision := some ⟨w, 4, 990, began⟩ } (hearing f)
  { s with link := { s.link with verdicts := [⟨9, .l1, k, 3, .wait, 0, due, []⟩] } }
def holds (c : Contract) : Contract := { c with options := { Options.default .both with holdAfterActive := true } }
def greetingPends (f : Frame) : State := pends (.announce true) .announce .greeting (record .greeting .none) f
def choosingPends (began : CState) (f : Frame) : State :=
  pends .menu .menuPoint began { record .choosing .draw with agreement := some agreed20 } f
def activePends (f : Frame) : State :=
  pends (.claim someClaim) .claim .active { record .active .supply with agreement := some agreed40, offered := some oneOffered } f
abbrev Pending (s : State) (f : Frame) (w : Forwarded) (began : CState) : Prop :=
  s.Arrives .l1 f ∧ s.LineSettled .l1 ∧ (s.contract .l1).decision = some ⟨w, 4, 990, began⟩ ∧
    (⟨w, 4, 990, began⟩ : Decision).Pends (s.contract .l1)
def bothFrame : Frame := announceOf .both
def hands (s : State) : State := answering .forward .refuse 0 s
/-- A MENU's first point is forwarded, on a line not paused. -/
abbrev FirstForwarded (s : State) (m : Mode) (st : CState) : Prop :=
  (s.contract .l1).decision = none ∧ s.LineSettled .l1 ∧ s.link.mode = m ∧ s.Arrives .l1 menuFrame ∧
    (s.contract .l1).state = st ∧ (s.contract .l1).role = .draw ∧ (s.contract .l1).paused = false ∧
    twoPoints[0]? = some ⟨.fixed, 450, 450, 30⟩ ∧ (s.pointAnswer .l1 ⟨.fixed, 450, 450, 30⟩ 0).action = .forward
/-- The cap mode of L1, its running allowance being 0. -/
def capsAt (m : CapMode) (s : State) : State :=
  s.onContract .l1 fun c => { c with options := { c.options with capMode := m } }
/-- A grant entry of 62 W on each of four lines: L3 the newest, L2 in POWERING, L1 with a recall outstanding. -/
def suppliesFour : State :=
  let supplying := { record .active .supply with agreement := some agreed40 }
  { base with
    contracts := ⟨supplying, recalled, { record .powering .supply with grant := some poweredGrant, target := some ⟨25, .cap⟩ },
      supplying⟩
    engines := .all attached
    budget := { Budget.initial with
      supplyCeiling := 200, order := [⟨.l0, 50, 250⟩, ⟨.l1, 50, 250⟩, ⟨.l2, 50, 250⟩, ⟨.l3, 50, 250⟩]
      supplyCommit := ⟨50, 50, 50, 50⟩, committedSupply := 200, supplyHeadroom := 0 } }
/-- L3's agreement, and its baseline current, given. -/
def newestOf (a : Agreement) (baseline : Nat) : State :=
  suppliesFour.onContract .l3 fun c =>
    { c with agreement := some a, options := { Options.default .both with baseline := baseline } }
abbrev Walks (s : State) (supply : Byte) (older : List GrantEntry) (g : GrantEntry) (newer : List GrantEntry) : Prop :=
  s.Takes ∧ parseBudget (budgetChars 200 supply) = some (200, supply.toNat, [.l0, .l1, .l2, .l3]) ∧ s.budget.SumsOk ∧
    s.budget.order = older ++ g :: newer ∧ (s.budget.order.map GrantEntry.line).Nodup ∧
    supply.toNat < s.budget.committedSupply ∧ 200 ≤ s.budget.inputCeiling
/-- What the walk finds at an entry: the excess and the level. -/
def finds (s : State) (supply : Nat) (g : GrantEntry) (newer : List GrantEntry) : Nat × Nat × Nat :=
  let excess := s.walkLeft newer.reverse (s.budget.committedSupply - supply)
  (excess, s.walkLevel g excess, s.walkCut g excess)
def entry (l : Line) : GrantEntry := ⟨l, 50, 250⟩

theorem witness_FailedSendsAreLinkFaults_4 :
  recallFails.TargetMet .l1 20 ∧ recallFails.OnlyRecall .l1 ∧ (targets 20 recallFails).TargetMet .l1 20 ∧
    (targets 19 recallFails).OnlyRecall .l1 ∧ TargetBelow (targets 19 recallFails) 20 ∧
    ((targets 19 recallFails).engine .l1).txQueue = [statusFrame 0 0] ∧
    ((targets 19 recallFails).engine .l1).txSide = .sending ∧ ((targets 19 recallFails).engine .l1).txSends = 4 ∧
    (targets 19 recallFails).strikes.get .l1 + 1 ≠ 4 ∧
    ((targets 19 recallFails).contract .l1).exchange = some (exchangeOf .recall 0 none none) ∧
    RecallStands (targets 20 recallFails) openRecall agreed40 ∧ RecallStands (targets 19 recallFails) openRecall agreed40 :=
  by and_intros <;> decide +kernel

theorem witness_TimedRequestsAreHanded_2 :
  (backoffMoves.contract .l1).state = .backoff ∧ (backoffMoves.contract .l1).timers.backoff = some due ∧
    BitVec.toNat (backoffMoves.now - due) < 2147483648 ∧ backoffMoves.LineSettled .l1 ∧
    (backoffMoves.contract .l1).cursor = ⟨0, 0⟩ ∧ backoffMoves.candidate .l1 ⟨0, 0⟩ = none ∧
    backoffMoves.candidate .l1 ⟨0, 1⟩ = some { drawClaim with point := 1 } ∧ Cursor.before ⟨0, 0⟩ ⟨0, 1⟩ ∧
    (∀ j, Cursor.before ⟨0, 0⟩ j → j.before ⟨0, 1⟩ → backoffMoves.candidate .l1 j = none) ∧
    (backoffEnds.contract .l1).state = .backoff ∧ (backoffEnds.contract .l1).timers.backoff = some due ∧
    BitVec.toNat (backoffEnds.now - due) < 2147483648 ∧ backoffEnds.LineSettled .l1 ∧
    (backoffEnds.contract .l1).cursor = ⟨0, 0⟩ ∧ backoffEnds.candidate .l1 ⟨0, 0⟩ = none ∧
    (∀ n, Cursor.before ⟨0, 0⟩ n → True → backoffEnds.candidate .l1 n = none) :=
  by and_intros <;> first | decide +kernel | exact State.noCandidate_of _ (by decide +kernel)

theorem witness_AnswerTimeoutTakesTheExchangeOn_2 :
  (slowSilent.contract .l1).exchange = some (exchangeOf .announce 0 (some due) (some 975)) ∧
    BitVec.toNat (slowSilent.now - due) < 2147483648 ∧ slowSilent.LineSettled .l1 ∧
    (slowSilent.contract .l1).state = .baseline ∧ (slowSilent.contract .l1).unmanaged = true :=
  by decide +kernel

theorem witness_RecallsEndByYieldOrForce_2 :
  recallOver.TargetMet .l1 20 ∧ recallOver.OnlyRecall .l1 ∧ RecallStands (targets 20 recallOver) lateRecall agreed40 ∧
    (targets 20 recallOver).TargetMet .l1 20 ∧ RecallStands (targets 19 recallOver) lateRecall agreed40 ∧
    (targets 19 recallOver).OnlyRecall .l1 ∧ TargetBelow (targets 19 recallOver) 20 ∧
    RecallStands recallDropped lateRecall agreed40 ∧ recallDropped.OnlyRecall .l1 ∧ TargetBelow recallDropped 20 ∧
    (recallDropped.engine .l1).accepts = false ∧ RecallStands (targets 19 yieldsMore) lateRecall agreed40 ∧
    (targets 19 yieldsMore).OnlyRecall .l1 ∧ TargetBelow (targets 19 yieldsMore) 20 ∧
    (targets 19 yieldsMore).Arrives .l1 ⟨3, .yield 21⟩ ∧ RecallStands (targets 20 yieldsEnough) lateRecall agreed40 ∧
    (targets 20 yieldsEnough).TargetMet .l1 20 ∧ (targets 20 yieldsEnough).Arrives .l1 ⟨3, .yield 20⟩ ∧
    RecallStands (targets 19 yieldsEnough) lateRecall agreed40 ∧ (targets 19 yieldsEnough).OnlyRecall .l1 ∧
    TargetBelow (targets 19 yieldsEnough) 20 ∧ (targets 19 yieldsEnough).Arrives .l1 ⟨3, .yield 20⟩ :=
  by and_intros <;> decide +kernel

theorem witness_ChannelReportsAreTaken_2 :
  Settles settledNow ∧ settledNow.TargetMet .l1 10 ∧ (settledNow.engine .l1).accepts = true ∧
    Settles (targets 10 settledNow) ∧ (targets 10 settledNow).TargetMet .l1 10 ∧ Settles (targets 9 settledNow) ∧
    TargetBelow (targets 9 settledNow) 10 ∧ Settles (queued 3 (targets 9 settledNow)) ∧
    ((queued 3 (targets 9 settledNow)).engine .l1).txQueue.length = 3 ∧
    ((targets 25 (capped .recallAtCap cappedPowering)).contract .l1).state = .powering ∧
    ((targets 25 (capped .recallAtCap cappedPowering)).channel .l1).capReport = true ∧
    (targets 25 (capped .recallAtCap cappedPowering)).LineSettled .l1 ∧
    ((targets 25 (capped .recallAtCap cappedPowering)).contract .l1).options.capMode = .recallAtCap ∧
    (capsRecalling.channel .l1).capReport = true ∧ capsRecalling.LineSettled .l1 ∧
    (capsRecalling.contract .l1).options.capMode = .recallAtCap ∧ (capsRecalling.contract .l1).state = .active ∧
    (capsRecalling.contract .l1).role = .supply ∧ (capsRecalling.contract .l1).recallOut.isSome = true :=
  by and_intros <;> decide +kernel

theorem witness_AnnounceDecidesTheRole_4 :
  Pending (greetingPends bothFrame) bothFrame (.announce true) .greeting ∧
    Pending (choosingPends .active bothFrame) bothFrame .menu .active ∧
    ((choosingPends .active bothFrame).contract .l1).state ≠ .greeting ∧
    Pending (deciding bothFrame) bothFrame (.claim someClaim) .offering ∧
    Pending (activePends bothFrame) bothFrame (.claim someClaim) .active :=
  by and_intros <;> decide +kernel

theorem witness_ForwardHandsTheDecision_3 :
  FirstForwarded (hands menuActive) .running .active ∧ ((hands menuActive).contract .l1).agreement = some agreed20 ∧
    FirstForwarded (hands menuClaims) .running .claiming ∧ FirstForwarded (hands menuBacksOff) .running .backoff ∧
    FirstForwarded (hands menuBaseline) .running .baseline ∧
    FirstForwarded (alone (hands menuActive)) .autonomous .active ∧ (alone (hands menuActive)).firstClaim .l1 (twoPoints.map fun o => markedBy .refuse 0 none o) = none ∧
    FirstForwarded (alone (answering .forward .auto 0 menuBaseline)) .autonomous .baseline ∧
    ((alone (answering .forward .auto 0 menuBaseline)).firstClaim .l1
      (twoPoints.map fun o => markedBy .auto 0 none o)).isSome = true ∧
    ((hands (greeted .both .supplier)).contract .l1).decision = none ∧ (hands (greeted .both .supplier)).LineSettled .l1 ∧
    (hands (greeted .both .supplier)).link.mode = .running ∧
    (hands (greeted .both .supplier)).Arrives .l1 ⟨1, .announce .supplier true true 239075330 1⟩ ∧
    ((hands (greeted .both .supplier)).contract .l1).fits .announce 1 = true ∧
    ((hands (greeted .both .supplier)).contract .l1).state = .greeting ∧
    ((hands (greeted .both .supplier)).answerOf (announced .supplier)).action = .forward :=
  by and_intros <;> decide +kernel

theorem witness_ForwardHandsTheDecision_4 :
  Pending (greetingPends menuFrame) menuFrame (.announce true) .greeting ∧
    Pending (deciding menuFrame) menuFrame (.claim someClaim) .offering ∧
    Pending (activePends menuFrame) menuFrame (.claim someClaim) .active ∧
    Pending (choosingPends .awaitMenu menuFrame) menuFrame .menu .awaitMenu ∧
    Pending (choosingPends .claiming menuFrame) menuFrame .menu .claiming ∧
    Pending (choosingPends .backoff menuFrame) menuFrame .menu .backoff ∧
    Pending (choosingPends .baseline menuFrame) menuFrame .menu .baseline ∧
    Pending (choosingPends .active menuFrame) menuFrame .menu .active ∧
    ((choosingPends .active menuFrame).contract .l1).options.holdAfterActive = false ∧
    ((choosingPends .active menuFrame).contract .l1).paused = false ∧ (choosingPends .active menuFrame).NoForward .l1 twoPoints ∧
    ((choosingPends .active menuFrame).firstClaim .l1
      (twoPoints.mapIdx ((choosingPends .active menuFrame).markOf .l1))).isSome = true ∧
    (answering .refuse .auto 0 (choosingPends .baseline menuFrame)).NoForward .l1 twoPoints ∧
    (answering .refuse .auto 0 (choosingPends .baseline menuFrame)).firstClaim .l1
      (twoPoints.mapIdx ((answering .refuse .auto 0 (choosingPends .baseline menuFrame)).markOf .l1)) = none :=
  by and_intros <;> first | decide +kernel | exact noForward_of (by decide +kernel)

theorem witness_UnfitClaimsAreTurnedDown_3 :
  Pending (greetingPends claimFrame) claimFrame (.announce true) .greeting ∧
    Pending (activePends claimFrame) claimFrame (.claim someClaim) .active ∧
    Pending (choosingPends .active claimFrame) claimFrame .menu .active ∧
    Pending (choosingPends .awaitMenu claimFrame) claimFrame .menu .awaitMenu ∧
    ((choosingPends .active claimFrame).engine .l1).accepts = true :=
  by and_intros <;> decide +kernel

theorem witness_ClaimIsAdmittedByHeadroom_4 :
  (capsAt .endAtCap fits).Arrives .l1 claimFrame ∧ ((capsAt .endAtCap fits).contract .l1).state = .offering ∧
    ((capsAt .endAtCap fits).contract .l1).offered = some oneOffered ∧ (capsAt .endAtCap fits).LineSettled .l1 ∧
    (capsAt .endAtCap fits).actionOf (claimed fits) = .auto ∧
    ((capsAt .endAtCap fits).contract .l1).options.capMode ≠ .uncapped ∧
    ((capsAt .endAtCap fits).channel .l1).allowance = 0 ∧ ((capsAt .endAtCap fits).channel .l1).capReport = false :=
  by decide +kernel

theorem witness_ChooseAndGrantAreCarriedOut_4 :
  (capsAt .recallAtCap (claimDecides .auto)).verdictOf .l1 = some (decidedEntry .claim .auto) ∧
    VerdictsDistinct (capsAt .recallAtCap (claimDecides .auto)).link.verdicts ∧
    (capsAt .recallAtCap (claimDecides .auto)).LineSettled .l1 ∧
    ((capsAt .recallAtCap (claimDecides .auto)).contract .l1).options.capMode ≠ .uncapped ∧
    ((capsAt .recallAtCap (claimDecides .auto)).channel .l1).allowance = 0 :=
  by decide +kernel

/-- The entries of four supplying lines under a ceiling of 80, of 125 and of 190 (times 0.5 W): recalled, made a pending target,
passed over with no excess left, with no current to give back, and with no reduction. -/
theorem witness_BudgetSetStoresAndRecalls_3 :
  Walks suppliesFour 80 [] (entry .l0) [entry .l1, entry .l2, entry .l3] ∧
    finds suppliesFour 80 (entry .l0) [entry .l1, entry .l2, entry .l3] = (45, 20, 25) ∧
    suppliesFour.Recallable .l0 agreed40 ∧ Walks suppliesFour 80 [entry .l0] (entry .l1) [entry .l2, entry .l3] ∧
    finds suppliesFour 80 (entry .l1) [entry .l2, entry .l3] = (70, 20, 25) ∧
    (suppliesFour.contract .l1).recallOut.isSome = true ∧
    Walks suppliesFour 80 [entry .l0, entry .l1] (entry .l2) [entry .l3] ∧
    finds suppliesFour 80 (entry .l2) [entry .l3] = (95, 20, 25) ∧ (suppliesFour.contract .l2).state = .powering ∧
    Walks suppliesFour 80 [entry .l0, entry .l1, entry .l2] (entry .l3) [] ∧
    finds suppliesFour 80 (entry .l3) [] = (120, 20, 25) ∧ suppliesFour.Recallable .l3 agreed40 ∧
    Walks suppliesFour 190 [entry .l0, entry .l1, entry .l2] (entry .l3) [] ∧
    finds suppliesFour 190 (entry .l3) [] = (10, 32, 10) ∧
    Walks suppliesFour 190 [entry .l0, entry .l1] (entry .l2) [entry .l3] ∧
    finds suppliesFour 190 (entry .l2) [entry .l3] = (0, 40, 0) ∧
    Walks (newestOf agreed20 20) 125 [entry .l0, entry .l1, entry .l2] (entry .l3) [] ∧
    finds (newestOf agreed20 20) 125 (entry .l3) [] = (75, 20, 25) ∧ (newestOf agreed20 20).Recallable .l3 agreed20 ∧
    Walks (newestOf agreed40 40) 125 [entry .l0, entry .l1, entry .l2] (entry .l3) [] ∧
    finds (newestOf agreed40 40) 125 (entry .l3) [] = (75, 40, 0) :=
  by and_intros <;> decide +kernel

/-! ### Witnesses of selections whose CLAIM cannot be sent at once, and of what selection rests on -/

/-- A RENEW is outstanding on L1. -/
def renewOut (s : State) : State :=
  s.onContract .l1 fun c => { c with exchange := some (exchangeOf .renew 0 none none) }
/-- A request waits on L1. -/
def waits (s : State) : State := s.onContract .l1 fun c => { c with waiting := some waitingRequest }
/-- Why a CLAIM of L1 is not the outstanding request at once: a RENEW is outstanding, a request waits, both, or the transmit
queue is full, where it is DROPPED. -/
def holdUps : List (State → State) := [renewOut, waits, fun s => waits (renewOut s), queued 4]
abbrev Deferred (s : State) (ps : List FarPoint) : Prop :=
  (s.contract .l1).state = .switching ∧ (s.contract .l1).role = .draw ∧ (s.contract .l1).timers.voltageCheck = some 990 ∧
    (s.contract .l1).agreement = some agreed20 ∧ s.LineSettled .l1 ∧ (s.contract .l1).deferred = true ∧
    (s.contract .l1).paused = false ∧ (s.contract .l1).options.holdAfterActive = false ∧
    (s.contract .l1).farMenu = some (farMenuOf ps)
abbrev MenuTaken (s : State) (st : CState) : Prop :=
  s.Arrives .l1 menuFrame ∧ s.LineSettled .l1 ∧ (s.contract .l1).state = st ∧ (s.contract .l1).role = .draw ∧
    (s.contract .l1).paused = false
/-- What a selection over a stored far menu claims. -/
abbrev Chosen (s : State) (pts : List Point) (k : Option Cursor) : Prop :=
  (s.firstClaim .l1 (pts.mapIdx (s.markOf .l1))).map Prod.fst = k

/-- With a RENEW outstanding, a RENEGOTIATE that selects leaves its CLAIM waiting behind it. -/
theorem test_claimWaitsBehindTheRenew :
    let t := took (exec (.renegotiate (Req.control 7 (.line .l1) 5 [0, 0])) (renewOut mayChoose))
    (t.contract .l1).state = .claiming ∧ (t.contract .l1).exchange = some (exchangeOf .renew 0 none none) ∧
      (t.contract .l1).waiting.map Request.kind = some .claim ∧ t.engine .l1 = (renewOut mayChoose).engine .l1 := by
  decide +kernel

theorem witness_TimedRequestsAreHanded_3 :
  (∀ f ∈ holdUps, ((f backoffOver).contract .l1).state = .backoff ∧
    ((f backoffOver).contract .l1).timers.backoff = some due ∧ BitVec.toNat ((f backoffOver).now - due) < 2147483648 ∧
    (f backoffOver).candidate .l1 ((f backoffOver).contract .l1).cursor = some drawClaim) ∧
  (∀ f ∈ holdUps, ((f backoffMoves).contract .l1).state = .backoff ∧ (f backoffMoves).LineSettled .l1 ∧
    ((f backoffMoves).contract .l1).timers.backoff = some due ∧
    (f backoffMoves).candidate .l1 ((f backoffMoves).contract .l1).cursor = none ∧
    (f backoffMoves).candidate .l1 ⟨0, 1⟩ = some { drawClaim with point := 1 }) ∧
  (∀ f ∈ holdUps, (f backoffEnds).LineSettled .l1 ∧ ((f backoffEnds).contract .l1).timers.backoff = some due ∧
    (f backoffEnds).candidate .l1 ((f backoffEnds).contract .l1).cursor = none ∧
    (f backoffEnds).candidate .l1 ⟨0, 1⟩ = none) :=
  by decide +kernel

theorem witness_SamplesAreTakenAndJudged_3 :
  (∀ f ∈ holdUps, Deferred (f checksDeferred) [farPoint] ∧ Chosen (f checksDeferred) [farPoint.point] (some ⟨0, 0⟩)) ∧
  (∀ f ∈ holdUps, Deferred (f checksDeferredNone) [⟨⟨.fixed, 450, 450, 30⟩, .unqueried, 0⟩] ∧
    Chosen (f checksDeferredNone) [⟨.fixed, 450, 450, 30⟩] none) ∧
  (∀ f ∈ holdUps, (f checksDeferred).NoForward .l1 [farPoint.point] ∧
    (f checksDeferredNone).NoForward .l1 [⟨.fixed, 450, 450, 30⟩]) :=
  ⟨by decide +kernel, by decide +kernel, fun f hf =>
    ⟨noForward_of (by revert f; decide +kernel), noForward_of (by revert f; decide +kernel)⟩⟩

theorem witness_MenuLeadsToTheFirstClaim_3 :
  (∀ f ∈ holdUps, MenuTaken (f menuActive) .active ∧ ((f menuActive).contract .l1).decision = none ∧
    Chosen ((f menuActive).arrived .l1) twoPoints (some ⟨0, 1⟩)) ∧
  (∀ f ∈ holdUps, MenuTaken (f (answering .refuse .auto 24 menuActive)) .active ∧
    Chosen ((f (answering .refuse .auto 24 menuActive)).arrived .l1) twoPoints none) ∧
  (∀ f ∈ holdUps, (f menuActive).NoForward .l1 twoPoints ∧
    (f (answering .refuse .auto 24 menuActive)).NoForward .l1 twoPoints) :=
  ⟨by decide +kernel, by decide +kernel, fun f hf =>
    ⟨noForward_of (by revert f; decide +kernel), noForward_of (by revert f; decide +kernel)⟩⟩

/-- Preferences at the edges of a fixed and of a window point, a claim at the least power and under it, and cursors. -/
theorem witness_MenuLeadsToTheFirstClaim_4 :
  (⟨true, 250, 300, 25, 10⟩ : Preference).suits ⟨.fixed, 250, 250, 40⟩ = some 250 ∧
    (⟨true, 250, 300, 25, 10⟩ : Preference).suits ⟨.fixed, 249, 249, 40⟩ = none ∧
    (⟨true, 250, 300, 25, 10⟩ : Preference).suits ⟨.window, 200, 250, 40⟩ = some 250 ∧
    (⟨true, 250, 300, 25, 10⟩ : Preference).suits ⟨.window, 300, 400, 40⟩ = some 300 ∧
    (⟨true, 250, 300, 25, 10⟩ : Preference).suits ⟨.window, 301, 400, 40⟩ = none ∧
    Point.rawCapacity ⟨.fixed, 450, 450, 30⟩ = 67 ∧ Point.rawCapacity ⟨.window, 200, 450, 30⟩ = 30 ∧ capBy 67 (some 30) = 30 ∧
    base.claimOf .l1 [⟨⟨.fixed, 250, 250, 8⟩, .survives, 10⟩] ⟨0, 0⟩ = some ⟨0, 250, 8, 8⟩ ∧
    base.claimOf .l1 [⟨⟨.fixed, 250, 250, 8⟩, .survives, 9⟩] ⟨0, 0⟩ = none ∧
    base.firstClaim .l1 [struckPoint, farPoint] = some (⟨0, 1⟩, ⟨1, 250, 20, 8⟩) ∧
    base.firstClaim .l1 [struckPoint] = none :=
  by decide +kernel

theorem witness_ForwardHandsTheDecision_5 :
  (∀ f ∈ holdUps, MenuTaken (f (alone secondForwards)) .awaitMenu ∧
    ((f (alone secondForwards)).contract .l1).decision = none ∧ (f (alone secondForwards)).link.mode = .autonomous ∧
    ((f (alone secondForwards)).pointAnswer .l1 ⟨.fixed, 250, 250, 40⟩ 1).action = .forward) ∧
  (∀ f ∈ holdUps, MenuTaken (f choiceSuperseded) .choosing ∧
    ((f choiceSuperseded).contract .l1).decision = some ⟨.menu, 1, 990, .awaitMenu⟩ ∧
    Chosen (f choiceSuperseded) twoPoints (some ⟨0, 1⟩)) ∧
  (∀ f ∈ holdUps, (f choiceSuperseded).NoForward .l1 twoPoints) :=
  ⟨by decide +kernel, by decide +kernel, fun f hf => noForward_of (by revert f; decide +kernel)⟩

theorem witness_DenyAndWaitMoveTheCursor_2 :
  let left := fun (s : State) => ((s.arrived .l1).closeExchange .l1).dropClaim .l1
  (∀ f ∈ [waits, queued 4], ∀ s ∈ [deniedFirst, denied, toldToWait, toldToWaitAgain], ((f s).contract .l1).state = .claiming ∧
    ((f s).contract .l1).claim = some outClaim ∧ ((f s).contract .l1).fits .claim 3 = true ∧ (f s).LineSettled .l1 ∧
    ((f s).contract .l1).cursor = ⟨0, 0⟩) ∧
  (∀ f ∈ [id, waits, queued 4], (left (f deniedFirst)).candidate .l1 ⟨0, 2⟩ = some { drawClaim with point := 2 } ∧
    (left (f toldToWaitAgain)).candidate .l1 ⟨0, 1⟩ = some { drawClaim with point := 1 }) ∧
  Cursor.before ⟨0, 0⟩ ⟨0, 2⟩ ∧ Cursor.before ⟨0, 0⟩ ⟨0, 1⟩ ∧
  (∀ j, Cursor.before ⟨0, 0⟩ j → j.before ⟨0, 2⟩ → (left deniedFirst).candidate .l1 j = none) ∧
  (∀ j, Cursor.before ⟨0, 0⟩ j → j.before ⟨0, 1⟩ → (left toldToWaitAgain).candidate .l1 j = none) ∧
  (∀ n, Cursor.before ⟨0, 0⟩ n → True → (left denied).candidate .l1 n = none) :=
  by
    refine ⟨?_, ?_, ?_, ?_, ?_, ?_, ?_⟩ <;> first
      | decide +kernel
      | exact State.noCandidate_of _ (by decide +kernel)

theorem witness_LegalFramesAreReadBack_2 :
  validate [0x10, 0x00, 0x80] = .wellFormed ⟨0, .statusQ⟩ ∧
    validate (Frame.mk 5 (.grant 320 120)).chars = .wellFormed ⟨5, .grant 320 120⟩ :=
  by decide +kernel

theorem witness_WritesAreStored_2 :
  (⟨true, ⟨.fixed, 250, 250, 120⟩⟩ : SupplyEntry).offer 5 = some ⟨.fixed, 250, 250, 4⟩ ∧
    (⟨true, ⟨.fixed, 250, 250, 120⟩⟩ : SupplyEntry).offer 4 = none ∧
    (⟨true, ⟨.fixed, 250, 250, 120⟩⟩ : SupplyEntry).offer 200 = some ⟨.fixed, 250, 250, 120⟩ ∧
    (⟨true, ⟨.window, 200, 900, 30⟩⟩ : SupplyEntry).offer 5 = some ⟨.window, 200, 900, 5⟩ ∧
    (⟨true, ⟨.window, 200, 900, 30⟩⟩ : SupplyEntry).offer 4 = none ∧
    (⟨false, ⟨.fixed, 250, 250, 120⟩⟩ : SupplyEntry).offer 200 = none :=
  by decide +kernel

/-- Two lines' entries stand, a CLAIM's and a MENU's. -/
def twoDecide : State :=
  let m := menuDecides farPoint .refuse
  let s := claimDecides .auto
  { s with
    contracts := s.contracts.set .l2 (m.contract .l1), engines := s.engines.set .l2 attached
    link := { s.link with verdicts := [decidedEntry .claim .auto, { decidedEntry .menuPoint .refuse with line := .l2, tag := 10 }] } }

theorem witness_QuietAndRestartEmptyTheVerdictQueue_2 :
  twoDecide.Takes ∧ twoDecide.link.verdicts.length = 2 ∧ VerdictsDistinct twoDecide.link.verdicts ∧
    (∀ v ∈ twoDecide.link.verdicts, (twoDecide.contract v.line).decision.isSome = true) ∧
    (announceDecides .refuse).Takes ∧ (announceDecides .refuse).link.verdicts = [decidedEntry .announce .refuse] :=
  by decide +kernel

theorem witness_BudgetSetStoresAndRecalls_4 :
  (∀ f ∈ holdUps, (f reselects).Takes ∧ (f reselects).budget.SumsOk ∧ (f reselects).budget.inputCeiling < 2500 ∧
    (∀ o ∈ [Line.l0, .l2, .l3], ((f reselects).contract o).state ≠ .baseline) ∧
    ((f reselects).contract .l1).state = .baseline ∧
    ((f reselects).contract .l1).farMenu = some (farMenuOf [struckPoint]) ∧ ((f reselects).contract .l1).paused = false ∧
    (f reselects).LineSettled .l1 ∧ Chosen (f reselects) [struckPoint.point] (some ⟨0, 0⟩)) ∧
  (∀ f ∈ holdUps, (f reselects).NoForward .l1 [struckPoint.point]) :=
  ⟨by decide +kernel, fun f hf => noForward_of (by revert f; decide +kernel)⟩

theorem witness_LineControlsAct_3 :
  (∀ f ∈ holdUps, (f releases).Takes ∧ ((f releases).contract .l1).state = .active ∧
    ((f releases).contract .l1).paused = true ∧ ((f releases).contract .l1).deferred = true ∧
    ((f releases).contract .l1).role = .draw ∧ (f releases).LineSettled .l1 ∧
    ((f releases).contract .l1).farMenu = some (farMenuOf [struckPoint]) ∧
    Chosen (f releases) [struckPoint.point] (some ⟨0, 0⟩)) ∧
  (∀ f ∈ holdUps, (f releases).NoForward .l1 [struckPoint.point]) :=
  ⟨by decide +kernel, fun f hf => noForward_of (by revert f; decide +kernel)⟩

theorem witness_RenegotiateAndRecallAct_3 :
  (∀ f ∈ holdUps, (f mayChoose).Takes ∧ ((f mayChoose).contract .l1).paused = false ∧
    ((f mayChoose).contract .l1).role = .draw ∧ ((f mayChoose).contract .l1).state = .active ∧
    ((f mayChoose).contract .l1).farMenu = some (farMenuOf [struckPoint]) ∧ (f mayChoose).LineSettled .l1 ∧
    Chosen (f mayChoose) [struckPoint.point] (some ⟨0, 0⟩)) ∧
  (∀ f ∈ holdUps, ((f choosesNone).contract .l1).state = .baseline ∧ (f choosesNone).LineSettled .l1 ∧
    Chosen (f choosesNone) [⟨.fixed, 450, 450, 30⟩] none) ∧
  (∀ f ∈ holdUps, (f mayChoose).NoForward .l1 [struckPoint.point] ∧
    (f choosesNone).NoForward .l1 [⟨.fixed, 450, 450, 30⟩]) :=
  ⟨by decide +kernel, by decide +kernel, fun f hf =>
    ⟨noForward_of (by revert f; decide +kernel), noForward_of (by revert f; decide +kernel)⟩⟩

/-- A MENU's choice pends on L1 with its verdict entry, which the frame's tag names. -/
abbrev MenuPends (s : State) (p : FarPoint) (a : Action) : Prop :=
  s.verdictOf .l1 = some (decidedEntry .menuPoint a) ∧ VerdictsDistinct s.link.verdicts ∧ s.LineSettled .l1 ∧ s.Takes ∧
    (s.contract .l1).decision = some ⟨.menu, 5, 980, .awaitMenu⟩ ∧ (s.contract .l1).state = .choosing ∧
    (s.contract .l1).farMenu = some (farMenuOf [p]) ∧ BitVec.toNat (s.now - due) < 2147483648

theorem witness_VerdictsAreApplied_6 :
  (announceDecides .refuse).verdictOf .l1 = some (decidedEntry .announce .refuse) ∧
    (decidedEntry .announce .refuse).kind = .announce ∧ (decidedEntry .announce .refuse).tag = 9 ∧
    VerdictsDistinct (announceDecides .refuse).link.verdicts ∧ (announceDecides .refuse).LineSettled .l1 ∧
    (announceDecides .refuse).Takes ∧
    ∀ f ∈ holdUps, ∀ a ∈ [Action.auto, .clamp, .refuse, .wait], MenuPends (f (menuDecides freshPoint a)) freshPoint a :=
  by decide +kernel

theorem witness_ChooseAndGrantAreCarriedOut_5 :
  ∀ f ∈ holdUps, MenuPends (f (menuDecides farPoint .auto)) farPoint .auto ∧
    MenuPends (f (menuDecides freshPoint .auto)) freshPoint .auto ∧
    MenuPends (f (menuDecides struckPoint .auto)) struckPoint .auto ∧
    ((f (menuDecides farPoint .auto)).prefs.get 0).suits farPoint.point = some 250 :=
  by decide +kernel

end Sys2Proof.Tests
end

section
/-! SUPPORT. Proofs for chapter 6, the rule table: an entry's conditions one by one, and `RuleEntry.meets` as their
conjunction. -/

namespace Sys2Proof.Machine

/-- R110: the identification conditions, on the query's line, kind, far class and far identity. -/
def RuleEntry.Identifies (e : RuleEntry) (q : Query) : Prop :=
  e.lines.getLsbD q.line.index = true ∧ e.kinds.getLsbD q.kind.code = true ∧
  (e.hasClass = true → ∃ k, q.cls = some k ∧ e.classes.getLsbD k.code = true) ∧
  (e.hasIdentity = true → ∃ i, q.identity = some i ∧ i &&& e.mask = e.identity &&& e.mask)

/-- R111: the voltage condition, which no ANNOUNCE query meets. -/
def RuleEntry.VoltageMet (e : RuleEntry) (q : Query) : Prop :=
  e.hasVoltage = true → q.kind ≠ .announce ∧ e.vMin ≤ q.vLow ∧ q.vHigh ≤ e.vMax

/-- R111: the power condition, which no ANNOUNCE query meets. -/
def RuleEntry.PowerMet (e : RuleEntry) (q : Query) : Prop :=
  e.hasPower = true → q.kind ≠ .announce ∧ e.pMin ≤ q.power ∧ q.power ≤ e.pMax

/-- R111: the stance condition. -/
def RuleEntry.StanceMet (e : RuleEntry) (low : Bool) : Prop :=
  e.hasStance = true → low = decide (e.stance = 1)

/-- The entry without its electrical and stance conditions (R111), its fields otherwise unchanged. -/
abbrev RuleEntry.identifying (e : RuleEntry) : RuleEntry :=
  { e with hasVoltage := false, hasPower := false, hasStance := false }

/-- R106: an optional condition is met when it is absent, and otherwise when its values are. -/
theorem absent_or_met_iff (used met : Bool) : (!used || met) = true ↔ (used = true → met = true) := by
  cases used <;> simp

/-- The class and identity conditions of `RuleEntry.meets` ask for a present value that passes a test. -/
theorem RuleEntry.meets_eq (e : RuleEntry) (q : Query) (low : Bool) :
    e.meets q low =
      (e.enabled && e.lines.getLsbD q.line.index && e.kinds.getLsbD q.kind.code &&
        (!e.hasClass || q.cls.any fun k => e.classes.getLsbD k.code) &&
        (!e.hasIdentity || q.identity.any fun i => (i &&& e.mask) == (e.identity &&& e.mask)) &&
        (!e.hasVoltage || (!(q.kind == .announce) && decide (e.vMin ≤ q.vLow) && decide (q.vHigh ≤ e.vMax))) &&
        (!e.hasPower || (!(q.kind == .announce) && decide (e.pMin ≤ q.power) && decide (q.power ≤ e.pMax))) &&
        (!e.hasStance || (low == (e.stance == 1)))) := by
  obtain ⟨line, kind, cls, identity, vLow, vHigh, power, point⟩ := q
  cases cls <;> cases identity <;> rfl

/-- R109, R110, R111: an entry meets a query exactly when it is enabled and each of its conditions is met. -/
theorem RuleEntry.meets_iff (e : RuleEntry) (q : Query) (low : Bool) :
    e.meets q low = true ↔
      e.enabled = true ∧ e.Identifies q ∧ e.VoltageMet q ∧ e.PowerMet q ∧ e.StanceMet low := by
  simp only [RuleEntry.Identifies, RuleEntry.VoltageMet, RuleEntry.PowerMet, RuleEntry.StanceMet, RuleEntry.meets_eq,
    Bool.and_eq_true, absent_or_met_iff, Option.any_eq_true, decide_eq_true_eq, Bool.not_eq_true',
    decide_eq_false_iff_not, Bool.beq_eq_decide_eq, ne_eq, and_assoc]

/-- A disabled entry takes part in no match (R106). -/
theorem RuleEntry.meets_of_disabled {e : RuleEntry} (q : Query) (low : Bool) (off : e.enabled = false) :
    e.meets q low = false := by
  simp [← Bool.not_eq_true, e.meets_iff, off]

/-- An absent condition is met by every query (R106), so an entry without the conditions of R111 is left with those of
R110. -/
theorem RuleEntry.meets_iff_of_identification_only {e : RuleEntry} (q : Query) (low : Bool) (noVoltage : e.hasVoltage = false)
    (noPower : e.hasPower = false) (noStance : e.hasStance = false) :
    e.meets q low = true ↔ e.enabled = true ∧ e.Identifies q := by
  simp [e.meets_iff, RuleEntry.VoltageMet, RuleEntry.PowerMet, RuleEntry.StanceMet, noVoltage, noPower, noStance]

theorem RuleEntry.identifying_meets_iff (e : RuleEntry) (q : Query) (low : Bool) :
    e.identifying.meets q low = true ↔ e.enabled = true ∧ e.Identifies q :=
  e.identifying.meets_iff_of_identification_only q low rfl rfl rfl

/-- Settles O12: each clause is a part of the conjunction of `RuleEntry.meets_iff`. -/
theorem ruleConditionsMatch : Obligations.RuleConditionsMatch := by
  refine ⟨fun e q low on noVoltage noPower noStance => ?identification,
    fun _ q low off => RuleEntry.meets_of_disabled q low off, fun e q low bare => ?electrical,
    fun e q low met => ?necessary⟩
  case identification =>
    rw [RuleEntry.meets_iff_of_identification_only q low noVoltage noPower noStance]
    exact and_iff_right on
  case electrical =>
    obtain ⟨on, identified⟩ := (e.identifying_meets_iff q low).1 bare
    rw [e.meets_iff, and_iff_right on]
    exact and_iff_right identified
  case necessary =>
    obtain ⟨on, identified, -⟩ := (e.meets_iff q low).1 met
    exact (e.identifying_meets_iff q low).2 ⟨on, identified⟩

end Sys2Proof.Machine
end

section
/-! SUPPORT. Proofs for chapter 7, the power budget: what a taken request of the device does, when a change of the budget
raises its notice, and what BUDGET_CLEAR leaves. -/

namespace Sys2Proof.Machine

variable {s : State} {b : Budget}

/-! ### The state a request acts on (R157, R176) -/

@[simp] theorem LinkUnit.endAutonomous_notices (u : LinkUnit) : u.endAutonomous.notices = u.notices := by
  unfold LinkUnit.endAutonomous
  split <;> rfl

@[simp] theorem LinkUnit.endAutonomous_responses (u : LinkUnit) : u.endAutonomous.responses = u.responses := by
  unfold LinkUnit.endAutonomous
  split <;> rfl

@[simp] theorem State.acting_notices (s : State) : s.acting.link.notices = s.link.notices :=
  LinkUnit.endAutonomous_notices _

@[simp] theorem State.acting_responses (s : State) : s.acting.link.responses = s.link.responses :=
  LinkUnit.endAutonomous_responses _

/-- R158 to R160: a REQUEST of the device with its right check and length acts, and its one RESPONSE is queued. -/
theorem State.deviceRequest_framed (takes : s.Takes) (code num : Byte) (args : List Byte) (act : State → Reply) :
    s.deviceRequest code args.length (Req.framed code .device num args) act =
      .next ((act s.acting).state.respond ⟨.device, num, code, (act s.acting).result, (act s.acting).data⟩) := by
  obtain ⟨receiving, room⟩ := takes
  have sound : ¬ (crc (requestRaw .device num code args) ≠ crc (requestRaw .device num code args) ∨
      4 ≤ (s.onLink fun u => { u with receiver := .idle }).link.responses.length) := by
    simpa using room
  simp only [State.deviceRequest, State.request, State.taken, Req.framed, if_pos receiving, if_neg sound, deviceReply,
    if_true]
  rfl

/-! ### Changes of the budget (R125) -/

theorem mem_putNotice_self (n : Notice) (ns : List Notice) : n ∈ putNotice n ns := by
  induction ns with
  | nil => exact List.mem_singleton_self n
  | cons m ms ih =>
    unfold putNotice
    split
    · exact List.mem_cons_self
    · exact List.mem_cons_of_mem m ih

theorem State.mem_raise_notices (s : State) (src : Source) (body : NoticeBody) :
    (⟨src, s.now, body⟩ : Notice) ∈ (s.raise src body).link.notices := mem_putNotice_self _ _

/-- R125: the recomputing of the sums makes an over flag pass to set. -/
def Budget.PassesOver (b : Budget) : Prop :=
  (b.resum.drawOver = true ∧ b.drawOver = false) ∨ (b.resum.supplyOver = true ∧ b.supplyOver = false)

theorem Budget.passesOver_iff (b : Budget) : b.PassesOver ↔
    ((b.resum.drawOver && !b.drawOver) || (b.resum.supplyOver && !b.supplyOver)) = true := by
  simp [Budget.PassesOver]

theorem State.setBudget_of_passesOver (passes : b.PassesOver) :
    s.setBudget b = State.raise { s with budget := b.resum } .part b.resum.notice :=
  if_pos (b.passesOver_iff.1 passes)

theorem State.setBudget_of_not_passesOver (stays : ¬ b.PassesOver) : s.setBudget b = { s with budget := b.resum } :=
  if_neg (mt b.passesOver_iff.2 stays)

/-- R125: the BUDGET notice of a flag that passes to set carries the content present after the change. -/
theorem State.notice_mem_setBudget (passes : b.PassesOver) :
    (⟨.part, s.now, (s.setBudget b).budget.notice⟩ : Notice) ∈ (s.setBudget b).link.notices := by
  rw [State.setBudget_of_passesOver passes]
  exact State.mem_raise_notices _ _ _

/-- Beside the blocks of `State.setBudget_leaves`, the channels, the rules and the response queue stand. -/
theorem State.setBudget_leaves_rest (s : State) (b : Budget) : (s.setBudget b).channels = s.channels ∧
    (s.setBudget b).rules = s.rules ∧ (s.setBudget b).link.responses = s.link.responses := by
  by_cases passes : b.PassesOver
  · rw [State.setBudget_of_passesOver passes]; exact ⟨rfl, rfl, rfl⟩
  · rw [State.setBudget_of_not_passesOver passes]; exact ⟨rfl, rfl, rfl⟩

/-! ### BUDGET_CLEAR (R134) -/

/-- R134: both over flags cleared, before the recomputing. -/
def Budget.cleared (b : Budget) : Budget := { b with drawOver := false, supplyOver := false }

theorem execBudgetClear_eq (r : Req) (s : State) :
    execBudgetClear r s = s.deviceRequest 0x22 0 r fun t => (t.setBudget t.budget.cleared).answer .ok := rfl

theorem exec_budgetClear (r : Req) (s : State) : exec (.budgetClear r) s = execBudgetClear r s := rfl

/-- With consistent sums the recomputing sets each cleared flag by its condition alone and keeps the sums and headrooms. -/
theorem Budget.resum_cleared (sums : b.SumsOk) : b.cleared.resum = { b with
    drawOver := decide (b.inputCeiling < b.committedDraw)
    supplyOver := decide (b.supplyCeiling < b.committedSupply) } := by
  obtain ⟨draw, supply, drawLeft, supplyLeft, -, -⟩ := sums
  simp only [Budget.resum, Budget.cleared, ← draw, ← supply, ← drawLeft, ← supplyLeft, Bool.false_or]

/-- From cleared flags, every flag that stands after the recomputing has passed to set. -/
theorem Budget.cleared_passesOver_iff (b : Budget) : b.cleared.PassesOver ↔
    b.cleared.resum.drawOver = true ∨ b.cleared.resum.supplyOver = true := by
  simp [Budget.PassesOver, Budget.cleared]

/-- Settles O54: the request acts on the cleared flags, and the recomputing raises the notice exactly when one of them
passes to set again. -/
theorem budgetClearShowsWhatStillHolds : Obligations.BudgetClearShowsWhatStillHolds := by
  intro s num takes sums
  obtain ⟨engines, contracts, -, budget⟩ := State.setBudget_leaves (s := s.acting) s.budget.cleared
  obtain ⟨channels, rules, responses⟩ := State.setBudget_leaves_rest s.acting s.budget.cleared
  have passes_iff : s.budget.cleared.PassesOver ↔ (s.acting.setBudget s.budget.cleared).budget.drawOver = true ∨
      (s.acting.setBudget s.budget.cleared).budget.supplyOver = true := by
    rw [budget]
    exact s.budget.cleared_passesOver_iff
  refine ⟨(s.acting.setBudget s.budget.cleared).respond ⟨.device, num, 0x22, .ok, []⟩, ?completes,
    budget.trans (Budget.resum_cleared sums), ?answered, fun isSet => ?raised, fun drawClear supplyClear => ?silent,
    contracts, engines, channels, rules⟩
  case completes =>
    rw [exec_budgetClear, execBudgetClear_eq]
    exact State.deviceRequest_framed takes 0x22 num [] _
  case answered => exact congrArg (· ++ _) (responses.trans s.acting_responses)
  case raised => exact State.notice_mem_setBudget (passes_iff.2 isSet)
  case silent =>
    have stays : ¬ s.budget.cleared.PassesOver := fun passes =>
      (passes_iff.1 passes).elim (Bool.eq_false_iff.1 drawClear) (Bool.eq_false_iff.1 supplyClear)
    calc (s.acting.setBudget s.budget.cleared).link.notices
      _ = s.acting.link.notices := by rw [State.setBudget_of_not_passesOver stays]
      _ = s.link.notices := s.acting_notices

end Sys2Proof.Machine
end

section
/-! SUPPORT. Proofs for chapter 12, the character layouts: the check register character by character, and what the receivers of
both serial protocols find where the check character differs. -/

namespace Sys2Proof.Machine

/-! ### The check register (R178) -/

/-- R178: one shift of the check register, by its bit 7. -/
def shiftByBit7 (r : Byte) : Byte := if r.getLsbD 7 then (r <<< 1) ^^^ 0x07 else r <<< 1

theorem crcShift_eq_shiftByBit7 : crcShift = shiftByBit7 := by
  funext r
  rw [crcShift, shiftByBit7, BitVec.msb_eq_getLsbD_last]

/-- A function repeated as often as a range is long is the fold over it that disregards its members. -/
theorem repeat_eq_foldl_range {α : Type} (f : α → α) (n : Nat) (a : α) :
    Nat.repeat f n a = (List.range n).foldl (fun x _ => f x) a := by
  induction n with
  | zero => rfl
  | succ n ih => rw [List.range_succ, List.foldl_append, ← ih]; rfl

theorem crcStep_eq_foldl (r c : Byte) : crcStep r c = (List.range 8).foldl (fun x _ => shiftByBit7 x) (r ^^^ c) := by
  rw [crcStep, repeat_eq_foldl_range, crcShift_eq_shiftByBit7]

@[simp] theorem crc_nil : crc [] = 0xFF := rfl

/-- R178: a further character takes the register one step on. -/
@[simp] theorem crc_append_singleton (cs : List Byte) (c : Byte) : crc (cs ++ [c]) = crcStep (crc cs) c := by
  simp only [crc, List.foldl_append, List.foldl_cons, List.foldl_nil]

/-- R178: the rule's example after the header of STATUS_Q with tag 0. -/
theorem crc_statusQ_header : crc [0x10] = 0x83 := by decide

/-- R178: the rule's example after the length character as well, one step on. -/
theorem crc_statusQ : crc [0x10, 0x00] = 0x80 :=
  calc crc [0x10, 0x00]
    _ = crcStep (crc [0x10]) 0x00 := crc_append_singleton [0x10] 0x00
    _ = crcStep 0x83 0x00 := by rw [crc_statusQ_header]
    _ = 0x80 := by decide

/-! ### The receivers' comparison (R22, R158) -/

/-- R22 test 2, R23: a contract frame whose check differs is malformed, with no kind. -/
theorem validate_of_check_ne {raw : List Byte} {check : Byte} (differs : check ≠ crc raw) :
    validate (raw ++ [check]) = .malformed none := by
  unfold validate
  rw [List.dropLast_concat, List.getLast?_concat]
  match raw with
  | [] | [_] => rfl
  | h :: len :: body => exact if_neg differs.symm

/-- R22 test 2: a contract frame found well-formed carries the check of its other characters. -/
theorem check_eq_of_validate_wellFormed {raw : List Byte} {check : Byte} {f : Frame}
    (found : validate (raw ++ [check]) = .wellFormed f) : check = crc raw :=
  Decidable.byContradiction fun differs => Verdict.noConfusion ((validate_of_check_ne differs).symm.trans found)

/-- R158: a link frame whose check differs is malformed at its end. -/
theorem linkMalformed_of_check_ne {raw : List Byte} {check : Byte} (differs : check ≠ crc raw) :
    linkMalformed (raw ++ [check]) = true := by
  unfold linkMalformed
  rw [List.dropLast_concat, List.getLast?_concat]
  match raw with
  | [] | [_] => rfl
  | h :: n :: body => simp [beq_eq_false_iff_ne.2 differs.symm]

/-- R157: a character as the link sends it has even parity and a high stop bit. -/
@[simp] theorem linkChar_bad (b : Byte) : (linkChar b).bad = false := by
  simp [linkChar, LinkChar.bad]

theorem any_bad_map_linkChar (cs : List Byte) : (cs.map linkChar).any LinkChar.bad = false := by
  simp [List.any_eq_false]

theorem map_data_map_linkChar (cs : List Byte) : (cs.map linkChar).map LinkChar.data = cs := by
  rw [List.map_map]
  exact List.map_id cs

/-- R157, R158: a frame of sound characters, as long as its length character says, is judged at its end from its data. -/
theorem judgeLink_map_linkChar {cs : List Byte} {n : Byte} (second : cs[1]? = some n) (short : n.toNat ≤ 60)
    (full : cs.length = n.toNat + 3) :
    judgeLink (cs.map linkChar) = if linkMalformed cs = true then some true else none := by
  have expected : (((cs.map linkChar)[1]?.map fun c => c.data.toNat).getD 0) + 3 = n.toNat + 3 := by
    simp [second, linkChar]
  have fits : ¬ (63 < n.toNat + 3 ∨ (cs.map linkChar).dropLast.any LinkChar.bad = true) := by
    rw [← List.map_dropLast, any_bad_map_linkChar]
    simp only [Bool.false_eq_true, or_false]
    omega
  simp only [judgeLink, expected, if_neg fits, any_bad_map_linkChar, map_data_map_linkChar, List.length_map, full,
    true_and, Bool.false_eq_true, if_false]

/-- The length character of a body of at most 255 characters carries its length. -/
theorem byte_toNat_of_lt {n : Nat} (fits : n < 256) : (byte n).toNat = n :=
  Nat.mod_eq_of_lt fits

/-- R158: the characters of a link frame whose check differs are found malformed at the frame's end. -/
theorem judgeLink_linkRaw_of_check_ne (addr : Nat) (k : LinkKind) {body : List Byte} (short : body.length ≤ 60) {check : Byte}
    (differs : check ≠ crc (linkRaw addr k body)) :
    judgeLink ((linkRaw addr k body ++ [check]).map linkChar) = some true := by
  have carried : (byte body.length).toNat = body.length := byte_toNat_of_lt (by omega)
  have second : (linkRaw addr k body ++ [check])[1]? = some (byte body.length) := rfl
  have full : (linkRaw addr k body ++ [check]).length = (byte body.length).toNat + 3 := by
    simp [carried, linkRaw]
  rw [judgeLink_map_linkChar second (by omega) full, if_pos (linkMalformed_of_check_ne differs)]

/-- Settles O14: the register's step as a fold, the frames as they are defined, and each receiver's comparison. -/
theorem checkCharacterIsTheManuals : Obligations.CheckCharacterIsTheManuals := by
  refine ⟨crc_nil, fun cs c => (crc_append_singleton cs c).trans (crcStep_eq_foldl _ c), fun _ => rfl,
    fun addr k body => ⟨rfl, rfl, fun short _ differs => judgeLink_linkRaw_of_check_ne addr k short differs⟩,
    fun _ _ _ found => check_eq_of_validate_wellFormed found, fun _ _ differs => validate_of_check_ne differs, ?statusQ⟩
  case statusQ =>
    exact ⟨crc_statusQ_header, crc_statusQ, congrArg (fun check => [0x10, 0x00, check]) crc_statusQ⟩

end Sys2Proof.Machine
end

section
/-! SUPPORT. Proofs of what every step keeps: each property is kept by every move (`step_keeps`), and so by every step. -/

namespace Sys2Proof.Machine

/-! ### The budget (R122 to R129) -/

theorem Budget.resum_sumsOk (b : Budget) : b.resum.SumsOk := by
  refine ⟨rfl, rfl, rfl, rfl, fun above => ?_, fun above => ?_⟩
  · simpa [Budget.resum] using Or.inr above
  · simpa [Budget.resum] using Or.inr above

theorem Budget.initial_sumsOk : Budget.initial.SumsOk := by decide

theorem Budget.initial_orderOk : Budget.initial.OrderOk := by
  refine ⟨List.nodup_nil, fun l => ?_⟩
  cases l <;> rfl

theorem Budget.initial_rankOk : Budget.initial.RankOk := by decide

@[simp] theorem State.setOptions_budget (s : State) (l : Line) (o : Options) :
    (s.onContract l fun c => { c with options := o }).budget = s.budget := rfl

/-- A move changes the budget to one whose sums are recomputed, or leaves them. -/
theorem Move.sumsOk {sc : Option Line → Prop} {s t : State} (m : Move sc s t) (h : s.budget.SumsOk) : t.budget.SumsOk := by
  cases m with
  | budget b | drawBudget b => exact b.resum_sumsOk
  | resetBlocks | powerOn => exact Budget.initial_sumsOk
  | _ => exact h

/-- A move keeps the form of the grant order list and of the rank. -/
theorem Move.orderOk_rankOk {sc : Option Line → Prop} {s t : State} (m : Move sc s t)
    (h : s.budget.OrderOk ∧ s.budget.RankOk) : t.budget.OrderOk ∧ t.budget.RankOk := by
  cases m with
  | budget b hb | drawBudget b hb => exact ⟨hb.order h.1, hb.rank h.2⟩
  | resetBlocks | powerOn => exact ⟨Budget.initial_orderOk, Budget.initial_rankOk⟩
  | _ => exact h

/-! ### Allocations (R128, R129, R137) -/

/-- The recomputation reads the baseline currents of the lines with a draw copy alone. -/
theorem Budget.share_congr (b : Budget) {f g : Line → Nat} (same : ∀ l, f l = g l ∨ b.drawCopy.get l = none)
    (ls : List Line) (r : Nat) : b.share f ls r = b.share g ls r := by
  induction ls generalizing r with
  | nil => rfl
  | cons l ls ih =>
    cases copy : b.drawCopy.get l with
    | none => simp only [Budget.share, copy, ih]
    | some c =>
      have base : f l = g l := (same l).resolve_right (by simp [copy])
      simp only [Budget.share, copy, base, ih]

theorem Budget.floors_congr (b : Budget) {f g : Line → Nat} (same : ∀ l, f l = g l ∨ b.drawCopy.get l = none) :
    b.floors f = b.floors g := by
  have each : ∀ l, ((b.drawCopy.get l).map fun c => c.floor (f l)).getD 0 =
      ((b.drawCopy.get l).map fun c => c.floor (g l)).getD 0 := fun l => by
    rcases same l with base | copy
    · rw [base]
    · rw [copy]; rfl
  simp only [Budget.floors, each]

/-- The recomputation reads the draw copies alone. -/
theorem Budget.share_of_drawCopy {b c : Budget} (same : c.drawCopy = b.drawCopy) (f : Line → Nat) (ls : List Line) (r : Nat) :
    c.share f ls r = b.share f ls r := by
  induction ls generalizing r with
  | nil => rfl
  | cons l ls ih => simp only [Budget.share, same, ih]

/-- With no draw copy there is no allocation. -/
theorem Budget.share_of_none {b : Budget} (none : ∀ l, b.drawCopy.get l = none) (f : Line → Nat) (ls : List Line) (r : Nat) :
    b.share f ls r = .all .none := by
  induction ls generalizing r with
  | nil => rfl
  | cons l ls ih => simp only [Budget.share, none, ih]

/-- The allocations stay current where neither the budget's part of them, the baseline currents nor the channels' copies change. -/
theorem State.AllocationsCurrent.of_same {s t : State} (h : s.AllocationsCurrent) (alloc : t.budget.alloc = s.budget.alloc)
    (draw : s.budget.DrawSame t.budget) (base : ∀ l, t.baseOf l = s.baseOf l ∨ s.budget.drawCopy.get l = none)
    (channels : ∀ l, (t.channel l).allocation = (s.channel l).allocation) : t.AllocationsCurrent := by
  obtain ⟨copy, ceiling, rank⟩ := draw
  refine ⟨?_, fun l => ?_⟩
  · have shared := Budget.share_of_drawCopy copy t.baseOf
    have floors : t.budget.floors t.baseOf = s.budget.floors t.baseOf := by simp only [Budget.floors, copy]
    rw [alloc, h.1, shared, floors, ceiling, rank, s.budget.floors_congr base, s.budget.share_congr base]
  · rw [channels, alloc, h.2]

theorem State.reallocate_current (s : State) : s.reallocate.AllocationsCurrent :=
  ⟨(Budget.share_of_drawCopy (b := s.budget) (c := s.reallocate.budget) rfl s.baseOf _ _).symm, fun l => by cases l <;> rfl⟩

theorem State.baseOf_onContract {s : State} {l : Line} {f : Contract → Contract}
    (base : (f (s.contract l)).options.baseline = s.baseOf l) (m : Line) : (s.onContract l f).baseOf m = s.baseOf m := by
  unfold State.baseOf
  rw [State.onContract_contract]
  split
  · next same => rw [same]; exact base
  · rfl

/-- A state with no draw copy, and no allocation in its budget or its channels. -/
theorem State.current_of_none {s : State} (copy : s.budget.drawCopy = .all none) (alloc : s.budget.alloc = .all none)
    (channels : ∀ l, (s.channel l).allocation = none) : s.AllocationsCurrent := by
  refine ⟨?_, fun l => ?_⟩
  · rw [alloc, Budget.share_of_none (fun l => by rw [copy, Four.get_all])]
  · rw [channels, alloc, Four.get_all]
    rfl

theorem State.resetBlocks_current (s : State) : s.resetBlocks.AllocationsCurrent :=
  State.current_of_none rfl rfl fun l => by cases l <;> rfl

/-- A move recomputes the allocations or leaves everything they rest on. -/
theorem Move.allocationsCurrent {sc : Option Line → Prop} {s t : State} (m : Move sc s t) (h : s.AllocationsCurrent) :
    t.AllocationsCurrent := by
  have kept : s.budget.DrawSame s.budget := ⟨rfl, rfl, rfl⟩
  cases m with
  | rebase | drawBudget => exact State.reallocate_current _
  | resetBlocks => exact s.resetBlocks_current
  | powerOn => exact State.current_of_none rfl rfl fun l => by cases l <;> rfl
  | contract l f options =>
    exact h.of_same rfl kept (fun m => .inl (State.baseOf_onContract (congrArg Options.baseline options) m)) fun _ => rfl
  | options l o _ _ base =>
    refine h.of_same rfl kept (fun m => ?_) fun _ => rfl
    by_cases same : m = l
    · subst same
      exact base.imp_left fun b => (State.baseOf_onContract (l := m) (f := fun c => { c with options := o }) b m)
    · exact .inl (by simp [State.baseOf, State.onContract_contract, same])
  | channel l f allocation =>
    refine h.of_same rfl kept (fun _ => .inl rfl) fun m => ?_
    rw [State.onChannel_channel]
    split
    · next same => rw [same]; exact allocation
    · rfl
  | budget b change draw => exact h.of_same change.alloc draw (fun _ => .inl rfl) fun _ => rfl
  | _ => exact h.of_same rfl kept (fun _ => .inl rfl) fun _ => rfl

/-- Settles O6: each of the three invariants is kept by every move. -/
theorem budgetStaysConsistent : Obligations.BudgetStaysConsistent :=
  ⟨fun _ _ h => step_keeps (P := fun s => s.budget.SumsOk) (fun _ _ m => m.sumsOk) (fun _ _ _ k => k) (fun _ _ k => k) h,
    fun _ _ h => step_keeps (P := fun s => s.budget.OrderOk ∧ s.budget.RankOk) (fun _ _ m => m.orderOk_rankOk)
      (fun _ _ _ k => k) (fun _ _ k => k) h,
    fun _ _ h => step_keeps (P := State.AllocationsCurrent) (fun _ _ m => m.allocationsCurrent) (fun _ _ _ k => k)
      (fun _ _ k => k) h⟩

/-! ### The system link unit (R160 to R176) -/

theorem Move.noticesDistinct {sc : Option Line → Prop} {s t : State} (m : Move sc s t)
    (h : NoticesDistinct s.link.notices) : NoticesDistinct t.link.notices := by
  cases m with
  | link f change => exact change.notices h
  | resetBlocks | powerOn => exact List.nodup_nil
  | _ => exact h

theorem Move.verdictsDistinct_quietEmpty {sc : Option Line → Prop} {s t : State} (m : Move sc s t)
    (h : VerdictsDistinct s.link.verdicts ∧ s.link.quietEmpty) : VerdictsDistinct t.link.verdicts ∧ t.link.quietEmpty := by
  cases m with
  | link f change => exact ⟨change.verdicts h.1, change.quiet h.2⟩
  | resetBlocks | powerOn => exact ⟨List.nodup_nil, fun _ => rfl⟩
  | _ => exact h

theorem Move.responses_wakeRests {sc : Option Line → Prop} {s t : State} (m : Move sc s t)
    (h : s.link.responses.length ≤ 4 ∧ s.link.wakeRests) : t.link.responses.length ≤ 4 ∧ t.link.wakeRests := by
  cases m with
  | link f change => exact ⟨change.responses.trans h.1, change.wake h.2⟩
  | resetBlocks | powerOn => exact ⟨Nat.zero_le 4, fun _ => ⟨rfl, rfl⟩⟩
  | _ => exact h

/-- R160: a RESPONSE joins a queue of fewer than 4. -/
theorem State.respond_keeps_responses {s : State} (r : Response) (room : s.link.responses.length < 4)
    (h : s.link.responses.length ≤ 4 ∧ s.link.wakeRests) :
    (s.respond r).link.responses.length ≤ 4 ∧ (s.respond r).link.wakeRests :=
  ⟨by simpa [State.respond] using room, h.2⟩

/-- Settles O7: every move keeps the link unit legal, and a RESPONSE is queued only where the queue has room. -/
theorem linkUnitStaysLegal : Obligations.LinkUnitStaysLegal :=
  ⟨fun _ _ h => step_keeps (P := fun s => NoticesDistinct s.link.notices) (fun _ _ m => m.noticesDistinct)
      (fun _ _ _ k => k) (fun _ _ k => k) h,
    fun _ _ h => step_keeps (P := fun s => VerdictsDistinct s.link.verdicts ∧ s.link.quietEmpty)
      (fun _ _ m => m.verdictsDistinct_quietEmpty) (fun _ _ _ k => k) (fun _ _ k => k) h,
    fun _ _ h => step_keeps (P := fun s => s.link.responses.length ≤ 4 ∧ s.link.wakeRests)
      (fun _ _ m => m.responses_wakeRests) (fun _ r => State.respond_keeps_responses r) (fun _ _ k => k) h⟩

/-! ### Queues, roles and counts (R9, R60, R62, R112, R149, R152) -/

theorem Move.queuesBounded {sc : Option Line → Prop} {s t : State} (m : Move sc s t) (h : s.QueuesBounded) :
    t.QueuesBounded := by
  cases m with
  | engine l f bound =>
    intro m
    rw [State.onEngine_engine]
    split
    · exact bound.trans (max_le le_rfl (h l))
    · exact h m
  | tick => intro l; simpa [State.tick, State.engine] using h l
  | powerOn => intro l; simp [State.powerOn, State.engine, LineEngine.powerOn]
  | _ => exact h

theorem RoleSet.within_refl (r : RoleSet) : r.within r = true := by
  obtain ⟨draw, supply⟩ := r
  cases draw <;> cases supply <;> rfl

theorem resetContract_options (st : Straps) (present : Bool) :
    (resetContract st present).options = .default st := by
  unfold resetContract
  split_ifs <;> rfl

theorem State.resetBlocks_contract (s : State) (l : Line) :
    s.resetBlocks.contract l = resetContract (s.straps.get l) (s.engine l).present := by
  cases l <;> rfl

/-- The permitted roles of a line after its options are stored. -/
theorem State.rolesStrapped_storeOptions {s : State} {l : Line} {o : Options}
    (within : o.roles.within (s.straps.get l).roles = true) (h : s.RolesStrapped) :
    (s.onContract l fun c => { c with options := o }).RolesStrapped := by
  intro m
  rw [State.onContract_contract]
  split
  · next same => rw [same]; exact within
  · exact h m

theorem Move.rolesStrapped {sc : Option Line → Prop} {s t : State} (m : Move sc s t) (h : s.RolesStrapped) :
    t.RolesStrapped := by
  cases m with
  | contract l f options =>
    intro m
    rw [State.onContract_contract]
    split
    · next same => rw [same, options]; exact h l
    · exact h m
  | options l o within | rebase l o within => exact State.rolesStrapped_storeOptions within h
  | resetBlocks =>
    intro l
    rw [State.resetBlocks_contract, resetContract_options]
    exact RoleSet.within_refl _
  | powerOn pins =>
    intro l
    simpa [State.powerOn, State.contract, Contract.fresh, Options.default] using RoleSet.within_refl _
  | _ => exact h

theorem State.blank_countsBounded {s : State} (rules : s.rules = Vector.replicate 32 .blank)
    (captures : s.captures = .all .clear) (strikes : s.strikes = .all 0) : s.CountsBounded := by
  refine ⟨fun i => ?_, fun l => ?_⟩
  · simp [rules, Vector.get, RuleEntry.blank]
  · simp [captures, strikes, Capture.clear]

theorem Move.countsBounded {sc : Option Line → Prop} {s t : State} (m : Move sc s t) (h : s.CountsBounded) :
    t.CountsBounded := by
  obtain ⟨hits, lines⟩ := h
  cases m with
  | rules i hi e bound =>
    refine ⟨fun j => ?_, lines⟩
    show ((s.rules.set i e hi)[j.val]).hits ≤ 65535
    rw [Vector.getElem_set]
    split
    · exact bound
    · exact hits j
  | capture l c bound =>
    refine ⟨hits, fun m => ⟨?_, (lines m).2⟩⟩
    show ((s.captures.set l c).get m).count ≤ 255
    rw [Four.get_set]
    split
    · exact bound.trans (max_le le_rfl (lines l).1)
    · exact (lines m).1
  | strikes l n bound =>
    refine ⟨hits, fun m => ⟨(lines m).1, ?_⟩⟩
    show (s.strikes.set l n).get m ≤ 255
    rw [Four.get_set]
    split
    · exact bound
    · exact (lines m).2
  | resetBlocks | powerOn => exact State.blank_countsBounded rfl rfl rfl
  | _ => exact ⟨hits, lines⟩

/-- Settles O8: every move keeps each of the three bounds. -/
theorem queuesRolesAndCountsStayBounded : Obligations.QueuesRolesAndCountsStayBounded :=
  fun _ _ h => step_keeps (P := fun s => s.QueuesBounded ∧ s.RolesStrapped ∧ s.CountsBounded)
    (fun _ _ m k => ⟨m.queuesBounded k.1, m.rolesStrapped k.2.1, m.countsBounded k.2.2⟩) (fun _ _ _ k => k)
    (fun _ _ k => k) h

/-! ### The command of a step (sections 00 and 95) -/

/-- A command runs on the queue's rest. -/
theorem step_of_pending {s : State} {c : Instr} {rest : List Instr} (front : s.pending = c :: rest) :
    step s = exec c { s with pending := rest } := by
  rw [step, front]

/-- A command answers the state that its effect leads to. -/
theorem exec_next {c : Instr} {s t : State} (runs : exec c s = .next t) :
    Effect (scopeOf c.line?) s t ∧ ∀ m, s.LineSound m → t.LineSound m := by
  obtain ⟨u, answers, effect, sound⟩ := exec_effect c s
  obtain rfl : u = t := by
    rw [answers] at runs
    exact Host.Outcome.next.inj runs
  exact ⟨effect, sound⟩

/-- Settles O9: every command keeps each line sound, and idling leaves the state. -/
theorem pathFollowsTheContractState : Obligations.PathFollowsTheContractState := by
  intro s t sound runs l
  cases queue : s.pending with
  | nil =>
    rw [step, queue] at runs
    cases runs
    exact sound l
  | cons c rest =>
    rw [step_of_pending queue] at runs
    exact (exec_next runs).2 l (sound l)

/-- Settles O10: the effect of a command about one line has that line for its scope. -/
theorem linesDoNotInterfere : Obligations.LinesDoNotInterfere := by
  intro c l s t about runs
  have effect := (exec_next runs).1
  rw [about] at effect
  exact effect.frame

/-- Settles O1. -/
theorem stepRunsTheFrontCommand : Obligations.StepRunsTheFrontCommand :=
  fun _ _ _ front => step_of_pending front

/-- Settles O2: no move changes the queue of commands. -/
theorem queueIsOnlyTakenFrom : Obligations.QueueIsOnlyTakenFrom := by
  refine ⟨fun s empty => by rw [step, empty], fun c s t runs => ?_⟩
  refine (exec_next runs).1.keeps (P := fun u => u.pending = s.pending) (fun u v m kept => ?_) (fun _ _ _ kept => kept) rfl
  rw [← kept]
  cases m <;> rfl

/-! ### Reset (sections 1.10 to 10.7) -/

/-- Settles O3: the manual's values are those of the definitions. -/
theorem resetValuesAreTheManuals : Obligations.ResetValuesAreTheManuals := by
  refine ⟨rfl, rfl, by decide, by decide, by decide, by decide, by decide, fun l => ?_⟩
  cases l <;> decide

theorem State.reset_settled (l : Line) : State.reset.LineSettled l := by
  cases l <;> decide

/-- Settles O5. -/
theorem keptPropertiesHoldAtReset : Obligations.KeptPropertiesHoldAtReset := by
  refine ⟨Budget.initial_sumsOk, Budget.initial_orderOk, Budget.initial_rankOk,
    State.current_of_none rfl rfl fun l => by cases l <;> rfl, List.nodup_nil, List.nodup_nil, fun _ => rfl,
    fun _ => ⟨rfl, rfl⟩, State.blank_countsBounded rfl rfl rfl, fun l => by cases l <;> rfl,
    fun l => by cases l <;> exact Nat.zero_le 4, fun l => ?_⟩
  obtain ⟨tripped, command, role⟩ := State.reset_settled l
  exact ⟨⟨tripped, command, role⟩, role, fun trips => absurd (tripped.symm.trans trips) Bool.false_ne_true, .inr command⟩

/-- R60: the strap table, row by row. -/
theorem Straps.latch_eq (p : ResetPins) : Straps.latch p =
    (if p.a = false ∧ p.b = false then .disabled
    else if p.a = false ∧ p.b = true then .drawOnly
    else if p.a = true ∧ p.b = false then .supplyOnly
    else .both) := by
  obtain ⟨a, b, presence⟩ := p
  cases a <;> cases b <;> rfl

/-- Settles O4: every block but the straps, the presence levels and the roles is that of `State.reset`. -/
theorem powerOnResetLatchesStraps : Obligations.PowerOnResetLatchesStraps := by
  intro pins s
  refine ⟨_, rfl, rfl, rfl, rfl, rfl, rfl, rfl, rfl, rfl, rfl, rfl, fun l => ?_⟩
  rw [← Straps.latch_eq]
  cases l <;> exact ⟨rfl, rfl, rfl⟩

end Sys2Proof.Machine
end

section
/-! SUPPORT. Proofs for the shared operations that no line's state is behind: the allocations (R128), the table's answer (R109),
the capture record (R150), and the wire levels (R1, R2, R157). -/

namespace Sys2Proof.Machine

/-! ### The allocations of draw power (R128) -/

/-- R122: a well-formed rank holds the four lines in some order. -/
theorem Budget.RankOk.perm {b : Budget} (h : b.RankOk) : b.rank.Perm Line.everyLine := by
  have inside : b.rank ⊆ Line.everyLine := fun l _ => by cases l <;> decide
  exact (List.Nodup.subperm h.1 inside).perm_of_length_le (by rw [h.2]; rfl)

/-- R128 step 5: an allocation is the floor and a share of the rest of the agreed power, and its current follows. -/
def Allocation.Shares (a : Allocation) (c : DrawCopy) (base : Nat) : Prop :=
  ∃ x ≤ Machine.power c.voltage c.current - c.floor base,
    a = ⟨c.floor base + x, Machine.current (c.floor base + x) c.voltage⟩

theorem DrawCopy.floor_le (c : DrawCopy) (base : Nat) : c.floor base ≤ power c.voltage c.current := min_le_left _ _

/-- What the sharing gives a line of the rank that has a draw copy, and that it gives nothing else. -/
theorem Budget.share_get (b : Budget) (base : Line → Nat) (ls : List Line) (r : Nat) (l : Line) :
    (l ∈ ls → ∀ c, b.drawCopy.get l = some c → ∃ a, (b.share base ls r).get l = some a ∧ a.Shares c (base l)) ∧
    (l ∉ ls ∨ b.drawCopy.get l = none → (b.share base ls r).get l = none) := by
  induction ls generalizing r with
  | nil => simp [Budget.share]
  | cons m ls ih =>
    cases copy : b.drawCopy.get m with
    | none =>
      simp only [Budget.share, copy]
      refine ⟨fun mem c has => (ih r).1 ?_ c has, fun out => (ih r).2 (out.imp_left fun h k => h (List.mem_cons_of_mem _ k))⟩
      exact (List.mem_cons.1 mem).resolve_left fun same => by simp [same, copy] at has
    | some c =>
      simp only [Budget.share, copy, Four.get_set]
      by_cases same : l = m
      · subst same
        simp only [if_true]
        refine ⟨fun _ d has => ?_, fun out => absurd copy (by simp_all)⟩
        obtain rfl : c = d := Option.some.inj (copy ▸ has)
        exact ⟨_, rfl, _, min_le_left _ _, rfl⟩
      · simp only [if_neg same]
        refine ⟨fun mem => (ih _).1 ((List.mem_cons.1 mem).resolve_left same),
          fun out => (ih _).2 (out.imp_left fun h k => h (List.mem_cons_of_mem _ k))⟩

/-- The power a line is allocated, and its floor: 0 where it has none. -/
def allocated (alloc : Four (Option Allocation)) (l : Line) : Nat := ((alloc.get l).map Allocation.power).getD 0

def Budget.floorOf (b : Budget) (base : Line → Nat) (l : Line) : Nat :=
  ((b.drawCopy.get l).map fun c => c.floor (base l)).getD 0

theorem allocated_set_of_notMem (alloc : Four (Option Allocation)) {l : Line} (a : Option Allocation) {ls : List Line}
    (out : l ∉ ls) : (ls.map (allocated (alloc.set l a))).sum = (ls.map (allocated alloc)).sum := by
  refine congrArg List.sum (List.map_congr_left fun m mem => ?_)
  have other : m ≠ l := fun same => out (same ▸ mem)
  rw [allocated, allocated, Four.get_set_of_ne _ _ other]

theorem allocated_set_self (alloc : Four (Option Allocation)) (l : Line) (a : Allocation) :
    allocated (alloc.set l (some a)) l = a.power := by
  rw [allocated, Four.get_set_self]; rfl

/-- R128: down the rank no more is shared than the floors and the remainder. -/
theorem Budget.sum_share_le (b : Budget) (base : Line → Nat) {ls : List Line} (once : ls.Nodup) (r : Nat) :
    (ls.map (allocated (b.share base ls r))).sum ≤ (ls.map (b.floorOf base)).sum + r := by
  induction ls generalizing r with
  | nil => exact Nat.zero_le _
  | cons l ls ih =>
    obtain ⟨out, once⟩ := List.nodup_cons.1 once
    simp only [List.map_cons, List.sum_cons]
    cases copy : b.drawCopy.get l with
    | none =>
      have nothing : allocated (b.share base ls r) l = 0 := by
        rw [allocated, (b.share_get base ls r l).2 (.inr copy)]; rfl
      have floor : b.floorOf base l = 0 := by rw [Budget.floorOf, copy]; rfl
      simp only [Budget.share, copy, nothing, floor]
      have := ih once r
      omega
    | some c =>
      have floor : b.floorOf base l = c.floor (base l) := by rw [Budget.floorOf, copy]; rfl
      simp only [Budget.share, copy, allocated_set_of_notMem _ _ out, allocated_set_self, floor]
      have := ih once (r - min (power c.voltage c.current - c.floor (base l)) r)
      omega

/-- Settles O11: by the sharing's induction down the rank, which holds every line once. -/
theorem allocationsKeepTheCeiling : Obligations.AllocationsKeepTheCeiling := by
  intro b base rank alloc
  have each := b.share_get base b.rank (b.inputCeiling - b.floors base)
  have ranked : ∀ l, l ∈ b.rank := fun l => rank.perm.mem_iff.2 (by cases l <;> decide)
  refine ⟨fun l => ?_, fun l c a copy has => ?_, fun fits => ?_⟩
  · cases copy : b.drawCopy.get l with
    | none => simp only [alloc, (each l).2 (.inr copy), Option.isSome_none]
    | some c =>
      obtain ⟨a, has, -⟩ := (each l).1 (ranked l) c copy
      simp only [alloc, has, Option.isSome_some]
  · obtain ⟨d, given, x, le, rfl⟩ := (each l).1 (ranked l) c copy
    obtain rfl := Option.some.inj (has.symm.trans given)
    have floor := c.floor_le (base l)
    exact ⟨Nat.le_add_right _ _, by simp only [power] at *; omega, rfl⟩
  · have shared := b.sum_share_le base rank.1 (b.inputCeiling - b.floors base)
    have powers := (rank.perm.map (allocated alloc)).sum_eq
    have floors := (rank.perm.map (b.floorOf base)).sum_eq
    calc (Line.everyLine.map (allocated alloc)).sum
      _ ≤ (b.rank.map (b.floorOf base)).sum + (b.inputCeiling - b.floors base) := powers ▸ shared
      _ = b.floors base + (b.inputCeiling - b.floors base) := by rw [floors]; rfl
      _ = b.inputCeiling := Nat.add_sub_cancel' fits

/-! ### The table's answer (R109, R112, R118) -/

/-- R109: the winner is the first entry that meets the query. -/
theorem winner_eq_some {rules : Vector RuleEntry 32} {q : Query} {low : Bool} {i : Fin 32}
    (meets : (rules.get i).meets q low = true) (first : ∀ j < i, (rules.get j).meets q low = false) :
    winner rules q low = some i := by
  refine List.find?_eq_some_iff_getElem.2 ⟨meets, i.val, by simp, by simp, fun j before => ?_⟩
  simpa using first ⟨j, by omega⟩ before

theorem winner_eq_none {rules : Vector RuleEntry 32} {q : Query} {low : Bool}
    (none : ∀ i : Fin 32, (rules.get i).meets q low = false) : winner rules q low = .none :=
  List.find?_eq_none.2 fun i _ => by simp [none i]

theorem State.answerOf_of_winner {s : State} {q : Query} {i : Fin 32} (wins : winner s.rules q s.link.batteryLow = some i) :
    s.answerOf q = ⟨(s.rules.get i).action, i.val, (s.rules.get i).fallback, (s.rules.get i).clamp⟩ := by
  rw [State.answerOf, wins]

/-- R112: a query steps the winner's count, whether it reports or not. -/
theorem State.afterQuery_rules {s : State} {q : Query} {i : Fin 32} (wins : winner s.rules q s.link.batteryLow = some i) :
    (s.afterQuery q).rules = s.rules.set i.val (s.rules.get i).hit i.isLt := by
  rw [State.afterQuery, wins]
  dsimp only
  split <;> rfl

theorem State.afterQuery_of_none {s : State} {q : Query} (none : winner s.rules q s.link.batteryLow = .none) :
    s.afterQuery q = s := by
  rw [State.afterQuery, none]

/-- R118: a winner that reports and does not forward raises its REPORT. -/
theorem State.afterQuery_told {s : State} {q : Query} {i : Fin 32} (wins : winner s.rules q s.link.batteryLow = some i)
    (reports : (s.rules.get i).report = true) (decides : (s.rules.get i).action ≠ .forward) :
    (s.afterQuery q).Told q.line s.now
      (.report i.val (s.rules.get i).action q.kind q.vLow q.vHigh q.power q.point) := by
  rw [State.afterQuery, wins]
  dsimp only
  rw [if_pos ⟨reports, decides⟩]
  exact State.mem_raise_notices { s with rules := s.rules.set i.val (s.rules.get i).hit i.isLt } _ _

/-- Settles O13. -/
theorem firstMatchWinsAndCounts : Obligations.FirstMatchWinsAndCounts := by
  intro s q
  refine ⟨fun i meets first => ?_, fun none => ?_⟩
  · have wins := winner_eq_some meets first
    have rules := State.afterQuery_rules wins
    rw [State.answerOf_of_winner wins, rules]
    refine ⟨rfl, rfl, ?_, fun j other => ?_, State.afterQuery_told wins⟩
    · simp [Vector.get_eq_getElem, RuleEntry.hit]
    · rw [Vector.get_eq_getElem, Vector.getElem_set_ne _ _ (fun same => other (Fin.ext same.symm)), ← Vector.get_eq_getElem]
  · have lost := winner_eq_none none
    exact ⟨by rw [State.answerOf, lost], State.afterQuery_of_none lost⟩

/-! ### The capture record (R150) -/

theorem Capture.take_of_not_held {c : Capture} (free : c.held = false) (cause : Cause) (st : CState)
    (kind : Option FrameKind) (now : Time) : c.take cause st kind now = (⟨true, some cause, st, kind, now, false, 0⟩, true) := by
  simp [Capture.take, free]

theorem Capture.take_of_held {c : Capture} {old : Cause} (held : c.held = true) (holds : c.cause = some old) (cause : Cause)
    (st : CState) (kind : Option FrameKind) (now : Time) : c.take cause st kind now =
      if cause.cls.code < old.cls.code then (⟨true, some cause, st, kind, now, true, min 255 (c.count + 1)⟩, true)
      else ({ c with overlap := true, count := min 255 (c.count + 1) }, false) := by
  simp [Capture.take, held, holds]

/-- Settles O15. -/
theorem captureComparesFaults : Obligations.CaptureComparesFaults := by
  intro c cause st kind now
  refine ⟨fun free => Capture.take_of_not_held free .., fun old held holds severe => ?_, fun old held holds mild => ?_⟩
  · rw [Capture.take_of_held held holds, if_pos severe]
  · rw [Capture.take_of_held held holds, if_neg (Nat.not_lt.2 mild)]

/-! ### Wire levels (R1, R2, R157) -/

/-- The number of high cells as a sum over the cells. -/
theorem highCount_eq_sum (b : Byte) : highCount b = ((List.range 8).map fun i => (b.getLsbD i).toNat).sum := by
  unfold highCount
  induction List.range 8 with
  | nil => rfl
  | cons i is ih =>
    cases high : b.getLsbD i <;> simp [high, ih, Nat.add_comm]

/-- R2: in INVERSE cell k is the complement of bit 8 − k. -/
theorem getLsbD_flipByte (b : Byte) {i : Nat} (cell : i < 8) : (flipByte b).getLsbD i = !(b.getLsbD (7 - i)) := by
  rw [flipByte, BitVec.getLsbD_not, BitVec.getLsbD_reverse, BitVec.getMsbD]
  simp [cell]

theorem flipByte_flipByte (b : Byte) : flipByte (flipByte b) = b := by
  refine BitVec.eq_of_getLsbD_eq fun i cell => ?_
  rw [getLsbD_flipByte _ cell, getLsbD_flipByte _ (by omega), Bool.not_not]
  congr 1
  omega

/-- R2: what is written in a convention is read back in it. -/
theorem Convention.read_write (c : Convention) (b : Byte) : c.read (c.write b) = b := by
  cases c
  case inverse => exact flipByte_flipByte b
  all_goals rfl

/-- R1: the parity cell that makes a number of high levels even. -/
theorem even_add_parity (n : Nat) : (n + (n % 2 == 1).toNat) % 2 = 0 := by
  rcases Nat.mod_two_eq_zero_or_one n with h | h <;> simp [h, Nat.add_mod]

theorem WireChar.parityOk_iff (w : WireChar) : w.parityOk = true ↔ (highCount w.data + w.parity.toNat) % 2 = 0 := by
  simp [WireChar.parityOk]

/-- Settles O20. -/
theorem wireLevelsCarryCharacters : Obligations.WireLevelsCarryCharacters := by
  refine ⟨fun conv b => ⟨fun direct i => ?_, fun inverse i cell => ?_, ?_, conv.read_write b⟩, fun w => ?_, by decide,
    by decide, fun b => ⟨rfl, ?_⟩⟩
  · cases conv
    case inverse => exact absurd rfl direct
    all_goals rfl
  · subst inverse
    exact getLsbD_flipByte b cell
  · exact (WireChar.parityOk_iff _).2 (even_add_parity _)
  · rw [WireChar.parityOk_iff, highCount_eq_sum]
  · rw [← highCount_eq_sum]
    exact even_add_parity _

end Sys2Proof.Machine
end

section
/-! SUPPORT. Proofs for chapter 8, the watches: what each judgement of a sample leaves of a channel, and when a sample trips it
(R138 to R146). -/

namespace Sys2Proof.Machine

variable (ch : Channel) (x : Sample) (capped : Bool)

/-! ### The judgements, one by one -/

/-- The settle watch leaves everything but its run, its start and its report. -/
theorem Channel.judgeSettle_eq : ch.judgeSettle x = { ch with
    settleRun := (ch.judgeSettle x).settleRun
    settleStart := (ch.judgeSettle x).settleStart
    settleReport := (ch.judgeSettle x).settleReport } := by
  unfold Channel.judgeSettle
  repeat' split
  all_goals rfl

/-- R141: the overcurrent run after a sample. -/
def Channel.overcurrentAfter : Nat :=
  if ch.command.watch.overcurrent then
    if ch.command.limit + ch.command.limit * 10 / 100 < x.out then ch.overcurrentRun + 1 else 0
  else ch.overcurrentRun

/-- R142: the reverse run after a sample. -/
def Channel.reverseAfter : Nat :=
  if ch.command.watch.reverse then if x.current < -10 then ch.reverseRun + 1 else 0 else ch.reverseRun

/-- R143: the deviation run after a sample. -/
def Channel.deviationAfter : Nat :=
  match ch.command.watch.hold with
  | some ref => if inWindow 8 ref x.voltage then 0 else ch.deviationRun + 1
  | none => ch.deviationRun

theorem Channel.judgeOvercurrent_eq : ch.judgeOvercurrent x = { ch with overcurrentRun := ch.overcurrentAfter x } := by
  unfold Channel.judgeOvercurrent Channel.overcurrentAfter
  split <;> rfl

theorem Channel.judgeReverse_eq : ch.judgeReverse x = { ch with reverseRun := ch.reverseAfter x } := by
  unfold Channel.judgeReverse Channel.reverseAfter
  split <;> rfl

theorem Channel.judgeHold_eq : ch.judgeHold x = { ch with deviationRun := ch.deviationAfter x } := by
  unfold Channel.judgeHold Channel.deviationAfter
  split <;> simp_all

/-- R145: the energy total that a sample brings the meter to, and whether it completes a step of the running allowance. -/
def Channel.energyTotal : Nat := ch.energy + power x.voltage x.out

def Channel.metersStep : Bool := ch.command.watch.meter && capped && decide (100000 ≤ ch.energyTotal x)

def Channel.energyAfter : Nat :=
  if ch.command.watch.meter && capped then
    if 100000 ≤ ch.energyTotal x then ch.energyTotal x - 100000 else ch.energyTotal x
  else ch.energy

theorem Channel.meterSample_eq : ch.meterSample x capped = { ch with
    energy := ch.energyAfter x capped
    allowance := if ch.metersStep x capped then ch.allowance - 1 else ch.allowance
    capReport := ch.capReport || (ch.metersStep x capped && ch.allowance == 1) } := by
  unfold Channel.meterSample Channel.energyAfter Channel.metersStep Channel.energyTotal
  cases metered : ch.command.watch.meter && capped
  · simp
  · by_cases full : 100000 ≤ ch.energy + power x.voltage x.out <;> simp [full]

/-- What a sample leaves of a channel that judges it, field by field. -/
theorem Channel.judge_eq : ch.judge x capped = { ch with
    overcurrentRun := ch.overcurrentAfter x
    reverseRun := ch.reverseAfter x
    deviationRun := ch.deviationAfter x
    settleRun := (ch.judgeSettle x).settleRun
    settleStart := (ch.judgeSettle x).settleStart
    settleReport := (ch.judgeSettle x).settleReport
    energy := ch.energyAfter x capped
    allowance := if ch.metersStep x capped then ch.allowance - 1 else ch.allowance
    capReport := ch.capReport || (ch.metersStep x capped && ch.allowance == 1) } := by
  rw [Channel.judge, Channel.meterSample_eq, Channel.judgeHold_eq, Channel.judgeReverse_eq, Channel.judgeOvercurrent_eq,
    Channel.judgeSettle_eq]
  rfl

/-! ### The sample (R138, R140, R144) -/

/-- R144: the causes to trip for that a judged sample brings. -/
def Channel.causesOf : TripsDue where
  overcurrent := ch.command.watch.overcurrent && decide (5 ≤ ch.overcurrentAfter x)
  reverse := ch.command.watch.reverse && decide (3 ≤ ch.reverseAfter x)
  hold := ch.command.watch.hold.isSome && decide (20 ≤ ch.deviationAfter x)
  settle := (ch.judgeSettle x).settleExpired x.time

theorem TripsDue.join_of_not_any {d e : TripsDue} (none : e.any = false) : d.join e = d := by
  obtain ⟨o, r, h, s⟩ := e
  simp only [TripsDue.any, Bool.or_eq_false_iff] at none
  simp [TripsDue.join, none]

theorem Channel.judgeSettle_latest (y : Sample) :
    ({ ch with latest := y } : Channel).judgeSettle x = { ch.judgeSettle x with latest := y } := by
  cases runs : ch.settleStart with
  | none => simp only [Channel.judgeSettle, runs]
  | some start =>
    simp only [Channel.judgeSettle, runs]
    split_ifs <;> simp only [runs]

variable {ch x capped}

theorem Channel.sample_of_tripped (tripped : ch.tripped = true) : ch.sample x capped = { ch with latest := x } := by
  simp [Channel.sample, tripped]

/-- R140: a settle timeout that expired before the sample trips the channel, which does not judge the sample. -/
theorem Channel.sample_of_expired (untripped : ch.tripped = false) (expired : ch.settleExpired (x.time - 1) = true) :
    ch.sample x capped = ({ ch with latest := x } : Channel).tripSettle := by
  show (if ch.tripped = true then _ else if ch.settleExpired (x.time - 1) = true then _ else _) = _
  rw [if_neg (Bool.eq_false_iff.1 untripped), if_pos expired]

/-- R138, R144: what a sample leaves of a channel that judges it: every run and meter as the sample takes it on, and the trip
where there is a cause. -/
theorem Channel.sample_of_judged (untripped : ch.tripped = false) (running : ch.settleExpired (x.time - 1) = false) :
    ch.sample x capped =
      let any := (ch.causesOf x).any
      { ch with
        latest := x
        tripped := any
        overcurrentRun := if any then 0 else ch.overcurrentAfter x
        reverseRun := if any then 0 else ch.reverseAfter x
        deviationRun := if any then 0 else ch.deviationAfter x
        settleRun := if any then 0 else (ch.judgeSettle x).settleRun
        settleStart := if any then none else (ch.judgeSettle x).settleStart
        settleReport := (ch.judgeSettle x).settleReport
        energy := ch.energyAfter x capped
        allowance := if ch.metersStep x capped then ch.allowance - 1 else ch.allowance
        capReport := ch.capReport || (ch.metersStep x capped && ch.allowance == 1)
        due := ch.due.join (ch.causesOf x)
        tripStamp := if any then x.time else ch.tripStamp } := by
  have causes : (({ ch with latest := x } : Channel).judge x capped).tripCauses x.time = ch.causesOf x := by
    rw [Channel.judge_eq, Channel.judgeSettle_latest]
    rfl
  show (if ch.tripped = true then _ else if ch.settleExpired (x.time - 1) = true then _ else Channel.tripFor _ _ _) = _
  rw [if_neg (Bool.eq_false_iff.1 untripped), if_neg (Bool.eq_false_iff.1 running), causes, Channel.judge_eq,
    Channel.judgeSettle_latest]
  unfold Channel.tripFor
  cases any : (ch.causesOf x).any
  · rw [if_neg Bool.false_ne_true, TripsDue.join_of_not_any any]
    simp only [Bool.false_eq_true, if_false, untripped]
    rfl
  · rfl

/-! ### The settle watch's times (R139, R140) -/

theorem reachedAt_before {now start : Time} (early : (now - start).toNat ≤ 250) : reachedAt (now - 1) (start + 250) = false := by
  simp only [reachedAt, decide_eq_false_iff_not]
  bv_omega

theorem reachedAt_beyond {now start : Time} (late : 250 < (now - start).toNat) (half : (now - start).toNat < 2147483648) :
    reachedAt (now - 1) (start + 250) = true := by
  simp only [reachedAt, decide_eq_true_eq]
  bv_omega

theorem reachedAt_at {now start : Time} (early : (now - start).toNat ≤ 250) :
    reachedAt now (start + 250) = decide ((now - start).toNat = 250) := by
  simp only [reachedAt, decide_eq_decide]
  bv_omega

/-- The settle watch has not expired before a sample that comes within its 250 ms. -/
theorem Channel.settle_running (within : ∀ start, ch.settleStart = some start → (x.time - start).toNat ≤ 250) :
    ch.settleExpired (x.time - 1) = false := by
  unfold Channel.settleExpired
  split
  · next start runs => exact reachedAt_before (within start runs)
  · rfl

/-- A settle watch that does not run judges nothing. -/
theorem Channel.judgeSettle_of_none (stopped : ch.settleStart = none) : ch.judgeSettle x = ch := by
  simp [Channel.judgeSettle, stopped]

/-! ### What the watches make of a sample -/

theorem Sample.lt_out_iff (n : Nat) (x : Sample) : n < x.out ↔ (n : Int) < -x.current := Int.lt_toNat

/-- What a trip leaves: the outputs of OPEN, a fault pending, and every run at 0. -/
theorem Channel.sample_tripped (untripped : ch.tripped = false) (trips : (ch.sample x capped).tripped = true) :
    let t := ch.sample x capped
    t.output = ⟨false, 0, 0⟩ ∧ t.due.any = true ∧ t.overcurrentRun = 0 ∧ t.reverseRun = 0 ∧ t.deviationRun = 0 ∧
      t.settleRun = 0 ∧ t.settleStart = none := by
  intro t
  have pends : t.due.any = true :=
    (ch.sample_sampled x capped).pends (fun h => absurd (untripped.symm.trans h) Bool.false_ne_true) trips
  refine ⟨by simp [t, Channel.output, trips], pends, ?_⟩
  cases expired : ch.settleExpired (x.time - 1) with
  | true =>
    simp only [t, Channel.sample_of_expired untripped expired]
    exact ⟨rfl, rfl, rfl, rfl, rfl⟩
  | false =>
    have any : (ch.causesOf x).any = true := by
      rw [Channel.sample_of_judged untripped expired] at trips
      exact trips
    simp only [t, Channel.sample_of_judged untripped expired, any, if_true]
    exact ⟨trivial, trivial, trivial, trivial, trivial⟩

/-- R139: what a settle watch that runs makes of a sample 20 ms or more after its start. -/
theorem Channel.judgeSettle_of_late {start : Time} (runs : ch.settleStart = some start) (late : 20 ≤ (x.time - start).toNat) :
    ch.judgeSettle x =
      if inWindow 5 ch.command.voltage x.voltage then
        if ch.settleRun + 1 = 3 then { ch with settleRun := 0, settleStart := none, settleReport := some x.voltage }
        else { ch with settleRun := ch.settleRun + 1 }
      else { ch with settleRun := 0 } := by
  simp only [Channel.judgeSettle, runs, if_neg (Nat.not_lt.2 late)]

theorem Channel.judgeSettle_of_early {start : Time} (runs : ch.settleStart = some start) (early : (x.time - start).toNat < 20) :
    ch.judgeSettle x = ch := by
  simp only [Channel.judgeSettle, runs, if_pos early]

/-- R140: of a sample within the 250 ms the settle watch of a channel makes a cause only at 250. -/
theorem Channel.settleExpired_at {start : Time} (runs : ch.settleStart = some start) (within : (x.time - start).toNat ≤ 250) :
    ch.settleExpired x.time = decide ((x.time - start).toNat = 250) := by
  simp only [Channel.settleExpired, runs, reachedAt_at within]

theorem TripsDue.any_of_overcurrent {d : TripsDue} (h : d.overcurrent = true) : d.any = true := by simp [TripsDue.any, h]
theorem TripsDue.any_of_reverse {d : TripsDue} (h : d.reverse = true) : d.any = true := by simp [TripsDue.any, h]
theorem TripsDue.any_of_hold {d : TripsDue} (h : d.hold = true) : d.any = true := by simp [TripsDue.any, h]
theorem TripsDue.any_of_settle {d : TripsDue} (h : d.settle = true) : d.any = true := by simp [TripsDue.any, h]

section Judged

variable (untripped : ch.tripped = false) (running : ch.settleExpired (x.time - 1) = false)
include untripped running

/-- R141, R144: the overcurrent run after a sample, and its trip. -/
theorem Channel.sample_overcurrent (watched : ch.command.watch.overcurrent = true) :
    (5 ≤ ch.overcurrentAfter x → (ch.sample x capped).tripped = true ∧ (ch.sample x capped).due.overcurrent = true) ∧
    (ch.overcurrentAfter x < 5 → (ch.sample x capped).due.overcurrent = ch.due.overcurrent ∧
      ((ch.sample x capped).tripped = false → (ch.sample x capped).overcurrentRun = ch.overcurrentAfter x)) := by
  simp only [Channel.sample_of_judged untripped running]
  refine ⟨fun full => ?_, fun short => ?_⟩
  · have cause : (ch.causesOf x).overcurrent = true := by simp [Channel.causesOf, watched, full]
    exact ⟨TripsDue.any_of_overcurrent cause, by simp [TripsDue.join, cause]⟩
  · have none : (ch.causesOf x).overcurrent = false := by simp [Channel.causesOf, Nat.not_le.2 short]
    exact ⟨by simp [TripsDue.join, none], fun still => by simp [still]⟩

/-- R142, R144: the reverse run after a sample, and its trip. -/
theorem Channel.sample_reverse (watched : ch.command.watch.reverse = true) :
    (3 ≤ ch.reverseAfter x → (ch.sample x capped).tripped = true ∧ (ch.sample x capped).due.reverse = true ∧
      (ch.sample x capped).tripStamp = x.time) ∧
    (ch.reverseAfter x < 3 → (ch.sample x capped).due.reverse = ch.due.reverse ∧
      ((ch.sample x capped).tripped = false → (ch.sample x capped).reverseRun = ch.reverseAfter x)) := by
  simp only [Channel.sample_of_judged untripped running]
  refine ⟨fun full => ?_, fun short => ?_⟩
  · have cause : (ch.causesOf x).reverse = true := by simp [Channel.causesOf, watched, full]
    have any := TripsDue.any_of_reverse cause
    exact ⟨any, by simp [TripsDue.join, cause], if_pos any⟩
  · have none : (ch.causesOf x).reverse = false := by simp [Channel.causesOf, Nat.not_le.2 short]
    exact ⟨by simp [TripsDue.join, none], fun still => by simp [still]⟩

/-- R143, R144: the deviation run after a sample, and its trip. -/
theorem Channel.sample_hold {ref : Nat} (watched : ch.command.watch.hold = some ref) :
    (20 ≤ ch.deviationAfter x → (ch.sample x capped).tripped = true ∧ (ch.sample x capped).due.hold = true) ∧
    (ch.deviationAfter x < 20 → (ch.sample x capped).due.hold = ch.due.hold ∧
      ((ch.sample x capped).tripped = false → (ch.sample x capped).deviationRun = ch.deviationAfter x)) := by
  simp only [Channel.sample_of_judged untripped running]
  refine ⟨fun full => ?_, fun short => ?_⟩
  · have cause : (ch.causesOf x).hold = true := by simp [Channel.causesOf, watched, full]
    exact ⟨TripsDue.any_of_hold cause, by simp [TripsDue.join, cause]⟩
  · have none : (ch.causesOf x).hold = false := by simp [Channel.causesOf, Nat.not_le.2 short]
    exact ⟨by simp [TripsDue.join, none], fun still => by simp [still]⟩

/-- R139, R140: what a sample leaves of the settle watch follows from its judgement alone. -/
theorem Channel.sample_settle :
    let j := ch.judgeSettle x
    (ch.sample x capped).settleReport = j.settleReport ∧
    (ch.sample x capped).due.settle = (ch.due.settle || j.settleExpired x.time) ∧
    (j.settleExpired x.time = true → (ch.sample x capped).tripped = true) ∧
    ((ch.sample x capped).tripped = false →
      (ch.sample x capped).settleRun = j.settleRun ∧ (ch.sample x capped).settleStart = j.settleStart) := by
  simp only [Channel.sample_of_judged untripped running]
  exact ⟨trivial, rfl, fun h => TripsDue.any_of_settle h, fun still => by simp [still]⟩

end Judged

/-- R139: a sample that the settle watch reports on ends the watch. -/
theorem Channel.sample_settles (untripped : ch.tripped = false) {start : Time} (runs : ch.settleStart = some start)
    (within : (x.time - start).toNat ≤ 250) (late : 20 ≤ (x.time - start).toNat)
    (inside : inWindow 5 ch.command.voltage x.voltage = true) (third : ch.settleRun = 2) :
    let t := ch.sample x capped
    t.settleReport = some x.voltage ∧ t.due.settle = ch.due.settle ∧ t.settleRun = 0 ∧ t.settleStart = none := by
  have running : ch.settleExpired (x.time - 1) = false :=
    Channel.settle_running fun s h => by rw [runs] at h; cases h; exact within
  have judged : ch.judgeSettle x = { ch with settleRun := 0, settleStart := none, settleReport := some x.voltage } := by
    rw [Channel.judgeSettle_of_late runs late, if_pos inside, if_pos (by omega)]
  obtain ⟨report, due, -, rest⟩ := Channel.sample_settle (capped := capped) untripped running
  have still : (ch.judgeSettle x).settleExpired x.time = false := by rw [judged]; rfl
  rw [still, Bool.or_false] at due
  rw [judged] at report rest
  refine ⟨report, due, ?_⟩
  cases trips : (ch.sample x capped).tripped with
  | false => exact rest trips
  | true =>
    obtain ⟨-, -, -, -, -, run, stopped⟩ := Channel.sample_tripped untripped trips
    exact ⟨run, stopped⟩

/-- R139, R140: a sample that the settle watch does not report on. -/
theorem Channel.sample_unsettled (untripped : ch.tripped = false) {start : Time} (runs : ch.settleStart = some start)
    (within : (x.time - start).toNat ≤ 250) (late : 20 ≤ (x.time - start).toNat)
    (out : ¬ inWindow 5 ch.command.voltage x.voltage = true ∨ ch.settleRun < 2) :
    let t := ch.sample x capped
    t.settleReport = ch.settleReport ∧
    ((x.time - start).toNat = 250 → t.tripped = true ∧ t.due.settle = true) ∧
    ((x.time - start).toNat < 250 → t.due.settle = ch.due.settle ∧
      (t.tripped = false → t.settleRun = (if inWindow 5 ch.command.voltage x.voltage then ch.settleRun + 1 else 0) ∧
        t.settleStart = some start)) := by
  have running : ch.settleExpired (x.time - 1) = false :=
    Channel.settle_running fun s h => by rw [runs] at h; cases h; exact within
  have judged : ch.judgeSettle x = { ch with
      settleRun := if inWindow 5 ch.command.voltage x.voltage then ch.settleRun + 1 else 0 } := by
    rw [Channel.judgeSettle_of_late runs late]
    split
    · next inside => rw [if_neg (by have := out.resolve_left (not_not_intro inside); omega)]
    · rfl
  have expires : (ch.judgeSettle x).settleExpired x.time = decide ((x.time - start).toNat = 250) := by
    rw [judged]
    exact Channel.settleExpired_at runs within
  obtain ⟨report, due, trips, rest⟩ := Channel.sample_settle (capped := capped) untripped running
  rw [expires] at due trips
  rw [judged] at report rest
  refine ⟨report, fun at_expiry => ⟨trips (decide_eq_true at_expiry), by rw [due, decide_eq_true at_expiry, Bool.or_true]⟩,
    fun before => ⟨by rw [due, decide_eq_false (Nat.ne_of_lt before), Bool.or_false], fun still => ?_⟩⟩
  obtain ⟨run, starts⟩ := rest still
  exact ⟨run, starts.trans runs⟩

/-- R145, R146: what a sample leaves of the energy meter. -/
theorem Channel.sample_meter (untripped : ch.tripped = false) (running : ch.settleExpired (x.time - 1) = false) :
    (ch.sample x capped).energy = ch.energyAfter x capped ∧
    (ch.sample x capped).allowance = (if ch.metersStep x capped then ch.allowance - 1 else ch.allowance) ∧
    (ch.sample x capped).capReport = (ch.capReport || (ch.metersStep x capped && ch.allowance == 1)) := by
  simp only [Channel.sample_of_judged untripped running]
  exact ⟨trivial, trivial, trivial⟩

theorem inWindow_iff (k ref v : Nat) :
    inWindow k ref v = true ↔ ref - ref * k / 100 ≤ v ∧ v ≤ ref + ref * k / 100 := decide_eq_true_iff

/-- Settles O17: each clause is what one watch makes of the sample. -/
theorem watchesCountTheirRuns : Obligations.WatchesCountTheirRuns := by
  intro ch x capped t
  refine ⟨fun tripped => Channel.sample_of_tripped tripped, fun untripped => ?_⟩
  have sampled := ch.sample_sampled x capped
  refine ⟨?latest, sampled.command, Channel.sample_tripped untripped, fun start runs late half => ?expired, fun within => ?judged⟩
  case latest =>
    cases expired : ch.settleExpired (x.time - 1) with
    | true => simp only [t, Channel.sample_of_expired untripped expired]; rfl
    | false => simp only [t, Channel.sample_of_judged untripped expired]
  case expired =>
    have expired : ch.settleExpired (x.time - 1) = true := by
      simp only [Channel.settleExpired, runs, reachedAt_beyond late half]
    simp only [t, Channel.sample_of_expired untripped expired]
    refine ⟨rfl, ?_, ?_, rfl, rfl, rfl, rfl⟩
    · simp [Channel.tripSettle, Channel.trip, TripsDue.join]
    · simp [Channel.tripSettle, Channel.trip, runs]
  case judged =>
    have running := Channel.settle_running within
    refine ⟨?stamp, fun watched => ?overcurrent, fun ref watched => ?hold, fun start runs => ?settle, fun stopped => ?stopped,
      fun meters => ?meters, fun idle => ?idle⟩
    case stamp => simp only [t, Channel.sample_of_judged untripped running]
    case overcurrent =>
      have run : ch.overcurrentAfter x =
          if ((ch.command.limit + ch.command.limit * 10 / 100 : Nat) : Int) < -x.current then ch.overcurrentRun + 1 else 0 := by
        simp only [Channel.overcurrentAfter, watched, if_true, Sample.lt_out_iff]
      exact run ▸ Channel.sample_overcurrent untripped running watched
    case hold =>
      have run : ch.deviationAfter x =
          if ref - ref * 8 / 100 ≤ x.voltage ∧ x.voltage ≤ ref + ref * 8 / 100 then 0 else ch.deviationRun + 1 := by
        simp only [Channel.deviationAfter, watched, inWindow_iff]
      exact run ▸ Channel.sample_hold untripped running watched
    case settle =>
      refine ⟨fun early => ?_, fun late => ⟨fun inside third => ?_, fun out => ?_⟩⟩
      · obtain ⟨report, due, -, rest⟩ := Channel.sample_settle (capped := capped) untripped running
        rw [Channel.judgeSettle_of_early runs early] at report due rest
        have still : ch.settleExpired x.time = false := by
          rw [Channel.settleExpired_at runs (within start runs)]
          exact decide_eq_false (by omega)
        rw [still, Bool.or_false] at due
        exact ⟨due, report, fun untrips => ⟨(rest untrips).1, (rest untrips).2.trans runs⟩⟩
      · exact Channel.sample_settles untripped runs (within start runs) late ((inWindow_iff ..).2 inside) third
      · simpa only [inWindow_iff] using
          Channel.sample_unsettled (capped := capped) untripped runs (within start runs) late (by rwa [inWindow_iff])
    case stopped =>
      obtain ⟨-, due, -, -⟩ := Channel.sample_settle (capped := capped) untripped running
      rw [Channel.judgeSettle_of_none stopped] at due
      have still : ch.settleExpired x.time = false := by simp only [Channel.settleExpired, stopped]
      rw [due, still, Bool.or_false]
    case meters =>
      intro isCapped total
      obtain ⟨energy, allowance, report⟩ := Channel.sample_meter (capped := capped) untripped running
      have sum : ch.energyTotal x = total := rfl
      rw [Channel.energyAfter, sum] at energy
      rw [Channel.metersStep, sum] at allowance report
      refine ⟨fun below => ?_, fun full => ?_⟩
      · have short := Nat.not_le.2 below
        simp_all [t]
      · simp_all [t]
    case idle =>
      obtain ⟨energy, allowance, report⟩ := Channel.sample_meter (capped := capped) untripped running
      have off : (ch.command.watch.meter && capped) = false := Bool.and_eq_false_iff.2 idle
      simp_all [t, Channel.energyAfter, Channel.metersStep]

end Sys2Proof.Machine
end

section
/-! SUPPORT. Proofs for chapter 1, the line engine's own steps (R2 to R12): each changes its line engine alone. -/

namespace Sys2Proof.Machine

/-! ### Changes of a line engine -/

theorem State.onEngine_congr {s : State} {l : Line} {f g : LineEngine → LineEngine} (same : f (s.engine l) = g (s.engine l)) :
    s.onEngine l f = s.onEngine l g := by
  simp only [State.onEngine, same]

theorem State.onContract_congr {s : State} {l : Line} {f g : Contract → Contract}
    (same : f (s.contract l) = g (s.contract l)) : s.onContract l f = s.onContract l g := by
  simp only [State.onContract, same]

/-- Of two changes of one line engine the second is applied to what the first leaves. -/
theorem State.onEngine_onEngine (s : State) (l : Line) (f g : LineEngine → LineEngine) :
    (s.onEngine l f).onEngine l g = s.onEngine l fun e => g (f e) := by
  simp [State.onEngine, State.engine, Four.set_set]

theorem State.onContract_onContract (s : State) (l : Line) (f g : Contract → Contract) :
    (s.onContract l f).onContract l g = s.onContract l fun c => g (f c) := by
  simp [State.onContract, State.contract, Four.set_set]

theorem State.onChannel_onChannel (s : State) (l : Line) (f g : Channel → Channel) :
    (s.onChannel l f).onChannel l g = s.onChannel l fun c => g (f c) := by
  simp [State.onChannel, State.channel, Four.set_set]

@[simp] theorem State.onEngine_id (s : State) (l : Line) : (s.onEngine l fun e => e) = s := by
  simp [State.onEngine, State.engine]

@[simp] theorem State.onContract_id (s : State) (l : Line) : (s.onContract l fun c => c) = s := by
  simp [State.onContract, State.contract]

@[simp] theorem State.onChannel_id (s : State) (l : Line) : (s.onChannel l fun c => c) = s := by
  simp [State.onChannel, State.channel]

theorem State.onEngine_eq_self {s : State} {l : Line} {f : LineEngine → LineEngine} (same : f (s.engine l) = s.engine l) :
    s.onEngine l f = s := (State.onEngine_congr same).trans (s.onEngine_id l)

theorem State.onContract_eq_self {s : State} {l : Line} {f : Contract → Contract} (same : f (s.contract l) = s.contract l) :
    s.onContract l f = s := (State.onContract_congr same).trans (s.onContract_id l)

theorem State.onChannel_eq_self {s : State} {l : Line} {f : Channel → Channel} (same : f (s.channel l) = s.channel l) :
    s.onChannel l f = s :=
  (show s.onChannel l f = s.onChannel l fun c => c by simp only [State.onChannel, same]).trans (s.onChannel_id l)

/-! ### The receive side (R3 to R7) -/

theorem execStartEdge_of_idle {s : State} {l : Line} (present : (s.engine l).present = true)
    (silent : (s.engine l).txSide ≠ .sending) (idle : (s.engine l).rxSide = .idle) :
    execStartEdge l s = .next (s.onEngine l fun e => { e.clearRx .receiving with rxSlot := true, gapTimer := true }) := by
  simp [execStartEdge, present, silent, idle]

theorem execStartEdge_of_receiving {s : State} {l : Line} (present : (s.engine l).present = true)
    (silent : (s.engine l).txSide ≠ .sending) (receiving : (s.engine l).rxSide = .receiving)
    (fits : (s.engine l).overLength = false) (partly : (s.engine l).complete = false) :
    execStartEdge l s = .next (s.onEngine l fun e => { e with rxSlot := true, refusing := false, gapTimer := true }) := by
  simp [execStartEdge, present, silent, receiving, fits, partly]

theorem execStartEdge_of_discarding {s : State} {l : Line} (present : (s.engine l).present = true)
    (silent : (s.engine l).txSide ≠ .sending) (discarding : (s.engine l).rxSide = .discarding) :
    execStartEdge l s = .next s := by
  simp [execStartEdge, present, silent, discarding]

/-- R7: an accepted character on an engine that awaits one, the convention given that it teaches or leaves. -/
theorem LineEngine.append_eq (e : LineEngine) (data : Byte) {conv : Convention}
    (teaches : conv = if e.rxChars = [] then
        (if data = 0x3A then .direct else if data = 0xA3 then .inverse else e.convention) else e.convention) :
    e.append data = { e with
      convention := conv
      rxChars := e.rxChars ++ [conv.read data]
      rxExpected := if e.rxChars.length = 1 then some ((conv.read data).toNat + 3) else e.rxExpected
      rxSlot := false, rxLosing := false, refusing := false } := by
  have learnt : (if e.rxChars.isEmpty then learn e.convention data else e.convention) = conv := by
    simp only [teaches, learn, List.isEmpty_iff]
  simp only [LineEngine.append, learnt]

/-- R8: the first character is no convention error when the convention is known or the character is initial. -/
theorem isConventionError_iff (c : Convention) (data : Byte) :
    isConventionError c data = true ↔ c = .unknown ∧ data ≠ 0x3A ∧ data ≠ 0xA3 := by
  simp [isConventionError, and_assoc]

/-- Settles O19: each event on an engine that meets its conditions. -/
theorem receivingStepsAreTaken : Obligations.ReceivingStepsAreTaken := by
  intro l s
  refine ⟨fun present silent => ⟨fun idle => execStartEdge_of_idle present silent idle,
      fun receiving fits partly => execStartEdge_of_receiving present silent receiving fits partly,
      fun discarding => execStartEdge_of_discarding present silent discarding⟩,
    fun present receiving timed fits partly => ?gap, fun discarding => if_pos discarding,
    fun w awaits => ⟨fun even initial conv teaches => ?accepted, fun odd => ?refused⟩⟩
  case gap =>
    show execFrameGapExpiry l s = _
    simp only [execFrameGapExpiry, present, receiving, timed, fits, partly, State.frameEvent, State.onHealth,
      State.onEngine_onEngine]
    rfl
  case accepted =>
    show execCharacterAccepted l w s = _
    have sound : ((s.engine l).rxChars.isEmpty && isConventionError (s.engine l).convention w.data) = false := by
      rw [← Bool.not_eq_true, Bool.and_eq_true, List.isEmpty_iff, isConventionError_iff]
      exact initial
    simp only [execCharacterAccepted, awaits, even, sound, Bool.and_self, if_true, Bool.false_eq_true, if_false]
    exact congrArg Host.Outcome.next (State.onEngine_congr ((s.engine l).append_eq w.data teaches))
  case refused =>
    show execErrorPulse l w s = _
    simp only [execErrorPulse, awaits, odd, Bool.not_false, Bool.and_self, if_true]

/-! ### The transmit side (R9 to R20) -/

/-- Settles O23: each event on an engine that meets its conditions. -/
theorem sendingStepsAreTaken : Obligations.SendingStepsAreTaken := by
  intro l s
  refine ⟨fun f fs queue present live idle side => ?start, fun sending more => ?next, fun sending few => ?repeated,
    fun sending first => if_pos ⟨sending, first⟩, fun drained => if_pos drained⟩
  case start =>
    show execSendStart l s = _
    simp only [execSendStart, queue, present, live, idle, side, and_self, if_true]
    rfl
  case next =>
    show execNextCharacterStart l false s = _
    simp [execNextCharacterStart, sending, more]
  case repeated =>
    show execNextCharacterStart l true s = _
    simp [execNextCharacterStart, sending, few]

end Sys2Proof.Machine
end

section
/-! SUPPORT. What each shared operation leaves, said once: the blocks it does not touch, and what its own line reads after it.
The `Same…` abbreviations are conjunctions of equations, so that `simp` rewrites by each of them. -/

namespace Sys2Proof.Machine

/-! ### Blocks left as they are -/

/-- The queue of commands, the counter, the straps, the lists and the free values' count stand. -/
abbrev State.SameSetup (s t : State) : Prop :=
  t.pending = s.pending ∧ t.now = s.now ∧ t.straps = s.straps ∧ t.prefs = s.prefs ∧ t.menu = s.menu ∧
    t.freeCount = s.freeCount

/-- The rule table and the fault unit's records stand. -/
abbrev State.SameRecords (s t : State) : Prop :=
  t.rules = s.rules ∧ t.captures = s.captures ∧ t.strikes = s.strikes

abbrev State.SameEngines (s t : State) : Prop := t.engines = s.engines ∧ ∀ m, t.engine m = s.engine m

abbrev State.SameContracts (s t : State) : Prop := t.contracts = s.contracts ∧ ∀ m, t.contract m = s.contract m

abbrev State.SameChannels (s t : State) : Prop := t.channels = s.channels ∧ ∀ m, t.channel m = s.channel m

/-- The link unit stands but for its notices and WAKE. -/
abbrev State.SameButNotices (s t : State) : Prop :=
  t.link.receiver = s.link.receiver ∧ t.link.responses = s.link.responses ∧ t.link.verdicts = s.link.verdicts ∧
    t.link.mode = s.link.mode ∧ t.link.wakeSet = s.link.wakeSet ∧ t.link.linkError = s.link.linkError ∧
    t.link.stance = s.link.stance ∧ t.link.manualStance = s.link.manualStance ∧
    t.link.verdictTag = s.link.verdictTag ∧ t.link.stx = s.link.stx ∧ ∀ m, t.verdictOf m = s.verdictOf m

abbrev State.SameLink (s t : State) : Prop := t.link = s.link ∧ ∀ m, t.verdictOf m = s.verdictOf m

/-- The channels stand but for their allocations. -/
abbrev State.SameButAllocation (s t : State) : Prop := ∀ m,
  (t.channel m).command = (s.channel m).command ∧ (t.channel m).tripped = (s.channel m).tripped ∧
    (t.channel m).latest = (s.channel m).latest ∧ (t.channel m).settleStart = (s.channel m).settleStart ∧
    (t.channel m).energy = (s.channel m).energy ∧ (t.channel m).allowance = (s.channel m).allowance ∧
    (t.channel m).due = (s.channel m).due ∧ (t.channel m).tripStamp = (s.channel m).tripStamp ∧
    (t.channel m).settleReport = (s.channel m).settleReport ∧ (t.channel m).capReport = (s.channel m).capReport

variable (s : State) (l : Line)

/-! ### Basic updates, read on their own line -/

@[simp] theorem State.hand_engine_self (f : Frame) : (s.hand l f).engine l = (s.engine l).hand f.chars := by simp [State.hand]

@[simp] theorem State.stepTag_contract_self :
    (s.stepTag l).contract l = { s.contract l with tagCounter := (s.contract l).tagCounter + 1 } := by simp [State.stepTag]

@[simp] theorem State.enter_contract_self (st : CState) : (s.enter l st).contract l = (s.contract l).enter st := by
  simp [State.enter]

@[simp] theorem State.record_contract_self (o : Outcome) :
    (s.record l o).contract l = { s.contract l with lastOutcome := some o } := by simp [State.record]

@[simp] theorem State.closeExchange_contract_self :
    (s.closeExchange l).contract l = { s.contract l with exchange := none } := by simp [State.closeExchange]

@[simp] theorem State.onHealth_engine_self (f : Health → Health) :
    (s.onHealth l f).engine l = { s.engine l with health := f (s.engine l).health } := by simp [State.onHealth]

@[simp] theorem State.stray_engine_self : (s.stray l).engine l =
    { s.engine l with health := { (s.engine l).health with strayAnswer := true } } := by simp [State.stray]

@[simp] theorem State.command_channel_self (cmd : PathCommand) :
    (s.command l cmd).channel l = (s.channel l).take cmd s.now (s.contract l).options.capped := by simp [State.command]

@[simp] theorem State.clearStrikes_strikes_self : (s.clearStrikes l).strikes.get l = 0 := by simp [State.clearStrikes]

@[simp] theorem State.dropVerdict_link : (s.dropVerdict l).link =
    { s.link with verdicts := s.link.verdicts.filter fun v => !(v.line == l) } := rfl

@[simp] theorem State.dropVerdict_verdictOf_self : (s.dropVerdict l).verdictOf l = none := by
  simp [State.verdictOf, State.dropVerdict]

/-- What does not change the verdict queue leaves every line's entry. -/
theorem State.verdictOf_congr {s t : State} (same : t.link.verdicts = s.link.verdicts) (m : Line) :
    t.verdictOf m = s.verdictOf m := by
  simp only [State.verdictOf, same]

@[simp] theorem State.raise_sameButNotices (src : Source) (body : NoticeBody) : s.SameButNotices (s.raise src body) :=
  ⟨rfl, rfl, rfl, rfl, rfl, rfl, rfl, rfl, rfl, rfl, fun _ => rfl⟩

@[simp] theorem State.onEngine_verdictOf (f : LineEngine → LineEngine) (m : Line) :
    (s.onEngine l f).verdictOf m = s.verdictOf m := rfl
@[simp] theorem State.onContract_verdictOf (f : Contract → Contract) (m : Line) :
    (s.onContract l f).verdictOf m = s.verdictOf m := rfl
@[simp] theorem State.onChannel_verdictOf (f : Channel → Channel) (m : Line) :
    (s.onChannel l f).verdictOf m = s.verdictOf m := rfl
@[simp] theorem State.hand_verdictOf (f : Frame) (m : Line) : (s.hand l f).verdictOf m = s.verdictOf m := rfl
@[simp] theorem State.stepTag_verdictOf (m : Line) : (s.stepTag l).verdictOf m = s.verdictOf m := rfl
@[simp] theorem State.record_verdictOf (o : Outcome) (m : Line) : (s.record l o).verdictOf m = s.verdictOf m := rfl
@[simp] theorem State.enter_verdictOf (st : CState) (m : Line) : (s.enter l st).verdictOf m = s.verdictOf m := rfl
@[simp] theorem State.command_verdictOf (cmd : PathCommand) (m : Line) : (s.command l cmd).verdictOf m = s.verdictOf m := rfl
@[simp] theorem State.clearStrikes_verdictOf (m : Line) : (s.clearStrikes l).verdictOf m = s.verdictOf m := rfl
@[simp] theorem State.closeExchange_verdictOf (m : Line) : (s.closeExchange l).verdictOf m = s.verdictOf m := rfl

/-! ### Frames (R9, R31) -/

@[simp] theorem State.handNew_setup (b : FrameBody) : s.SameSetup (s.handNew l b) := ⟨rfl, rfl, rfl, rfl, rfl, rfl⟩
@[simp] theorem State.handNew_records (b : FrameBody) : s.SameRecords (s.handNew l b) := ⟨rfl, rfl, rfl⟩
@[simp] theorem State.handNew_channels (b : FrameBody) : s.SameChannels (s.handNew l b) := ⟨rfl, fun _ => rfl⟩
@[simp] theorem State.handNew_link (b : FrameBody) : s.SameLink (s.handNew l b) := ⟨rfl, fun _ => rfl⟩
@[simp] theorem State.handNew_budget (b : FrameBody) : (s.handNew l b).budget = s.budget := rfl

@[simp] theorem State.handNew_engine_self (b : FrameBody) :
    (s.handNew l b).engine l = (s.engine l).hand (Frame.mk (s.contract l).tagCounter b).chars := by simp [State.handNew]

@[simp] theorem State.handNew_contract_self (b : FrameBody) :
    (s.handNew l b).contract l = { s.contract l with tagCounter := (s.contract l).tagCounter + 1 } := by simp [State.handNew]

/-! ### The end of an event (R43) -/

@[simp] theorem State.endEvent_setup : s.SameSetup (s.endEvent l) := ⟨rfl, rfl, rfl, rfl, rfl, rfl⟩
@[simp] theorem State.endEvent_records : s.SameRecords (s.endEvent l) := ⟨rfl, rfl, rfl⟩
@[simp] theorem State.endEvent_engines : s.SameEngines (s.endEvent l) := ⟨rfl, fun _ => rfl⟩
@[simp] theorem State.endEvent_link : s.SameLink (s.endEvent l) := ⟨rfl, fun _ => rfl⟩
@[simp] theorem State.endEvent_budget : (s.endEvent l).budget = s.budget := rfl

/-- What an OPEN does to a channel beside the command and the trip flag. -/
theorem Channel.take_keeps (ch : Channel) (cmd : PathCommand) (now : Time) (capped : Bool) :
    (ch.take cmd now capped).energy = ch.energy ∧ (ch.take cmd now capped).due = ch.due ∧
      (ch.take cmd now capped).tripStamp = ch.tripStamp ∧ (ch.take cmd now capped).latest = ch.latest ∧
      (ch.take cmd now capped).allowance = ch.allowance := by
  unfold Channel.take
  dsimp only
  split <;> exact ⟨rfl, rfl, rfl, rfl, rfl⟩

/-- A command equal to the one in force of a channel that has not tripped changes nothing. -/
theorem Channel.take_same {ch : Channel} (untripped : ch.tripped = false) (now : Time) (capped : Bool) :
    ch.take ch.command now capped = ch := by
  obtain ⟨_, _, tripped⟩ := ch
  simp_all [Channel.take]

/-- A channel that has not tripped stores every command. -/
theorem Channel.take_command {ch : Channel} (untripped : ch.tripped = false) (cmd : PathCommand) (now : Time) (capped : Bool) :
    (ch.take cmd now capped).command = cmd ∧ (ch.take cmd now capped).tripped = false := by
  unfold Channel.take
  simp only [untripped, Bool.false_and, Bool.false_eq_true, false_or]
  split
  · next same => exact ⟨same.symm, rfl⟩
  · exact ⟨rfl, rfl⟩

variable {s l}

/-- R43, R136: the end of an event commands the path of the state. -/
theorem State.endEvent_command (untripped : (s.channel l).tripped = false) :
    ((s.endEvent l).channel l).command = ((s.endEvent l).contract l).path ∧ ((s.endEvent l).channel l).tripped = false := by
  rw [State.channel_endEvent]
  exact Channel.take_command untripped ..

/-- R57, R136: where the state's path is OPEN the end of an event opens it, whatever the trip flag. -/
theorem State.endEvent_opened (opens : ((s.endEvent l).contract l).path = .opened) :
    ((s.endEvent l).channel l).command = .opened ∧ ((s.endEvent l).channel l).tripped = false := by
  rw [State.channel_endEvent, opens]
  exact (Channel.take_opened _ _ _).symm

/-- The end of an event leaves a settled line as it is. -/
theorem State.endEvent_of_settled (settled : s.LineSettled l) : s.endEvent l = s := by
  obtain ⟨untripped, command, role⟩ := settled
  have same : (s.onContract l fun c => { c with role := roleOf c.state c.role }) = s :=
    State.onContract_eq_self (by rw [role])
  have path : s.command l (s.contract l).path = s := by
    rw [← command]
    exact State.onChannel_eq_self (Channel.take_same untripped _ _)
  simp only [State.endEvent, same, path]

theorem Still.settled {s t : State} (still : Still l s t) (settled : s.LineSettled l) : t.LineSettled l := by
  obtain ⟨untripped, command, role⟩ := settled
  exact ⟨still.tripped.trans untripped, by rw [still.command, still.path, command],
    by rw [still.state, still.role, role]⟩

/-- What leaves a settled line's path, state and role has no more at its end. -/
theorem State.endEvent_of_still {s t : State} (still : Still l s t) (settled : s.LineSettled l) : t.endEvent l = t :=
  State.endEvent_of_settled (still.settled settled)

/-! ### Notices (R167) -/

theorem mem_putNotice_of_ne {m n : Notice} {ns : List Notice} (mem : m ∈ ns) (other : m.sameKey n = false) :
    m ∈ putNotice n ns := by
  induction ns with
  | nil => cases mem
  | cons k ks ih =>
    unfold putNotice
    rcases List.mem_cons.1 mem with rfl | rest
    · rw [if_neg (by simp [other])]
      exact List.mem_cons_self
    · split
      · exact List.mem_cons_of_mem _ rest
      · exact List.mem_cons_of_mem _ (ih rest)

/-- R167: a notice of a line is told once it is raised, and stands until one of its kind is raised. -/
theorem State.told_raise (s : State) (l : Line) (body : NoticeBody) : (s.raise (.line l) body).Told l s.now body :=
  s.mem_raise_notices _ _

theorem State.Told.raise {m : Line} {time : Time} {body : NoticeBody} (told : s.Told m time body) {other : NoticeBody}
    (kind : body.kind ≠ other.kind) (src : Source) : (s.raise src other).Told m time body :=
  mem_putNotice_of_ne told (by simp [Notice.sameKey, kind])

theorem State.Told.raisePart {m : Line} {time : Time} {body : NoticeBody} (told : s.Told m time body) (other : NoticeBody) :
    (s.raise .part other).Told m time body :=
  mem_putNotice_of_ne told (by simp [Notice.sameKey])

/-- What does not change the notices leaves what they tell. -/
theorem State.Told.of_notices {t : State} {m : Line} {time : Time} {body : NoticeBody} (told : s.Told m time body)
    (same : t.link.notices = s.link.notices) : t.Told m time body := by
  simpa only [State.Told, same] using told

/-! ### The budget (R123 to R129) -/

variable (s l)

@[simp] theorem State.setBudget_setup (b : Budget) : s.SameSetup (s.setBudget b) := by
  unfold State.setBudget
  dsimp only
  split <;> exact ⟨rfl, rfl, rfl, rfl, rfl, rfl⟩

@[simp] theorem State.setBudget_records (b : Budget) : s.SameRecords (s.setBudget b) := by
  unfold State.setBudget
  dsimp only
  split <;> exact ⟨rfl, rfl, rfl⟩

@[simp] theorem State.setBudget_engines (b : Budget) : s.SameEngines (s.setBudget b) := by
  unfold State.setBudget
  dsimp only
  split <;> exact ⟨rfl, fun _ => rfl⟩

@[simp] theorem State.setBudget_contracts (b : Budget) : s.SameContracts (s.setBudget b) := by
  unfold State.setBudget
  dsimp only
  split <;> exact ⟨rfl, fun _ => rfl⟩

@[simp] theorem State.setBudget_channels (b : Budget) : s.SameChannels (s.setBudget b) := by
  unfold State.setBudget
  dsimp only
  split <;> exact ⟨rfl, fun _ => rfl⟩

@[simp] theorem State.setBudget_sameButNotices (b : Budget) : s.SameButNotices (s.setBudget b) := by
  unfold State.setBudget
  dsimp only
  split <;> exact ⟨rfl, rfl, rfl, rfl, rfl, rfl, rfl, rfl, rfl, rfl, fun _ => rfl⟩

@[simp] theorem State.setBudget_budget (b : Budget) : (s.setBudget b).budget = b.resum := State.setBudget_leaves b |>.2.2.2

theorem State.Told.setBudget {s : State} {m : Line} {time : Time} {body : NoticeBody} (told : s.Told m time body) (b : Budget) :
    (s.setBudget b).Told m time body := by
  unfold State.setBudget
  dsimp only
  split
  · exact State.Told.raisePart (s := { s with budget := b.resum }) told _
  · exact told

@[simp] theorem State.reallocate_setup : s.SameSetup s.reallocate := ⟨rfl, rfl, rfl, rfl, rfl, rfl⟩
@[simp] theorem State.reallocate_records : s.SameRecords s.reallocate := ⟨rfl, rfl, rfl⟩
@[simp] theorem State.reallocate_engines : s.SameEngines s.reallocate := ⟨rfl, fun _ => rfl⟩
@[simp] theorem State.reallocate_contracts : s.SameContracts s.reallocate := ⟨rfl, fun _ => rfl⟩
@[simp] theorem State.reallocate_link : s.SameLink s.reallocate := ⟨rfl, fun _ => rfl⟩

@[simp] theorem State.reallocate_sameButAllocation : s.SameButAllocation s.reallocate := by
  intro m
  simp only [State.channel_reallocate]
  exact ⟨trivial, trivial, trivial, trivial, trivial, trivial, trivial, trivial, trivial, trivial⟩

/-- The recomputation changes nothing of the budget but the allocations. -/
@[simp] theorem State.reallocate_budget : s.reallocate.budget.drawCommit = s.budget.drawCommit ∧
    s.reallocate.budget.drawCopy = s.budget.drawCopy ∧ s.reallocate.budget.supplyCommit = s.budget.supplyCommit ∧
    s.reallocate.budget.order = s.budget.order ∧ s.reallocate.budget.supplyHeadroom = s.budget.supplyHeadroom ∧
    s.reallocate.budget.drawHeadroom = s.budget.drawHeadroom ∧
    s.reallocate.budget.committedSupply = s.budget.committedSupply ∧
    s.reallocate.budget.committedDraw = s.budget.committedDraw ∧
    s.reallocate.budget.inputCeiling = s.budget.inputCeiling ∧
    s.reallocate.budget.supplyCeiling = s.budget.supplyCeiling ∧ s.reallocate.budget.rank = s.budget.rank :=
  ⟨rfl, rfl, rfl, rfl, rfl, rfl, rfl, rfl, rfl, rfl, rfl⟩

/-- The sums are recomputed from the commitments, which stand. -/
@[simp] theorem Budget.resum_keeps (b : Budget) : b.resum.drawCommit = b.drawCommit ∧ b.resum.drawCopy = b.drawCopy ∧
    b.resum.supplyCommit = b.supplyCommit ∧ b.resum.order = b.order ∧ b.resum.inputCeiling = b.inputCeiling ∧
    b.resum.supplyCeiling = b.supplyCeiling ∧ b.resum.rank = b.rank ∧ b.resum.alloc = b.alloc :=
  ⟨rfl, rfl, rfl, rfl, rfl, rfl, rfl, rfl⟩

/-- R90: the building of a menu touches its line's record and engine alone. -/
theorem State.rebuildMenu_eq : s.rebuildMenu l = { s with
    engines := (s.rebuildMenu l).engines, contracts := (s.rebuildMenu l).contracts } := by
  unfold State.rebuildMenu
  dsimp only
  split <;> rfl

theorem State.reoffer_eq : s.reoffer = { s with engines := s.reoffer.engines, contracts := s.reoffer.contracts } := by
  unfold State.reoffer
  generalize s.budget.rank = ls
  induction ls generalizing s with
  | nil => rfl
  | cons m ms ih =>
    rw [List.foldl_cons, ih]
    split
    · rw [State.rebuildMenu_eq]
    · rfl

/-- R127: a rise passed on touches the contracts and the engines alone. -/
theorem State.passRise_eq (n : Nat) : s.passRise n = { s with
    engines := (s.passRise n).engines, contracts := (s.passRise n).contracts } := by
  unfold State.passRise
  split
  · exact s.reoffer_eq
  · rfl

@[simp] theorem State.passRise_setup (n : Nat) : s.SameSetup (s.passRise n) := by
  rw [State.passRise_eq]; exact ⟨rfl, rfl, rfl, rfl, rfl, rfl⟩
@[simp] theorem State.passRise_records (n : Nat) : s.SameRecords (s.passRise n) := by
  rw [State.passRise_eq]; exact ⟨rfl, rfl, rfl⟩
@[simp] theorem State.passRise_channels (n : Nat) : s.SameChannels (s.passRise n) := by
  rw [State.passRise_eq]; exact ⟨rfl, fun _ => rfl⟩
@[simp] theorem State.passRise_link (n : Nat) : s.SameLink (s.passRise n) := by
  rw [State.passRise_eq]; exact ⟨rfl, fun _ => rfl⟩
@[simp] theorem State.passRise_budget (n : Nat) : (s.passRise n).budget = s.budget := by
  rw [State.passRise_eq]

/-- R91, R127: a line that does not wait for a rise keeps its record and its engine. -/
theorem State.passRise_line {s : State} {m : Line} (quiet : (s.contract m).awaitsRise = false) (n : Nat) :
    (s.passRise n).contract m = s.contract m ∧ (s.passRise n).engine m = s.engine m :=
  (((Moves.refl (sc := fun _ => False) s).passRise n).outside (m := m) not_false).lines quiet

/-- A line waits for a rise in OFFERING alone. -/
theorem Contract.awaitsRise_of_state {c : Contract} (elsewhere : c.state ≠ .offering) : c.awaitsRise = false := by
  simp [Contract.awaitsRise, elsewhere]

@[simp] theorem State.claimDraw_setup : s.SameSetup (s.claimDraw l) := by
  simp [State.SameSetup, State.claimDraw]
@[simp] theorem State.claimDraw_records : s.SameRecords (s.claimDraw l) := by
  simp [State.SameRecords, State.claimDraw]
@[simp] theorem State.claimDraw_engines : s.SameEngines (s.claimDraw l) := by
  simp [State.SameEngines, State.claimDraw]
@[simp] theorem State.claimDraw_contracts : s.SameContracts (s.claimDraw l) := by
  simp [State.SameContracts, State.claimDraw]
@[simp] theorem State.claimDraw_sameButNotices : s.SameButNotices (s.claimDraw l) := by
  simp [State.SameButNotices, State.claimDraw]
@[simp] theorem State.claimDraw_sameButAllocation : s.SameButAllocation (s.claimDraw l) := by
  simp [State.SameButAllocation, State.claimDraw]
@[simp] theorem State.claimDraw_drawCommit_self :
    (s.claimDraw l).budget.drawCommit.get l = (s.contract l).drawCommitment := by simp [State.claimDraw]

theorem State.Told.claimDraw {s : State} {m : Line} {time : Time} {body : NoticeBody} (told : s.Told m time body) (l : Line) :
    (s.claimDraw l).Told m time body := told.setBudget _

@[simp] theorem State.claimSupply_setup : s.SameSetup (s.claimSupply l) := by
  simp [State.SameSetup, State.claimSupply]
@[simp] theorem State.claimSupply_records : s.SameRecords (s.claimSupply l) := by
  simp [State.SameRecords, State.claimSupply]
@[simp] theorem State.claimSupply_channels : s.SameChannels (s.claimSupply l) := by
  simp [State.SameChannels, State.claimSupply]
@[simp] theorem State.claimSupply_sameButNotices : s.SameButNotices (s.claimSupply l) := by
  simp [State.SameButNotices, State.claimSupply]
@[simp] theorem State.claimSupply_supplyCommit_self :
    (s.claimSupply l).budget.supplyCommit.get l = (s.contract l).supplyCommitment := by simp [State.claimSupply]

theorem State.Told.claimSupply {s : State} {m : Line} {time : Time} {body : NoticeBody} (told : s.Told m time body) (l : Line) :
    (s.claimSupply l).Told m time body := (State.Told.setBudget told _).of_notices (by rw [State.claimSupply, State.passRise_eq])

/-- R127: a supply-side claim may send a held menu, and otherwise leaves the line's record and engine. -/
theorem State.claimSupply_line {s : State} {l m : Line} (quiet : (s.contract m).awaitsRise = false) :
    (s.claimSupply l).contract m = s.contract m ∧ (s.claimSupply l).engine m = s.engine m := by
  obtain ⟨contract, engine⟩ := State.passRise_line (s := s.setBudget { s.budget with
    supplyCommit := s.budget.supplyCommit.set l (s.contract l).supplyCommitment
    order := putGrant ⟨l, (s.contract l).supplyCommitment, (s.contract l).recallVoltage⟩ s.budget.order }) (m := m)
    (by simpa using quiet) s.budget.supplyHeadroom
  exact ⟨contract.trans (by simp), engine.trans (by simp)⟩

@[simp] theorem State.releaseBoth_setup : s.SameSetup (s.releaseBoth l) := by
  simp [State.SameSetup, State.releaseBoth]
@[simp] theorem State.releaseBoth_records : s.SameRecords (s.releaseBoth l) := by
  simp [State.SameRecords, State.releaseBoth]
@[simp] theorem State.releaseBoth_sameButNotices : s.SameButNotices (s.releaseBoth l) := by
  simp [State.SameButNotices, State.releaseBoth]
@[simp] theorem State.releaseBoth_sameButAllocation : s.SameButAllocation (s.releaseBoth l) := by
  simp [State.SameButAllocation, State.releaseBoth]

/-- R123: after a release the budget unit holds nothing for the line. -/
theorem State.releaseBoth_released : (s.releaseBoth l).budget.drawCommit.get l = 0 ∧
    (s.releaseBoth l).budget.drawCopy.get l = none ∧ (s.releaseBoth l).budget.supplyCommit.get l = 0 ∧
    ∀ g ∈ (s.releaseBoth l).budget.order, g.line ≠ l := by
  simp [State.releaseBoth]

theorem State.releaseBoth_line {s : State} {l m : Line} (quiet : (s.contract m).awaitsRise = false) :
    (s.releaseBoth l).contract m = s.contract m ∧ (s.releaseBoth l).engine m = s.engine m := by
  obtain ⟨contract, engine⟩ := State.passRise_line (s := (s.setBudget { s.budget with
    drawCommit := s.budget.drawCommit.set l 0
    drawCopy := s.budget.drawCopy.set l none
    supplyCommit := s.budget.supplyCommit.set l 0
    order := s.budget.order.filter fun g => !(g.line == l) }).reallocate) (m := m) (by simpa using quiet)
    s.budget.supplyHeadroom
  exact ⟨contract.trans (by simp), engine.trans (by simp)⟩

theorem State.Told.releaseBoth {s : State} {m : Line} {time : Time} {body : NoticeBody} (told : s.Told m time body) (l : Line) :
    (s.releaseBoth l).Told m time body :=
  (State.Told.setBudget told _).of_notices (by rw [State.releaseBoth, State.passRise_eq]; rfl)

end Sys2Proof.Machine
end

section
/-! SUPPORT. Closings (R52), FAULTED (R57) and the taking of a fault (R148 to R152): what each leaves on its own line. -/

namespace Sys2Proof.Machine

/-! ### Closings (R52) -/

section Closing
variable (s : State) (l : Line) (f : Contract → Contract)

/-- The state before the ENDED notice of a closing, which is raised where a role was held. -/
def State.closed : State :=
  (((s.dropVerdict l).onContract l f).releaseBoth l).onChannel l fun ch => { ch with energy := 0 }

theorem State.closing_eq : s.closing l f = if (s.contract l).role = .none then s.closed l f else
    (s.closed l f).raise (.line l) (.ended (s.contract l).role ((s.closed l f).contract l).state
      ((s.closed l f).contract l).lastOutcome) := rfl

@[simp] theorem State.closing_setup : s.SameSetup (s.closing l f) := by
  rw [State.closing_eq]
  split <;> simp [State.SameSetup, State.closed]

@[simp] theorem State.closing_records : s.SameRecords (s.closing l f) := by
  rw [State.closing_eq]
  split <;> simp [State.SameRecords, State.closed]

/-- R166: the verdict entry of a closed line leaves. -/
@[simp] theorem State.closing_verdictOf_self : (s.closing l f).verdictOf l = none := by
  rw [State.closing_eq]
  split <;> simp [State.closed]

/-- R52, R147: a closing sets the energy accumulator to 0 and leaves the rest of the channel. -/
@[simp] theorem State.closing_channel_self :
    ((s.closing l f).channel l).energy = 0 ∧ ((s.closing l f).channel l).command = (s.channel l).command ∧
      ((s.closing l f).channel l).tripped = (s.channel l).tripped ∧
      ((s.closing l f).channel l).latest = (s.channel l).latest ∧ ((s.closing l f).channel l).due = (s.channel l).due ∧
      ((s.closing l f).channel l).tripStamp = (s.channel l).tripStamp ∧
      ((s.closing l f).channel l).allowance = (s.channel l).allowance ∧
      ((s.closing l f).channel l).capReport = (s.channel l).capReport ∧
      ((s.closing l f).channel l).settleReport = (s.channel l).settleReport := by
  rw [State.closing_eq]
  split <;> simp [State.closed]

/-- R123, R126: the budget unit holds nothing for a closed line. -/
theorem State.closing_released : (s.closing l f).budget.drawCommit.get l = 0 ∧
    (s.closing l f).budget.drawCopy.get l = none ∧ (s.closing l f).budget.supplyCommit.get l = 0 ∧
    ∀ g ∈ (s.closing l f).budget.order, g.line ≠ l := by
  rw [State.closing_eq]
  split <;> exact State.releaseBoth_released _ l

variable {s l f}

/-- R52: the record of a closed line is the one its change makes, and its line engine stands. -/
theorem State.closing_line (left : (f (s.contract l)).state ≠ .offering) :
    (s.closing l f).contract l = f (s.contract l) ∧ (s.closing l f).engine l = s.engine l := by
  have line : (s.closed l f).contract l = f (s.contract l) ∧ (s.closed l f).engine l = s.engine l := by
    obtain ⟨contract, engine⟩ := State.releaseBoth_line (s := (s.dropVerdict l).onContract l f) (l := l) (m := l)
      (Contract.awaitsRise_of_state (by simpa using left))
    exact ⟨contract.trans (by simp), engine.trans (by simp)⟩
  rw [State.closing_eq]
  split
  · exact line
  · exact ⟨line.1, line.2⟩

@[simp] theorem State.closing_contract_self (left : (f (s.contract l)).state ≠ .offering) :
    (s.closing l f).contract l = f (s.contract l) := (State.closing_line left).1

@[simp] theorem State.closing_engine_self (left : (f (s.contract l)).state ≠ .offering) :
    (s.closing l f).engine l = s.engine l := (State.closing_line left).2

theorem State.Told.closing {m : Line} {time : Time} {body : NoticeBody} (told : s.Told m time body)
    (kind : body.kind ≠ .ended) : (s.closing l f).Told m time body := by
  have closed : (s.closed l f).Told m time body :=
    State.Told.of_notices (State.Told.releaseBoth (s := (s.dropVerdict l).onContract l f) (told.of_notices rfl) l) rfl
  rw [State.closing_eq]
  split
  · exact closed
  · refine closed.raise ?_ _
    exact kind

/-- R52: a closing tells the role held, the state entered and the outcome. -/
theorem State.closing_told (left : (f (s.contract l)).state ≠ .offering) (held : (s.contract l).role ≠ .none) :
    (s.closing l f).Told l s.now (.ended (s.contract l).role (f (s.contract l)).state (f (s.contract l)).lastOutcome) := by
  have line := State.closing_contract_self (f := f) left
  rw [State.closing_eq, if_neg held] at line ⊢
  rw [← line]
  have now : (s.closed l f).now = s.now := by simp [State.closed]
  rw [← now]
  exact State.told_raise _ _ _

end Closing

/-- R52: the record of a contract that has been closed: nothing asked, agreed or offered. -/
structure Contract.Closed (c : Contract) : Prop where
  requests : c.exchange = none ∧ c.waiting = none ∧ c.displaced = [] ∧ c.decision = none
  record : c.agreement = none ∧ c.claim = none ∧ c.grant = none ∧ c.recallOut = none ∧ c.target = none ∧
    c.leaseDeadline = none ∧ c.offered = none ∧ c.farMenu = none ∧ c.cursor = ⟨0, 0⟩ ∧ c.waitStreak = 0 ∧
    c.deferred = false

/-- Section 8.1: the states whose path is OPEN. -/
theorem Contract.path_of_uncontracted {c : Contract} (state : c.state.contracted = false) : c.path = .opened := by
  unfold Contract.path
  split <;> simp_all [CState.contracted]

@[simp] theorem Contract.enter_state (c : Contract) (st : CState) : (c.enter st).state = st := rfl
@[simp] theorem Contract.greet_state (c : Contract) (d : Option Time) : (c.greet d).state = .greeting := rfl
@[simp] theorem Contract.block_state (c : Contract) : c.block.state = .blocked := rfl

/-- R52: an event that closes its line and ends; the contract may have stepped its tag, and its engine taken frames, before. -/
theorem State.closing_closedTo {s u : State} {l : Line} {f : Contract → Contract} (role : (u.contract l).role = (s.contract l).role)
    (now : u.now = s.now) (closed : (f (u.contract l)).Closed) (uncontracted : (f (u.contract l)).state.contracted = false) :
    ClosedTo l s ((u.closing l f).endEvent l) (f (u.contract l)).state (roleOf (f (u.contract l)).state (f (u.contract l)).role)
      (f (u.contract l)).lastOutcome := by
  have left : (f (u.contract l)).state ≠ .offering := by
    intro offering
    simp [offering, CState.contracted] at uncontracted
  have contract : ((u.closing l f).endEvent l).contract l =
      { f (u.contract l) with role := roleOf (f (u.contract l)).state (f (u.contract l)).role } := by
    rw [State.contract_endEvent, State.closing_contract_self left]
  have opens : (((u.closing l f).endEvent l).contract l).path = .opened :=
    Contract.path_of_uncontracted (by rw [contract]; exact uncontracted)
  exact {
    state := by rw [contract]
    role := by rw [contract]
    outcome := by rw [contract]
    requests := by rw [contract]; exact closed.requests
    record := by rw [contract]; exact closed.record
    budget := u.closing_released l f
    verdict := by simp
    path := ⟨(State.endEvent_opened opens).1, by rw [State.channel_endEvent, (Channel.take_keeps ..).1]; simp⟩
    told := fun held => by
      rw [← role, ← now]
      exact (State.closing_told left (role ▸ held)).of_notices (by simp) }

theorem Contract.close_greet_closed (c : Contract) (d : Option Time) (o : Option Outcome) :
    Contract.Closed { c.close.greet d with lastOutcome := o } :=
  ⟨⟨rfl, rfl, rfl, rfl⟩, rfl, rfl, rfl, rfl, rfl, rfl, rfl, rfl, rfl, rfl, rfl⟩

theorem Contract.close_block_closed (c : Contract) (o : Option Outcome) :
    Contract.Closed { c.close.block with lastOutcome := o } :=
  ⟨⟨rfl, rfl, rfl, rfl⟩, rfl, rfl, rfl, rfl, rfl, rfl, rfl, rfl, rfl, rfl, rfl⟩

theorem Contract.close_faulted_closed (c : Contract) : (c.close.enter .faulted).Closed :=
  ⟨⟨rfl, rfl, rfl, rfl⟩, rfl, rfl, rfl, rfl, rfl, rfl, rfl, rfl, rfl, rfl, rfl⟩

section Endings
variable {s u : State} {l : Line}

/-- R52: a closing that re-greets, at the end of its event. -/
theorem State.closeToGreeting_closedTo (role : (u.contract l).role = (s.contract l).role) (now : u.now = s.now)
    (o : Option Outcome) : ClosedTo l s ((u.closeToGreeting l o).endEvent l) .greeting .none (o.or (u.contract l).lastOutcome) :=
  State.closing_closedTo role now (Contract.close_greet_closed _ _ _) rfl

theorem State.closeToGreeting_closedTo_some (role : (u.contract l).role = (s.contract l).role) (now : u.now = s.now)
    (o : Outcome) : ClosedTo l s ((u.closeToGreeting l (some o)).endEvent l) .greeting .none (some o) :=
  State.closeToGreeting_closedTo role now (some o)

theorem State.closeToBlocked_closedTo (role : (u.contract l).role = (s.contract l).role) (now : u.now = s.now) (o : Outcome) :
    ClosedTo l s ((u.closeToBlocked l o).endEvent l) .blocked .none (some o) :=
  State.closing_closedTo role now (Contract.close_block_closed _ _) rfl

theorem State.endToGreeting_closedTo (role : (u.contract l).role = (s.contract l).role) (now : u.now = s.now) (r : EndReason)
    (o : Outcome) : ClosedTo l s ((u.endToGreeting l r o).endEvent l) .greeting .none (some o) :=
  State.closeToGreeting_closedTo (by simpa using role) (by simpa using now) (some o)

theorem State.endToBlocked_closedTo (role : (u.contract l).role = (s.contract l).role) (now : u.now = s.now) (r : EndReason)
    (o : Outcome) : ClosedTo l s ((u.endToBlocked l r o).endEvent l) .blocked .none (some o) :=
  State.closeToBlocked_closedTo (by simpa using role) (by simpa using now) o

variable (s l)

@[simp] theorem State.closeToGreeting_contract_self (o : Option Outcome) : (s.closeToGreeting l o).contract l =
    { (s.contract l).close.greet (some (s.after 50)) with lastOutcome := o.or (s.contract l).lastOutcome } :=
  State.closing_contract_self (by simp)

@[simp] theorem State.closeToBlocked_contract_self (o : Outcome) : (s.closeToBlocked l o).contract l =
    { (s.contract l).close.block with lastOutcome := some o } := State.closing_contract_self (by simp)

@[simp] theorem State.closeToGreeting_engine_self (o : Option Outcome) : (s.closeToGreeting l o).engine l = s.engine l :=
  State.closing_engine_self (by simp)

@[simp] theorem State.closeToBlocked_engine_self (o : Outcome) : (s.closeToBlocked l o).engine l = s.engine l :=
  State.closing_engine_self (by simp)

@[simp] theorem State.endToGreeting_contract_self (r : EndReason) (o : Outcome) : (s.endToGreeting l r o).contract l =
    { Contract.greet (Contract.close { s.contract l with tagCounter := (s.contract l).tagCounter + 1 }) (some (s.after 50)) with
      lastOutcome := some o } := by
  simp [State.endToGreeting, State.after]

@[simp] theorem State.endToBlocked_contract_self (r : EndReason) (o : Outcome) : (s.endToBlocked l r o).contract l =
    { Contract.block (Contract.close { s.contract l with tagCounter := (s.contract l).tagCounter + 1 }) with
      lastOutcome := some o } := by
  simp [State.endToBlocked]

@[simp] theorem State.endToGreeting_engine_self (r : EndReason) (o : Outcome) : (s.endToGreeting l r o).engine l =
    (s.engine l).hand (Frame.mk (s.contract l).tagCounter (.ending r)).chars := by
  simp [State.endToGreeting]

@[simp] theorem State.endToBlocked_engine_self (r : EndReason) (o : Outcome) : (s.endToBlocked l r o).engine l =
    (s.engine l).hand (Frame.mk (s.contract l).tagCounter (.ending r)).chars := by
  simp [State.endToBlocked]

@[simp] theorem State.closeToGreeting_setup (o : Option Outcome) : s.SameSetup (s.closeToGreeting l o) :=
  State.closing_setup ..
@[simp] theorem State.closeToGreeting_records (o : Option Outcome) : s.SameRecords (s.closeToGreeting l o) :=
  State.closing_records ..
@[simp] theorem State.endToGreeting_records (r : EndReason) (o : Outcome) : s.SameRecords (s.endToGreeting l r o) :=
  State.closing_records ..
@[simp] theorem State.endToGreeting_setup (r : EndReason) (o : Outcome) : s.SameSetup (s.endToGreeting l r o) :=
  State.closing_setup ..

variable {s l}

/-- R9: a frame handed to a transmit side that takes it joins the tail of the queue. -/
theorem Handed.of_engine {t : State} {f : Frame} (engine : t.engine l = (s.engine l).hand f.chars)
    (room : (s.engine l).accepts = true) : Handed l s t f := by
  simp [Handed, engine, LineEngine.hand_txQueue, room]

end Endings

/-! ### FAULTED (R57) -/

section Faulted
variable (s : State) (l : Line)

/-- R57: the path opened and, where the line engine can send, the ENDING FAULT handed. -/
def State.faultEnding : State :=
  if ((s.command l .opened).engine l).canSend then (s.command l .opened).handNew l (.ending .fault) else s.command l .opened

theorem State.enterFaulted_eq : s.enterFaulted l =
    if (s.contract l).state = .detached ∨ (s.contract l).state = .faulted then s
    else (s.faultEnding l).closing l fun c => c.close.enter .faulted := rfl

@[simp] theorem State.faultEnding_setup : s.SameSetup (s.faultEnding l) := by
  unfold State.faultEnding
  split <;> simp [State.SameSetup]

@[simp] theorem State.faultEnding_records : s.SameRecords (s.faultEnding l) := by
  unfold State.faultEnding
  split <;> simp [State.SameRecords]

theorem State.faultEnding_line : (s.faultEnding l).engine l =
      (if (s.engine l).canSend then (s.engine l).hand (Frame.mk (s.contract l).tagCounter (.ending .fault)).chars else s.engine l) ∧
    (s.faultEnding l).contract l = { s.contract l with
      tagCounter := if (s.engine l).canSend then (s.contract l).tagCounter + 1 else (s.contract l).tagCounter } := by
  unfold State.faultEnding
  rw [State.command_engine]
  split <;> simp

/-- R57: the channel stands but for what OPEN and a closing change of it. -/
theorem State.faultEnding_channel : (s.faultEnding l).channel l =
    (s.channel l).take .opened s.now (s.contract l).options.capped := by
  unfold State.faultEnding
  split <;> simp

variable {s l}

theorem State.enterFaulted_of_contracted (attached : (s.contract l).state ≠ .detached) (sane : (s.contract l).state ≠ .faulted) :
    s.enterFaulted l = (s.faultEnding l).closing l fun c => c.close.enter .faulted := by
  rw [State.enterFaulted_eq, if_neg (not_or.2 ⟨attached, sane⟩)]

theorem State.enterFaulted_of_uncontracted (state : (s.contract l).state = .detached ∨ (s.contract l).state = .faulted) :
    s.enterFaulted l = s := if_pos state

variable (s l)

@[simp] theorem State.enterFaulted_setup : s.SameSetup (s.enterFaulted l) := by
  rw [State.enterFaulted_eq]
  split <;> simp [State.SameSetup]

@[simp] theorem State.enterFaulted_records : s.SameRecords (s.enterFaulted l) := by
  rw [State.enterFaulted_eq]
  split <;> simp [State.SameRecords]

variable {s l}

theorem State.Told.enterFaulted {m : Line} {time : Time} {body : NoticeBody} (told : s.Told m time body)
    (kind : body.kind ≠ .ended) : (s.enterFaulted l).Told m time body := by
  have ending : (s.faultEnding l).Told m time body := told.of_notices (by unfold State.faultEnding; split <;> simp)
  rw [State.enterFaulted_eq]
  split
  · exact told
  · exact ending.closing kind

theorem State.enterFaulted_engine_self (attached : (s.contract l).state ≠ .detached) (sane : (s.contract l).state ≠ .faulted) :
    (s.enterFaulted l).engine l = if (s.engine l).canSend then
      (s.engine l).hand (Frame.mk (s.contract l).tagCounter (.ending .fault)).chars else s.engine l := by
  rw [State.enterFaulted_of_contracted attached sane, State.closing_engine_self (by simp), (s.faultEnding_line l).1]

theorem State.enterFaulted_contract_self (attached : (s.contract l).state ≠ .detached) (sane : (s.contract l).state ≠ .faulted) :
    (s.enterFaulted l).contract l = Contract.enter (Contract.close { s.contract l with
      tagCounter := if (s.engine l).canSend then (s.contract l).tagCounter + 1 else (s.contract l).tagCounter }) .faulted := by
  rw [State.enterFaulted_of_contracted attached sane, State.closing_contract_self (by simp), (s.faultEnding_line l).2]

theorem State.enterFaulted_channel_self : ((s.enterFaulted l).channel l).due = (s.channel l).due ∧
    ((s.enterFaulted l).channel l).tripStamp = (s.channel l).tripStamp := by
  rw [State.enterFaulted_eq]
  split
  · exact ⟨rfl, rfl⟩
  · simp [State.faultEnding_channel, Channel.take_keeps]

/-- R57: FAULTED entered at the end of an event closes the line and keeps its role. -/
theorem State.enterFaulted_closedTo {u : State} (attached : (u.contract l).state ≠ .detached)
    (sane : (u.contract l).state ≠ .faulted) (role : (u.contract l).role = (s.contract l).role) (now : u.now = s.now) :
    ClosedTo l s ((u.enterFaulted l).endEvent l) .faulted (u.contract l).role (u.contract l).lastOutcome := by
  rw [State.enterFaulted_of_contracted attached sane]
  have closed := State.closing_closedTo (s := s) (u := u.faultEnding l) (l := l) (f := fun c => c.close.enter .faulted)
    (by rw [(u.faultEnding_line l).2]; exact role) (by simpa using now) (Contract.close_faulted_closed _) rfl
  rw [(u.faultEnding_line l).2] at closed
  exact closed

end Faulted

/-! ### The fault unit (R148 to R152) -/

section FaultUnit
variable (s : State) (l : Line) (cause : Cause) (kind : Option FrameKind) (stamp : Time)

theorem State.capture_eq : s.capture l cause kind stamp =
    if ((s.captures.get l).take cause (s.contract l).state kind stamp).2 then
      State.raise { s with captures := s.captures.set l ((s.captures.get l).take cause (s.contract l).state kind stamp).1 }
        (.line l) (.fault ((s.captures.get l).take cause (s.contract l).state kind stamp).1)
    else { s with captures := s.captures.set l ((s.captures.get l).take cause (s.contract l).state kind stamp).1 } := rfl

@[simp] theorem State.capture_setup : s.SameSetup (s.capture l cause kind stamp) := by
  rw [State.capture_eq]
  split <;> exact ⟨rfl, rfl, rfl, rfl, rfl, rfl⟩

@[simp] theorem State.capture_blocks : (s.capture l cause kind stamp).engines = s.engines ∧
    (s.capture l cause kind stamp).contracts = s.contracts ∧ (s.capture l cause kind stamp).channels = s.channels ∧
    (s.capture l cause kind stamp).budget = s.budget ∧ (s.capture l cause kind stamp).rules = s.rules ∧
    (s.capture l cause kind stamp).strikes = s.strikes := by
  rw [State.capture_eq]
  split <;> exact ⟨rfl, rfl, rfl, rfl, rfl, rfl⟩

@[simp] theorem State.capture_line (m : Line) : (s.capture l cause kind stamp).engine m = s.engine m ∧
    (s.capture l cause kind stamp).contract m = s.contract m ∧ (s.capture l cause kind stamp).channel m = s.channel m := by
  rw [State.capture_eq]
  split <;> exact ⟨rfl, rfl, rfl⟩

@[simp] theorem State.capture_sameButNotices : s.SameButNotices (s.capture l cause kind stamp) := by
  rw [State.capture_eq]
  split <;> exact ⟨rfl, rfl, rfl, rfl, rfl, rfl, rfl, rfl, rfl, rfl, fun _ => rfl⟩

@[simp] theorem State.capture_captures_self : (s.capture l cause kind stamp).captures.get l =
    ((s.captures.get l).take cause (s.contract l).state kind stamp).1 := by
  rw [State.capture_eq]
  split <;> simp

theorem State.capture_told (told : ((s.captures.get l).take cause (s.contract l).state kind stamp).2 = true) :
    (s.capture l cause kind stamp).Told l s.now (.fault ((s.captures.get l).take cause (s.contract l).state kind stamp).1) := by
  rw [State.capture_eq, if_pos told]
  exact State.told_raise _ _ _

theorem State.Told.capture {s : State} {m : Line} {time : Time} {body : NoticeBody} (told : s.Told m time body)
    (other : body.kind ≠ .fault) (l : Line) (cause : Cause) (kind : Option FrameKind) (stamp : Time) :
    (s.capture l cause kind stamp).Told m time body := by
  rw [State.capture_eq]
  split
  · refine State.Told.raise (s := { s with captures := _ }) told ?_ _
    exact other
  · exact told

/-- R152: a LINK fault with the strike count stepped. -/
def State.struck : State := { s with strikes := s.strikes.set l (min 255 (s.strikes.get l + 1)) }

@[simp] theorem State.struck_setup : s.SameSetup (s.struck l) := ⟨rfl, rfl, rfl, rfl, rfl, rfl⟩
@[simp] theorem State.struck_line (m : Line) : (s.struck l).engine m = s.engine m ∧
    (s.struck l).contract m = s.contract m ∧ (s.struck l).channel m = s.channel m := ⟨rfl, rfl, rfl⟩
@[simp] theorem State.struck_blocks : (s.struck l).engines = s.engines ∧ (s.struck l).contracts = s.contracts ∧
    (s.struck l).channels = s.channels ∧ (s.struck l).budget = s.budget ∧ (s.struck l).rules = s.rules ∧
    (s.struck l).captures = s.captures ∧ (s.struck l).link = s.link := ⟨rfl, rfl, rfl, rfl, rfl, rfl, rfl⟩
@[simp] theorem State.struck_strikes_self : (s.struck l).strikes.get l = min 255 (s.strikes.get l + 1) := by
  simp [State.struck]

variable {s l cause kind stamp}

theorem State.strike_of_ne (below : s.strikes.get l + 1 ≠ 4) : s.strike l = s.struck l := if_neg below

/-- R152: the fourth strike sends the contract to FAULTED. -/
theorem State.strike_of_fourth (fourth : s.strikes.get l + 1 = 4) : s.strike l = (s.struck l).enterFaulted l := if_pos fourth

/-- R151: a SEVERE fault leads to FAULTED. -/
theorem State.takeFaultOf_severe (severe : cause.cls = .severe) :
    s.takeFaultOf l cause kind stamp = (s.capture l cause kind stamp).enterFaulted l := by
  simp [State.takeFaultOf, severe]

/-- R151, R152: a LINK fault below the fourth strike. -/
theorem State.takeFaultOf_link (link : cause.cls = .link) (below : s.strikes.get l + 1 ≠ 4) :
    s.takeFaultOf l cause kind stamp = (s.capture l cause kind stamp).struck l := by
  simp only [State.takeFaultOf, link]
  exact State.strike_of_ne (by simpa using below)

theorem State.takeFaultOf_fourth (link : cause.cls = .link) (fourth : s.strikes.get l + 1 = 4) :
    s.takeFaultOf l cause kind stamp = ((s.capture l cause kind stamp).struck l).enterFaulted l := by
  simp only [State.takeFaultOf, link]
  exact State.strike_of_fourth (by simpa using fourth)

theorem State.takeFaultOf_protocol (protocol : cause.cls = .protocol) :
    s.takeFaultOf l cause kind stamp = s.capture l cause kind stamp := by
  simp [State.takeFaultOf, protocol]

/-- What keeps the fault unit's records of the line and its FAULT notices keeps what the taking of a fault left. -/
theorem FaultTakenIn.later {t u : State} {st : CState} (taken : FaultTakenIn l s t st cause kind stamp)
    (captures : u.captures.get l = t.captures.get l) (strikes : u.strikes.get l = t.strikes.get l)
    (told : ∀ capture, t.Told l s.now (.fault capture) → u.Told l s.now (.fault capture)) :
    FaultTakenIn l s u st cause kind stamp where
  capture := captures.trans taken.capture
  told := fun raised => told _ (taken.told raised)
  strikes := strikes.trans taken.strikes

/-- The same records and time before the fault, the same taking. -/
theorem FaultTakenIn.of_before {s' t : State} {st : CState} (taken : FaultTakenIn l s' t st cause kind stamp)
    (captures : s'.captures.get l = s.captures.get l) (strikes : s'.strikes.get l = s.strikes.get l) (now : s'.now = s.now) :
    FaultTakenIn l s t st cause kind stamp where
  capture := captures ▸ taken.capture
  told := by rw [← captures, ← now]; exact taken.told
  strikes := strikes ▸ taken.strikes

theorem FaultTakenIn.endEvent {t : State} {st : CState} (taken : FaultTakenIn l s t st cause kind stamp) (m : Line) :
    FaultTakenIn l s (t.endEvent m) st cause kind stamp :=
  taken.later (by simp) (by simp) fun _ told => told.of_notices (by simp)

variable (s l cause kind stamp)

/-- R150, R152: what the fault unit's taking of a fault leaves in its records. -/
theorem State.takeFaultOf_taken : FaultTakenIn l s (s.takeFaultOf l cause kind stamp) (s.contract l).state cause kind stamp := by
  have captured : cause.cls ≠ .link → FaultTakenIn l s (s.capture l cause kind stamp) (s.contract l).state cause kind stamp :=
    fun notLink => ⟨by simp, s.capture_told l cause kind stamp, by simp [notLink]⟩
  have struck : cause.cls = .link →
      FaultTakenIn l s ((s.capture l cause kind stamp).struck l) (s.contract l).state cause kind stamp :=
    fun link => ⟨by simp, s.capture_told l cause kind stamp, by simp [link]⟩
  cases cls : cause.cls with
  | severe =>
    rw [State.takeFaultOf_severe cls]
    exact (captured (by simp [cls])).later (by simp) (by simp) fun _ told => told.enterFaulted (by simp [NoticeBody.kind])
  | link =>
    by_cases fourth : s.strikes.get l + 1 = 4
    · rw [State.takeFaultOf_fourth cls fourth]
      exact (struck cls).later (by simp) (by simp) fun _ told => told.enterFaulted (by simp [NoticeBody.kind])
    · rw [State.takeFaultOf_link cls fourth]
      exact struck cls
  | protocol =>
    rw [State.takeFaultOf_protocol cls]
    exact captured (by simp [cls])

end FaultUnit

end Sys2Proof.Machine
end

section
/-! SUPPORT. Proofs for chapters 8 and 9: trips, the reverse watch, convention errors and malformed frames. -/

namespace Sys2Proof.Machine

section Severe
variable {s u : State} {l : Line} {cause : Cause} {kind : Option FrameKind} {stamp : Time}

/-- R57, R151: a SEVERE fault taken in a contract that is neither DETACHED nor FAULTED, at the end of its event. What came before
it in the event, from `s` to `u`, is of the line's channel alone. -/
theorem State.severe_closes (severe : cause.cls = .severe) (contract : u.contract l = s.contract l)
    (engine : u.engine l = s.engine l) (now : u.now = s.now) (captures : u.captures.get l = s.captures.get l)
    (strikes : u.strikes.get l = s.strikes.get l) (attached : (s.contract l).state ≠ .detached)
    (sane : (s.contract l).state ≠ .faulted) :
    let t := (u.takeFaultOf l cause kind stamp).endEvent l
    ClosedTo l s t .faulted (s.contract l).role (s.contract l).lastOutcome ∧ (t.channel l).tripped = false ∧
      (t.channel l).due = (u.channel l).due ∧ FaultTakenIn l s t (s.contract l).state cause kind stamp ∧
      ((s.engine l).accepts = true → Handed l s t ⟨(s.contract l).tagCounter, .ending .fault⟩) := by
  have taken := ((u.takeFaultOf_taken l cause kind stamp).of_before captures strikes now).endEvent l
  rw [State.takeFaultOf_severe severe, contract] at taken
  intro t
  have t_eq : t = ((u.capture l cause kind stamp).enterFaulted l).endEvent l := by
    simp only [t, State.takeFaultOf_severe severe]
  have captured : (u.capture l cause kind stamp).contract l = s.contract l := by simp [contract]
  have closed : ClosedTo l s t .faulted (s.contract l).role (s.contract l).lastOutcome := by
    rw [t_eq, ← captured]
    exact State.enterFaulted_closedTo (by rw [captured]; exact attached) (by rw [captured]; exact sane) (by rw [captured])
      (by simpa using now)
  have faulted : (t.contract l).state = .faulted := closed.state
  refine ⟨closed, ?_, ?_, t_eq ▸ taken, fun room => Handed.of_engine ?_ room⟩
  · rw [t_eq] at faulted ⊢
    exact (State.endEvent_opened (Contract.path_of_uncontracted (by rw [faulted]; rfl))).2
  · rw [t_eq, State.channel_endEvent, (Channel.take_keeps ..).2.1, State.enterFaulted_channel_self.1]
    simp
  · have sends : (s.engine l).canSend = true := by
      simp only [LineEngine.accepts, LineEngine.canSend, Bool.and_eq_true] at room ⊢
      exact room.1
    rw [t_eq, (State.endEvent_engines _ _).2, State.enterFaulted_engine_self (by rw [captured]; exact attached)
      (by rw [captured]; exact sane), captured]
    simp [engine, sends]

/-- R57, R151: in DETACHED and FAULTED a SEVERE fault is taken by the fault unit alone. -/
theorem State.severe_uncontracted (severe : cause.cls = .severe) (contract : u.contract l = s.contract l)
    (now : u.now = s.now) (captures : u.captures.get l = s.captures.get l)
    (strikes : u.strikes.get l = s.strikes.get l) (role : roleOf (s.contract l).state (s.contract l).role = (s.contract l).role)
    (state : (s.contract l).state = .detached ∨ (s.contract l).state = .faulted) :
    let t := (u.takeFaultOf l cause kind stamp).endEvent l
    t.contract l = s.contract l ∧ t.engine l = u.engine l ∧ t.budget = u.budget ∧ (t.channel l).command = .opened ∧
      (t.channel l).tripped = false ∧ (t.channel l).due = (u.channel l).due ∧
      FaultTakenIn l s t (s.contract l).state cause kind stamp := by
  have taken := ((u.takeFaultOf_taken l cause kind stamp).of_before captures strikes now).endEvent l
  have captured : (u.capture l cause kind stamp).contract l = s.contract l := by simp [contract]
  rw [State.takeFaultOf_severe severe, State.enterFaulted_of_uncontracted (by rw [captured]; exact state), contract] at taken
  intro t
  have t_eq : t = (u.capture l cause kind stamp).endEvent l := by
    simp only [t, State.takeFaultOf_severe severe]
    rw [State.enterFaulted_of_uncontracted (by rw [captured]; exact state)]
  have stands : t.contract l = s.contract l := by rw [t_eq, State.contract_endEvent, captured, role]
  have opens : (t.contract l).path = .opened := by
    rw [stands]
    exact Contract.path_of_uncontracted (by rcases state with h | h <;> rw [h] <;> rfl)
  rw [t_eq] at opens
  have opened := State.endEvent_opened opens
  rw [t_eq] at stands ⊢
  exact ⟨stands, by simp, by simp, opened.1, opened.2,
    by rw [State.channel_endEvent, (Channel.take_keeps ..).2.1]; simp, taken⟩

end Severe

/-- R144: the report of a trip clears the causes pending, and its fault is taken. -/
theorem State.reportTrip_eq (s : State) (l : Line) (cause : Cause) : s.reportTrip l cause =
    ((s.onChannel l fun ch => { ch with due := .none }).takeFaultOf l cause none (s.channel l).tripStamp).endEvent l := rfl

/-- R57, R144: what the row of a trip leaves that finds the contract neither DETACHED nor FAULTED. -/
theorem State.reportTrip_closes {s u : State} {l : Line} {cause : Cause} (severe : cause.cls = .severe)
    (contract : u.contract l = s.contract l) (engine : u.engine l = s.engine l) (now : u.now = s.now)
    (captures : u.captures.get l = s.captures.get l) (strikes : u.strikes.get l = s.strikes.get l)
    (attached : (s.contract l).state ≠ .detached) (sane : (s.contract l).state ≠ .faulted) :
    let t := u.reportTrip l cause
    ClosedTo l s t .faulted (s.contract l).role (s.contract l).lastOutcome ∧ (t.channel l).tripped = false ∧
      (t.channel l).due = .none ∧ FaultTakenIn l s t (s.contract l).state cause none (u.channel l).tripStamp ∧
      ((s.engine l).accepts = true → Handed l s t ⟨(s.contract l).tagCounter, .ending .fault⟩) := by
  obtain ⟨closed, untripped, due, taken, handed⟩ := State.severe_closes (s := s)
    (u := u.onChannel l fun ch => { ch with due := .none }) (kind := none) (stamp := (u.channel l).tripStamp) severe
    (by simpa using contract) (by simpa using engine) (by simpa using now) (by simpa using captures) (by simpa using strikes)
    attached sane
  exact ⟨closed, untripped, due.trans (by simp), taken, handed⟩

/-- Section 8.1: every path of a drawing line has the reverse watch. -/
theorem Contract.path_draw_watches {c : Contract} (draws : c.path.form = .draw) : c.path.watch.reverse = true := by
  unfold Contract.path at draws ⊢
  grind [PathCommand.draw, PathCommand.supply, PathCommand.opened]

/-- Settles O16: a completed run trips the channel, and the row of the trip closes the contract in FAULTED. -/
theorem reverseWatchOpensDrawPaths : Obligations.ReverseWatchOpensDrawPaths := by
  refine ⟨fun c draws => Contract.path_draw_watches draws, fun ch x capped untripped stopped watched => ?_,
    fun l s due sound draw sane => ?_⟩
  · intro run t
    have running : ch.settleExpired (x.time - 1) = false := by simp only [Channel.settleExpired, stopped]
    have after : ch.reverseAfter x = run := by simp only [Channel.reverseAfter, watched, if_true, run]
    obtain ⟨full, short⟩ := Channel.sample_reverse (capped := capped) untripped running watched
    rw [after] at full short
    refine ⟨fun done => ?_, short⟩
    obtain ⟨trips, reverse, stamp⟩ := full done
    obtain ⟨output, -, -, count, -⟩ := Channel.sample_tripped untripped trips
    exact ⟨trips, reverse, stamp, count, output⟩
  · have attached : (s.contract l).state ≠ .detached := by
      intro detached
      have role := sound.1
      rw [detached, draw] at role
      cases role
    obtain ⟨closed, untripped, none, taken, -⟩ :=
      State.reportTrip_closes (s := s) (u := s) (cause := .reverse) rfl rfl rfl rfl rfl rfl attached sane
    exact ⟨s.reportTrip l .reverse, if_pos due, closed.state, closed.path.1, untripped, none, taken⟩

/-- R136: what a channel whose trip flag is set does with a command. -/
theorem Channel.take_of_tripped {ch : Channel} (tripped : ch.tripped = true) (now : Time) (capped : Bool) :
    (∀ cmd : PathCommand, cmd.form ≠ .opened → ch.take cmd now capped = ch) ∧
      (ch.take .opened now capped).due = ch.due := by
  refine ⟨fun cmd drives => ?_, (Channel.take_keeps ..).2.1⟩
  have stays : (ch.tripped && !(cmd.form == .opened)) = true := by simp [tripped, drives]
  rw [Channel.take, if_pos (.inl stays), stays, ← tripped]

/-- R140: the settle timeout is reached, from its start. -/
theorem Channel.settleExpired_of_reached {ch : Channel} {start now : Time} (runs : ch.settleStart = some start)
    (reached : (now - (start + 250)).toNat < 2147483648) : ch.settleExpired now = true := by
  simp only [Channel.settleExpired, runs, reachedAt]
  exact decide_eq_true reached

/-- R144, R79: what a SEVERE row runs: the fault taken after a change of the line's channel alone. -/
structure SevereRow (l : Line) (s : State) (c : Instr) (cause : Cause) (stamp : Time) (u : State) : Prop where
  severe : cause.cls = .severe
  runs : exec c s = .next ((u.takeFaultOf l cause none stamp).endEvent l)
  same : ∃ f, u = s.onChannel l f
  cleared : c ≠ .voltageCheckExpiry l → (u.channel l).due = .none
  switching : c = .voltageCheckExpiry l → (s.contract l).state = .switching

/-- Settles O31: each row takes its fault after a change of the line's channel alone. -/
theorem tripsLeadToFaulted : Obligations.TripsLeadToFaulted := by
  refine ⟨fun ch cmd now capped tripped => ⟨by simp [Channel.output, tripped], (Channel.take_of_tripped tripped now capped).1 cmd,
    (Channel.take_opened ..).1, (Channel.take_opened ..).2, (Channel.take_of_tripped tripped now capped).2⟩,
    fun l s c cause stamp sound row => ?_⟩
  have about : c.line? = some l := by
    rcases row with ⟨-, h⟩ | ⟨rfl, -⟩ | ⟨rfl, -⟩
    · rcases h with ⟨rfl, -⟩ | ⟨rfl, -⟩ | ⟨rfl, -⟩ | ⟨rfl, -⟩ <;> rfl
    · rfl
    · rfl
  have severeRow : ∃ u, SevereRow l s c cause stamp u := by
    rcases row with ⟨rfl, row⟩ | ⟨rfl, rfl, pending, start, runs, reached, rfl⟩ |
      ⟨rfl, rfl, rfl, switching, ready, check, reached⟩
    · refine ⟨s.onChannel l fun ch => { ch with due := .none }, ?_⟩
      rcases row with ⟨rfl, rfl, due⟩ | ⟨rfl, rfl, due⟩ | ⟨rfl, rfl, due⟩ | ⟨rfl, rfl, due⟩ <;>
        exact ⟨rfl, if_pos due, ⟨_, rfl⟩, fun _ => by simp, nofun⟩
    · refine ⟨(s.onChannel l fun ch => ch.tripSettle).onChannel l fun ch => { ch with due := .none }, rfl, ?_,
        ⟨_, State.onChannel_onChannel ..⟩, fun _ => by simp, nofun⟩
      have expired := Channel.settleExpired_of_reached runs reached
      have stamp : ((s.onChannel l fun ch => ch.tripSettle).channel l).tripStamp = start + 250 := by
        simp [Channel.tripSettle, Channel.trip, runs]
      rw [← stamp, ← State.reportTrip_eq]
      simp [exec, execSettleTimeout, pending, expired]
    · refine ⟨s.command l .opened, rfl, ?_, ⟨_, rfl⟩, nofun, fun _ => switching⟩
      have due : s.reached (ready + 50#32) = true := decide_eq_true reached
      simp [exec, execVoltageCheckExpiry, check, switching, due, State.takeFault]
  obtain ⟨u, severe, runs, ⟨f, rfl⟩, cleared, switching⟩ := severeRow
  have frame := linesDoNotInterfere c l s _ about runs
  refine ⟨fun attached sane => ?_, fun state => ?_⟩
  · obtain ⟨closed, untripped, due, taken, handed⟩ := State.severe_closes (s := s) (u := s.onChannel l f) (l := l)
      (kind := none) (stamp := stamp) severe rfl rfl rfl rfl rfl attached sane
    exact ⟨_, runs, closed, untripped, fun other => due.trans (cleared other), taken, handed, frame⟩
  · obtain ⟨contract, engine, budget, command, untripped, due, taken⟩ := State.severe_uncontracted (s := s)
      (u := s.onChannel l f) (l := l) (kind := none) (stamp := stamp) severe rfl rfl rfl rfl sound.1 state
    have other : c ≠ .voltageCheckExpiry l := fun same => by simp [switching same] at state
    exact ⟨_, runs, contract, engine, budget, command, untripped, due.trans (cleared other), taken, frame⟩

/-! ### Faults of the receive side (R8, R22, R23) -/

/-- What `SameButQueue` keeps, field by field. -/
theorem LineEngine.SameButQueue.fields {e d : LineEngine} (same : e.SameButQueue d) : e.convention = d.convention ∧
    e.rxSide = d.rxSide ∧ e.rxChars = d.rxChars ∧ e.gapTimer = d.gapTimer ∧ e.health = d.health ∧ e.present = d.present ∧
    e.muted = d.muted ∧ e.wdCount = d.wdCount ∧ e.watchdog = d.watchdog := by
  simp_all [LineEngine.SameButQueue]

/-- R57: FAULTED entry changes nothing of the line engine but its queue. -/
theorem State.enterFaulted_sameButQueue (s : State) (l : Line) : ((s.enterFaulted l).engine l).SameButQueue (s.engine l) := by
  by_cases state : (s.contract l).state = .detached ∨ (s.contract l).state = .faulted
  · rw [State.enterFaulted_of_uncontracted state]
    rfl
  · obtain ⟨attached, sane⟩ := not_or.1 state
    rw [State.enterFaulted_engine_self attached sane]
    split
    · exact LineEngine.hand_same ..
    · rfl

theorem State.enterFaulted_faulted {s : State} {l : Line} (attached : (s.contract l).state ≠ .detached) :
    ((s.enterFaulted l).contract l).state = .faulted := by
  by_cases faulted : (s.contract l).state = .faulted
  · rwa [State.enterFaulted_of_uncontracted (.inr faulted)]
  · rw [State.enterFaulted_contract_self attached faulted]
    rfl

/-- R4, R8: an accepted first character that is not an initial character is a convention error. -/
theorem execConventionError_of {s : State} {l : Line} {w : WireChar} (awaited : (s.engine l).awaitsChar = true)
    (parity : w.parityOk = true) (first : (s.engine l).rxChars = []) (unknown : (s.engine l).convention = .unknown)
    (direct : w.data ≠ 0x3A) (inverse : w.data ≠ 0xA3) :
    exec (.conventionError l w) s = .next ((s.conventionError l).endEvent l) := by
  have error : isConventionError (s.engine l).convention w.data = true := (isConventionError_iff _ _).2 ⟨unknown, direct, inverse⟩
  exact if_pos (by simp [awaited, parity, first, error])

/-- R8: the line engine discards the frame, and its flag shows. -/
def State.conventionFlagged (s : State) (l : Line) : State :=
  (s.onEngine l fun e => e.clearRx .discarding).frameEvent l fun h => { h with conventionError := true }

theorem State.conventionError_eq (s : State) (l : Line) :
    s.conventionError l = (s.conventionFlagged l).takeFaultOf l .convention none s.now := rfl

/-- Settles O21: a LINK fault, which is FAULTED entry at the fourth strike alone. -/
theorem conventionErrorIsALinkFault : Obligations.ConventionErrorIsALinkFault := by
  intro l w s awaited parity first unknown direct inverse settled
  have runs := execConventionError_of awaited parity first unknown direct inverse
  have taken : FaultTaken l s ((s.conventionError l).endEvent l) .convention none :=
    FaultTakenIn.endEvent (s := s)
      ((State.takeFaultOf_taken (s.conventionFlagged l) l .convention none s.now).of_before rfl rfl rfl) l
  have flagged : (s.conventionFlagged l).engine l = { (s.engine l).clearRx .discarding with
      health := { (s.engine l).health.newEvent with conventionError := true } } := by
    simp [State.conventionFlagged, State.frameEvent, LineEngine.clearRx]
  have engine : ((s.conventionError l).engine l).SameButQueue ((s.conventionFlagged l).engine l) := by
    rw [State.conventionError_eq]
    by_cases fourth : (s.conventionFlagged l).strikes.get l + 1 = 4
    · rw [State.takeFaultOf_fourth rfl fourth]
      exact (State.enterFaulted_sameButQueue _ l).trans (by simp)
    · rw [State.takeFaultOf_link rfl fourth]
      simp [LineEngine.SameButQueue]
  obtain ⟨convention, side, chars, -, health, -⟩ := engine.fields
  rw [flagged] at convention side chars health
  refine ⟨_, runs, side, chars, convention.trans unknown, health, taken,
    fun below => ?_, fun fourth attached => ?_, linesDoNotInterfere (.conventionError l w) l s _ rfl runs⟩
  · have struck : s.conventionError l = ((s.conventionFlagged l).capture l .convention none s.now).struck l :=
      (s.conventionError_eq l).trans (State.takeFaultOf_link rfl below)
    have contract : (s.conventionError l).contract l = s.contract l := by rw [struck]; simp [State.conventionFlagged, State.frameEvent]
    have channel : (s.conventionError l).channel l = s.channel l := by rw [struck]; simp [State.conventionFlagged, State.frameEvent]
    rw [State.endEvent_of_still (Still.ofBlocks contract channel) settled]
    exact ⟨contract, channel⟩
  · have fourth' : s.conventionError l = (((s.conventionFlagged l).capture l .convention none s.now).struck l).enterFaulted l :=
      (s.conventionError_eq l).trans (State.takeFaultOf_fourth rfl fourth)
    rw [State.contract_endEvent, fourth']
    exact State.enterFaulted_faulted (by simpa [State.conventionFlagged, State.frameEvent] using attached)

/-- R22, R23: what a malformed frame changes before its fault is taken: the health record, a running greeting delay and the
last-frame-fault flag. -/
def State.malformedFlagged (s : State) (l : Line) (side : RxSide) : State :=
  (((s.onEngine l fun e => e.clearRx side).frameEvent l fun h => { h with malformed := true }).restartDelay l).onContract l
    fun c => { c with lastFrameFault := true }

theorem State.takeMalformed_eq (s : State) (l : Line) (side : RxSide) (kind : Option FrameKind) :
    (s.onEngine l fun e => e.clearRx side).takeMalformed l kind = (s.malformedFlagged l side).capture l .malformed kind s.now :=
  (State.takeFaultOf_protocol rfl : (s.malformedFlagged l side).takeFaultOf l .malformed kind s.now = _)

theorem State.malformedFlagged_engine (s : State) (l : Line) (side : RxSide) : (s.malformedFlagged l side).engine l =
    { (s.engine l).clearRx side with health := { (s.engine l).health.newEvent with malformed := true } } := by
  simp [State.malformedFlagged, State.frameEvent, State.restartDelay, LineEngine.clearRx]

theorem State.malformedFlagged_contract (s : State) (l : Line) (side : RxSide) : (s.malformedFlagged l side).contract l =
    { s.contract l with
      lastFrameFault := true
      timers := { (s.contract l).timers with
        greetingDelay := (s.contract l).timers.greetingDelay.map fun _ => s.now + 50 } } := by
  simp [State.malformedFlagged, State.frameEvent, State.restartDelay, State.after]

/-- Settles O22: the fault is of PROTOCOL class, so the event leaves the path and the contract state. -/
theorem malformedFramesAreProtocolFaults : Obligations.MalformedFramesAreProtocolFaults := by
  intro l s present receiving settled after
  have leaves : ∀ side kind, let t := ((s.onEngine l fun e => e.clearRx side).takeMalformed l kind).endEvent l
      (t.engine l).rxSide = side ∧ (LineFrame l s t → after t kind) := by
    intro side kind t
    have flagged : t = (s.malformedFlagged l side).capture l .malformed kind s.now := by
      refine (State.endEvent_of_still (s := s) ?_ settled).trans (s.takeMalformed_eq l side kind)
      rw [State.takeMalformed_eq]
      refine ⟨?_, ?_, ?_, ?_, ?_, ?_⟩ <;>
        simp [State.malformedFlagged, State.frameEvent, State.restartDelay, Contract.path]
    have engine : t.engine l = (s.malformedFlagged l side).engine l := by rw [flagged]; simp
    rw [State.malformedFlagged_engine] at engine
    have contract : t.contract l = (s.malformedFlagged l side).contract l := by rw [flagged]; simp
    rw [State.malformedFlagged_contract] at contract
    have taken : FaultTaken l s t .malformed kind := by
      rw [flagged, ← State.takeFaultOf_protocol (stamp := s.now) rfl]
      refine FaultTakenIn.of_before (s' := s.malformedFlagged l side) ?_ rfl rfl rfl
      have state : ((s.malformedFlagged l side).contract l).state = (s.contract l).state := by
        rw [State.malformedFlagged_contract]
      exact state ▸ State.takeFaultOf_taken ..
    refine ⟨by rw [engine]; rfl, fun frame => ⟨by rw [engine]; rfl, by rw [engine]; rfl, by rw [engine]; rfl, contract, ?_, ?_,
      taken, frame⟩⟩
    · rw [flagged]
      simp [State.malformedFlagged, State.frameEvent, State.restartDelay]
    · rw [flagged]
      simp [State.malformedFlagged, State.frameEvent, State.restartDelay]
  refine ⟨fun tooLong => ?_, fun kind ready malformed => ?_⟩
  · have runs : exec (.overLengthFrame l) s =
        .next (((s.onEngine l fun e => e.clearRx .discarding).takeMalformed l none).endEvent l) :=
      if_pos (by simp [present, receiving, tooLong])
    obtain ⟨side, rest⟩ := leaves .discarding none
    exact ⟨_, runs, side, rest (linesDoNotInterfere (.overLengthFrame l) l s _ rfl runs)⟩
  · have runs : exec (.malformedFrame l) s =
        .next (((s.onEngine l fun e => e.clearRx .idle).takeMalformed l kind).endEvent l) := by
      simp [exec, execMalformedFrame, ready, malformed]
    obtain ⟨side, rest⟩ := leaves .idle kind
    exact ⟨_, runs, side, rest (linesDoNotInterfere (.malformedFrame l) l s _ rfl runs)⟩

end Sys2Proof.Machine
end

section
/-! SUPPORT. Proofs for R18, R19, R44 and R56 (presence), and for the sends of the line engine (R9 to R15, R20, R34). -/

namespace Sys2Proof.Machine

/-! ### ATTACH (R18, R44) -/

section Presence
variable (s : State) (l : Line)

/-- R44: the record an attach greets with, or blocks. -/
def State.attachedContract : Contract :=
  if s.straps.get l = .disabled then (s.contract l).block else (s.contract l).greet (some (s.after 50))

/-- The attach before its notice. -/
def State.attaching : State :=
  ((s.onEngine l fun e => { e with present := true, wdCount := 0 }).clearStrikes l).onContract l fun _ => s.attachedContract l

theorem State.attach_eq : s.attach l =
    ((s.attaching l).raise (.line l) (.attach (s.attachedContract l).state)).endEvent l := by
  simp [State.attach, State.attaching, State.attachedContract, State.onContract, State.contract, State.clearStrikes,
    State.onEngine]

@[simp] theorem State.attaching_contract_self : (s.attaching l).contract l = s.attachedContract l := by
  simp [State.attaching]

theorem State.attach_contract : (s.attach l).contract l = s.attachedContract l := by
  rw [State.attach_eq, State.contract_endEvent]
  simp only [State.raise_contract, State.attaching_contract_self]
  unfold State.attachedContract
  split <;> rfl

theorem State.attach_engine : (s.attach l).engine l = { s.engine l with present := true, wdCount := 0 } := by
  simp [State.attach_eq, State.attaching]

/-- R44: what ATTACH leaves on its line. -/
theorem State.attach_leaves : (s.attach l).strikes.get l = 0 ∧
    (s.attach l).Told l s.now (.attach ((s.attach l).contract l).state) := by
  rw [State.attach_contract, State.attach_eq]
  exact ⟨by simp [State.attaching], State.Told.of_notices (State.told_raise (s.attaching l) l _) (by simp)⟩

/-! ### DETACH (R19, R56) -/

/-- R56: the line of a detach with its path opened and its record cleared. -/
def State.cleared : State :=
  (((s.onChannel l fun ch => ch.expire s.now).command l .opened).dropVerdict l).onContract l fun c =>
    { Contract.fresh c.options with lastOutcome := some .detached }

/-- The detach before its notice. -/
def State.detaching : State := ((s.cleared l).releaseBoth l).onChannel l fun ch => { ch with energy := 0 }

theorem State.teardown_eq : s.teardown l =
    ((s.detaching l).raise (.line l) (.detach .detached (some .detached))).endEvent l := rfl

theorem State.cleared_contract_self : (s.cleared l).contract l =
    { Contract.fresh (s.contract l).options with lastOutcome := some .detached } := by
  simp [State.cleared]

theorem State.detaching_line : (s.detaching l).contract l =
      { Contract.fresh (s.contract l).options with lastOutcome := some .detached } ∧
    (s.detaching l).engine l = s.engine l := by
  obtain ⟨contract, engine⟩ := State.releaseBoth_line (s := s.cleared l) (l := l) (m := l)
    (Contract.awaitsRise_of_state (by simp [State.cleared_contract_self, Contract.fresh]))
  exact ⟨contract.trans (s.cleared_contract_self l), engine.trans (by simp [State.cleared])⟩

theorem State.teardown_contract : (s.teardown l).contract l =
    { Contract.fresh (s.contract l).options with lastOutcome := some .detached } := by
  rw [State.teardown_eq, State.contract_endEvent, State.raise_contract, (s.detaching_line l).1]
  rfl

theorem State.teardown_engine : (s.teardown l).engine l = s.engine l := by
  rw [State.teardown_eq, (State.endEvent_engines _ _).2, State.raise_engine, (s.detaching_line l).2]

/-- R56, R144: what a detach leaves of the channel: an expired settle timeout has tripped it before OPEN reaches it. -/
theorem State.teardown_channel : ((s.teardown l).channel l).command = .opened ∧ ((s.teardown l).channel l).tripped = false ∧
    ((s.teardown l).channel l).energy = 0 ∧ ((s.teardown l).channel l).due = ((s.channel l).expire s.now).due ∧
    ((s.teardown l).channel l).tripStamp = ((s.channel l).expire s.now).tripStamp := by
  have opens : ((s.teardown l).contract l).path = .opened :=
    Contract.path_of_uncontracted (by rw [State.teardown_contract]; rfl)
  obtain ⟨command, untripped⟩ := State.endEvent_opened opens
  refine ⟨command, untripped, ?_⟩
  rw [State.teardown_eq, State.channel_endEvent, (Channel.take_keeps ..).1, (Channel.take_keeps ..).2.1,
    (Channel.take_keeps ..).2.2.1]
  simp [State.detaching, State.cleared, Channel.take_keeps]

/-- R56, R123, R150: what a detach leaves beside its line's record, engine and channel. -/
theorem State.teardown_leaves : (s.teardown l).budget.drawCommit.get l = 0 ∧ (s.teardown l).budget.drawCopy.get l = none ∧
    (s.teardown l).budget.supplyCommit.get l = 0 ∧ (∀ g ∈ (s.teardown l).budget.order, g.line ≠ l) ∧
    (s.teardown l).verdictOf l = none ∧ (s.teardown l).captures.get l = s.captures.get l ∧
    (s.teardown l).Told l s.now (.detach .detached (some .detached)) := by
  obtain ⟨commit, copy, supply, order⟩ := State.releaseBoth_released (s.cleared l) l
  refine ⟨commit, copy, supply, order, ?_, ?_, ?_⟩
  · rw [State.teardown_eq]
    simp [State.detaching, State.cleared]
  · rw [State.teardown_eq]
    simp [State.detaching, State.cleared]
  · have now : (s.detaching l).now = s.now := by simp [State.detaching, State.cleared]
    rw [State.teardown_eq, ← now]
    exact State.Told.of_notices (State.told_raise (s.detaching l) l _) (by simp)

end Presence

/-- R140: a settle watch that does not run to its timeout leaves the channel. -/
theorem Channel.expire_of_running {ch : Channel} {now : Time}
    (running : ∀ start, ch.settleStart = some start → 2147483648 ≤ (now - (start + 250)).toNat) : ch.expire now = ch := by
  refine if_neg ?_
  unfold Channel.settleExpired
  split
  · next start runs => simpa [reachedAt] using running start runs
  · exact Bool.false_ne_true

theorem Channel.expire_of_expired {ch : Channel} {start now : Time} (runs : ch.settleStart = some start)
    (reached : (now - (start + 250)).toNat < 2147483648) : (ch.expire now).due = { ch.due with settle := true } ∧
      (ch.expire now).tripStamp = start + 250 := by
  rw [Channel.expire, if_pos (Channel.settleExpired_of_reached runs reached)]
  simp [Channel.tripSettle, Channel.trip, TripsDue.join, runs]

/-- Settles O18. -/
theorem attachAndDetachAreTaken : Obligations.AttachAndDetachAreTaken := by
  refine ⟨fun l s absent => ⟨fun short => ?_, fun high long => ?_⟩, fun l s present => ⟨fun short => ?_, fun low long => ?_⟩⟩
  · exact if_neg (by rcases short with h | h <;> simp [LineEngine.held, h, Nat.not_le.2])
  · have runs : exec (.attach l) s = .next (s.attach l) := if_pos ⟨absent, by simp [LineEngine.held, high, long]⟩
    obtain ⟨strikes, told⟩ := s.attach_leaves l
    refine ⟨_, runs, ?_, ?_, strikes, fun disabled => ?_, fun enabled => ?_, ?_, ?_, told,
      linesDoNotInterfere (.attach l) l s _ rfl runs⟩
    · rw [State.attach_engine]
    · rw [State.attach_engine]
    · rw [State.attach_contract, State.attachedContract, if_pos disabled]
      rfl
    · rw [State.attach_contract, State.attachedContract, if_neg enabled]
      exact ⟨rfl, rfl, rfl⟩
    · rw [State.attach_contract, State.attachedContract]
      split <;> rfl
    · rw [State.attach_engine]
  · exact if_neg (by rcases short with h | h <;> simp [LineEngine.held, h, Nat.not_le.2])
  · have runs : exec (.detach l) s = .next ((s.onEngine l LineEngine.leave).teardown l) :=
      if_pos ⟨present, by simp [LineEngine.held, low, long]⟩
    obtain ⟨command, untripped, energy, due, stamp⟩ := (s.onEngine l LineEngine.leave).teardown_channel l
    obtain ⟨commit, copy, supply, order, verdict, captures, told⟩ := (s.onEngine l LineEngine.leave).teardown_leaves l
    refine ⟨_, runs, ?_, State.teardown_contract _ l, command, untripped, energy, fun running => ?_,
      fun start started reached => ?_, commit, copy, supply, order, verdict, captures, told,
      linesDoNotInterfere (.detach l) l s _ rfl runs⟩
    · rw [State.teardown_engine, State.onEngine_engine_self]
      exact ⟨rfl, rfl, rfl, rfl, rfl, rfl, rfl, rfl, rfl, rfl⟩
    · exact due.trans (congrArg Channel.due (Channel.expire_of_running running))
    · rw [due, stamp]
      exact Channel.expire_of_expired started reached

/-! ### Reports of frames (R9, R34) -/

section Reports
variable {s : State} {l : Line}

/-- R9: a report that is not of the outstanding request's frame. -/
theorem State.reported_of_other {id : Nat} (other : ∀ x, (s.contract l).exchange = some x → x.frameId ≠ id) :
    s.reported l id = s.slowReport l id := by
  unfold State.reported
  split
  · next x outstanding => exact if_neg (other x outstanding)
  · rfl

theorem State.reported_of_own {x : Exchange} (outstanding : (s.contract l).exchange = some x) :
    s.reported l x.frameId = s.startTimer l := by
  simp [State.reported, outstanding]

/-- R34: a report starts the answer timer of a request that the answer timeout times. -/
theorem State.startTimer_of {x : Exchange} (outstanding : (s.contract l).exchange = some x) :
    s.startTimer l = s.onContract l fun c => (if x.kind.answerTimed then
        { c with exchange := some { x with timer := some (s.answerEnd l), reportedAt := some s.now } } else c).noteReport
      x.kind s.now := by
  unfold State.startTimer
  refine State.onContract_congr ?_
  simp only [outstanding, State.answerDue_eq]

/-- R34: the report of a CLAIM without its GRANT or of a RENEW starts its answer timer. -/
theorem State.startTimer_of_answered {x : Exchange} (outstanding : (s.contract l).exchange = some x)
    (kind : x.kind = .claim ∨ x.kind = .renew) : s.startTimer l = s.onContract l fun c =>
      { c with exchange := some { x with timer := some (s.answerEnd l), reportedAt := some s.now } } := by
  rw [State.startTimer_of outstanding]
  refine State.onContract_congr ?_
  rcases kind with kind | kind <;> simp [kind, Contract.noteReport, ReqKind.answerTimed]

/-- R34, R46: in an unmanaged BASELINE the report of an ANNOUNCE starts the slow re-greeting beside its answer timer. -/
theorem State.startTimer_of_slow {x : Exchange} (outstanding : (s.contract l).exchange = some x) (kind : x.kind = .announce)
    (slow : (s.contract l).state = .baseline ∧ (s.contract l).unmanaged = true) : s.startTimer l = s.onContract l fun c =>
      { c with
        exchange := some { x with timer := some (s.answerEnd l), reportedAt := some s.now }
        timers := { c.timers with slowRegreeting := some (s.now + 5000) } } := by
  rw [State.startTimer_of outstanding]
  exact State.onContract_congr (by simp [kind, Contract.noteReport, ReqKind.answerTimed, slow])

theorem State.startTimer_of_announce {x : Exchange} (outstanding : (s.contract l).exchange = some x)
    (kind : x.kind = .announce) (fast : ¬((s.contract l).state = .baseline ∧ (s.contract l).unmanaged = true)) :
    s.startTimer l = s.onContract l fun c =>
      { c with exchange := some { x with timer := some (s.answerEnd l), reportedAt := some s.now } } := by
  rw [State.startTimer_of outstanding]
  exact State.onContract_congr (by simp [kind, Contract.noteReport, ReqKind.answerTimed, fast])

/-- R34: after its first GRANT a CLAIM is timed no more. -/
theorem State.startTimer_of_granted {x : Exchange} (outstanding : (s.contract l).exchange = some x)
    (kind : x.kind = .claimGranted) : s.startTimer l = s := by
  rw [State.startTimer_of outstanding, kind]
  exact s.onContract_id l

/-- R101: the report of a RECALL starts its deadline. -/
theorem State.startTimer_of_recall {x : Exchange} {r : RecallOut} (outstanding : (s.contract l).exchange = some x)
    (kind : x.kind = .recall) (out : (s.contract l).recallOut = some r) :
    s.startTimer l = s.onContract l fun c => { c with recallOut := some { r with deadline := some (s.now + 100) } } := by
  rw [State.startTimer_of outstanding, kind]
  exact State.onContract_congr (by simp [Contract.noteReport, ReqKind.answerTimed, out])

theorem State.slowReport_of_other {id : Nat} (other : (s.contract l).timers.slowFrame ≠ some id) : s.slowReport l id = s :=
  if_neg other

theorem State.slowReport_of_slow {id : Nat} (slow : (s.contract l).timers.slowFrame = some id) :
    s.slowReport l id = s.onContract l fun c =>
      { c with timers := { c.timers with slowFrame := none, slowRegreeting := some (s.now + 5000) } } := if_pos slow

/-- R9: the report of the last character's send. -/
theorem execFrameSent_of {f : TxFrame} {fs : List TxFrame} (queue : (s.engine l).txQueue = f :: fs)
    (sending : (s.engine l).txSide = .sending) (last : (s.engine l).txIndex + 1 = (s.engine l).txLevels.length)
    (settled : s.LineSettled l) :
    exec (.frameSent l) s = .next ((s.onEngine l LineEngine.finishHead).reported l f.id) := by
  have ended : ((s.onEngine l LineEngine.finishHead).reported l f.id).endEvent l =
      (s.onEngine l LineEngine.finishHead).reported l f.id :=
    State.endEvent_of_still (((Still.refl l s).onEngine l _).reported l _) settled
  simp [exec, execFrameSent, queue, sending, last, ended]

end Reports

/-- Settles O24: the cases are those of the report of the head frame. -/
theorem sentFrameIsReported : Obligations.SentFrameIsReported := by
  intro l s f fs queue sending last settled sent timed
  have runs := execFrameSent_of queue sending last settled
  have finished : s.onEngine l LineEngine.finishHead = sent :=
    State.onEngine_congr (by simp [LineEngine.finishHead, queue])
  rw [finished] at runs
  refine ⟨fun other => ⟨fun quick => ?_, fun slow => ?_⟩, fun x outstanding own => ?_⟩
  · rw [runs, State.reported_of_other (s := sent) other, State.slowReport_of_other (s := sent) quick]
  · rw [runs, State.reported_of_other (s := sent) other, State.slowReport_of_slow (s := sent) slow]
    rfl
  · rw [← own, State.reported_of_own (s := sent) outstanding] at runs
    rw [runs]
    refine ⟨fun kind => ?_, fun kind slow => ?_, fun kind fast => ?_, fun kind => ?_, fun r kind out => ?_⟩
    · rw [State.startTimer_of_answered (s := sent) outstanding kind]
      rfl
    · rw [State.startTimer_of_slow (s := sent) outstanding kind slow]
      rfl
    · rw [State.startTimer_of_announce (s := sent) outstanding kind fast]
      rfl
    · rw [State.startTimer_of_granted (s := sent) outstanding kind]
    · rw [State.startTimer_of_recall (s := sent) outstanding kind out]
      rfl

end Sys2Proof.Machine
end

section
/-! SUPPORT. Requests of the device (R32), and proofs for the contract timers that send them (R45, R46, R76, R81). -/

namespace Sys2Proof.Machine

/-- Changes of one line's engine and record commute. -/
theorem State.onContract_onEngine (s : State) (l : Line) (f : Contract → Contract) (g : LineEngine → LineEngine) :
    (s.onContract l f).onEngine l g = (s.onEngine l g).onContract l f := rfl

/-! ### Requests (R9, R32) -/

section Requests
variable {s : State} {l : Line}

theorem LineEngine.hand_of_accepts {e : LineEngine} (room : e.accepts = true) (chars : List Byte) : e.hand chars =
    { e with
      txQueue := e.txQueue ++ [⟨e.nextId, chars, 0⟩]
      txSide := if e.txSide = .idle then .waiting else e.txSide
      nextId := e.nextId + 1 } := if_pos room

/-- R32: a request that is handed becomes the outstanding one. -/
theorem State.sendRequest_of_accepts (room : (s.engine l).accepts = true) (r : Request) : s.sendRequest l r =
    (s.onEngine l fun e => e.hand r.chars).onContract l fun c =>
      { c with exchange := some ⟨r.kind, r.tag, r.chars, (s.engine l).nextId, r.expiries, none, none⟩ } := if_pos room

theorem State.handWaiting_of_none (free : (s.contract l).waiting = none) : s.handWaiting l = s := by
  unfold State.handWaiting
  split
  · next waits => simp [free] at waits
  · rfl

theorem State.handWaiting_of_outstanding (busy : (s.contract l).exchange.isSome = true) : s.handWaiting l = s := by
  unfold State.handWaiting
  split
  · next none _ => simp [none] at busy
  · rfl

/-- R32: a request is handed at once where none is outstanding and none waits. -/
theorem State.originate_of_free (none : (s.contract l).exchange = none) (free : (s.contract l).waiting = .none) (r : Request) :
    s.originate l r = s.sendRequest l r := by
  simp [State.originate, State.handWaiting_of_none free, none]

theorem State.originate_of_outstanding (busy : (s.contract l).exchange.isSome = true) (r : Request) :
    s.originate l r = s.wait l r := by
  have some : (s.contract l).exchange.isNone = false := by simpa using busy
  simp [State.originate, State.handWaiting_of_outstanding busy, some]

theorem State.wait_of_none (free : (s.contract l).waiting = none) (r : Request) :
    s.wait l r = s.onContract l fun c => { c with waiting := some r } := by
  simp [State.wait, free]

/-- R31, R32: a request with a new tag. -/
theorem State.originateNew_eq (k : ReqKind) (b : FrameBody) : s.originateNew l k b = (s.stepTag l).originate l
    ⟨k, (s.contract l).tagCounter, (Frame.mk (s.contract l).tagCounter b).chars, 0⟩ := rfl

theorem State.answerEnd_congr {s' : State} (now : s'.now = s.now) (options : (s'.contract l).options = (s.contract l).options) :
    s'.answerEnd l = s.answerEnd l := by
  simp only [State.answerEnd, now, options]

/-- R32, R34: a displaced CLAIM or RENEW is timed as one reported DROPPED now. -/
theorem State.displace_of_answered {w : Request} (kind : w.kind = .claim ∨ w.kind = .renew) :
    s.displace l w = s.onContract l fun c => { c with displaced :=
      c.displaced ++ [⟨w.kind, w.tag, w.chars, 0, w.expiries, some (s.answerEnd l), some s.now⟩] } := by
  rw [← State.answerDue_eq]
  exact State.onContract_congr (by rcases kind with kind | kind <;> simp [kind, Contract.noteReport, ReqKind.answerTimed])

/-- Requests change nothing of a contract record but the slot, what waits, the timers and a recall's deadline. -/
def Contract.SameButSlot (c d : Contract) : Prop :=
  { c with exchange := none, waiting := none, displaced := [], recallOut := none, timers := .stopped } =
    { d with exchange := none, waiting := none, displaced := [], recallOut := none, timers := .stopped }

theorem Contract.SameButSlot.trans {c d e : Contract} (h : c.SameButSlot d) (k : d.SameButSlot e) : c.SameButSlot e :=
  Eq.trans h k

theorem Contract.SameButSlot.fields {c d : Contract} (same : c.SameButSlot d) : c.state = d.state ∧ c.role = d.role ∧
    c.lastOutcome = d.lastOutcome ∧ c.waitStreak = d.waitStreak ∧ c.farMenu = d.farMenu ∧ c.deferred = d.deferred ∧
    c.decision = d.decision ∧ c.paused = d.paused ∧ c.agreement = d.agreement ∧ c.target = d.target ∧ c.far = d.far ∧
    c.farRecall = d.farRecall ∧ c.lineClamp = d.lineClamp ∧ c.options = d.options ∧ c.tagCounter = d.tagCounter ∧
    c.lastFrameFault = d.lastFrameFault ∧ c.grant = d.grant ∧ c.offered = d.offered ∧ c.cursor = d.cursor := by
  simp_all [Contract.SameButSlot]

theorem Contract.noteReport_sameButSlot (c : Contract) (k : ReqKind) (now : Time) : (c.noteReport k now).SameButSlot c := by
  unfold Contract.noteReport
  split
  · rfl
  · split <;> rfl
  all_goals rfl

/-- What a request's sending, waiting or displacing leaves of the part. -/
structure SlotChanged (l : Line) (s t : State) : Prop where
  rest : t = { s with engines := t.engines, contracts := t.contracts }
  record : (t.contract l).SameButSlot (s.contract l)
  engine : (t.engine l).SameButQueue (s.engine l)

theorem SlotChanged.refl (l : Line) (s : State) : SlotChanged l s s := ⟨rfl, rfl, rfl⟩

theorem SlotChanged.trans {t u : State} (h : SlotChanged l s t) (k : SlotChanged l t u) : SlotChanged l s u :=
  ⟨by rw [k.rest, h.rest], k.record.trans h.record, k.engine.trans h.engine⟩

theorem SlotChanged.hand (s : State) (l : Line) (chars : List Byte) : SlotChanged l s (s.onEngine l fun e => e.hand chars) :=
  ⟨rfl, rfl, by rw [State.onEngine_engine_self]; exact LineEngine.hand_same ..⟩

theorem SlotChanged.onContract {f : Contract → Contract} (same : (f (s.contract l)).SameButSlot (s.contract l)) :
    SlotChanged l s (s.onContract l f) := ⟨rfl, by rwa [State.onContract_contract_self], rfl⟩

theorem State.startTimer_slot (s : State) (l : Line) : SlotChanged l s (s.startTimer l) := by
  refine SlotChanged.onContract ?_
  split
  · rfl
  · refine (Contract.noteReport_sameButSlot ..).trans ?_
    split <;> rfl

theorem State.sendRequest_slot (s : State) (l : Line) (r : Request) : SlotChanged l s (s.sendRequest l r) := by
  have handed := (SlotChanged.hand s l r.chars).trans (SlotChanged.onContract (l := l) (f := fun c =>
    { c with exchange := some ⟨r.kind, r.tag, r.chars, (s.engine l).nextId, r.expiries, none, none⟩ }) rfl)
  unfold State.sendRequest
  dsimp only
  split
  · exact handed
  · exact handed.trans (State.startTimer_slot ..)

theorem State.handWaiting_slot (s : State) (l : Line) : SlotChanged l s (s.handWaiting l) := by
  unfold State.handWaiting
  split
  · exact (SlotChanged.onContract (by rfl)).trans (State.sendRequest_slot ..)
  · exact SlotChanged.refl l s

theorem State.displace_slotChanged (s : State) (l : Line) (r : Request) : SlotChanged l s (s.displace l r) := by
  refine SlotChanged.onContract ((Contract.noteReport_sameButSlot ..).trans ?_)
  split <;> rfl

theorem State.wait_slot (s : State) (l : Line) (r : Request) : SlotChanged l s (s.wait l r) := by
  unfold State.wait
  refine SlotChanged.trans ?_ (SlotChanged.onContract (by rfl))
  split
  · exact State.displace_slotChanged ..
  · exact SlotChanged.refl l s

theorem State.originate_slot (s : State) (l : Line) (r : Request) : SlotChanged l s (s.originate l r) := by
  refine (s.handWaiting_slot l).trans ?_
  unfold State.originate
  dsimp only
  split
  · exact State.sendRequest_slot ..
  · exact State.wait_slot ..

theorem SlotChanged.told {t : State} (changed : SlotChanged l s t) {m : Line} {time : Time} {body : NoticeBody}
    (told : s.Told m time body) : t.Told m time body := told.of_notices (by rw [changed.rest])

end Requests

/-! ### The greeting's ANNOUNCEs (R45, R46) -/

/-- R45: the class of the device's ANNOUNCE. -/
theorem announceClass_eq (r : RoleSet) (ceiling : Nat) : announceClass r ceiling =
    if r.draw then (if r.supply = true ∧ ceiling ≠ 0 then .both else .consumer) else if r.supply then .supplier else .none := by
  unfold announceClass
  cases r.draw <;> cases r.supply <;> simp

/-- R45: an initiating ANNOUNCE is handed at once where no request is outstanding and none waits. -/
theorem State.sendAnnounce_of_maySend {s : State} {l : Line} (free : s.MaySend l) : s.sendAnnounce l =
    (s.onEngine l fun e => e.hand (Frame.mk 1 (s.announce l false)).chars).onContract l fun c => { c with
      exchange := some ⟨.announce, 1, (Frame.mk 1 (s.announce l false)).chars, (s.engine l).nextId, 0, none, none⟩ } := by
  obtain ⟨room, none, waits⟩ := free
  rw [State.sendAnnounce, State.originate_of_free none waits, State.sendRequest_of_accepts room]

theorem Still.originate {l : Line} {s t : State} (still : Still l s t) (m : Line) (r : Request) : Still l s (t.originate m r) := by
  refine (still.handWaiting m).trans ?_
  unfold State.originate
  dsimp only
  split
  · exact (Still.refl l _).sendRequest m r
  · exact (Still.refl l _).wait m r

/-- Settles O26: each timer stops and the ANNOUNCE of its interval is handed. -/
theorem greetingTimersSendAnnounce : Obligations.GreetingTimersSendAnnounce := by
  intro l s d free settled reached roles cls chars sent
  have frame : (Frame.mk 1 (s.announce l false)).chars = chars := by
    simp only [State.announce, announceClass_eq]
    rfl
  have row : ∀ timers : Timers → Timers,
      ((s.onContract l fun c => { c with timers := timers c.timers }).sendAnnounce l).endEvent l =
        sent (timers (s.contract l).timers) := by
    intro timers
    have still : Still l s (s.onContract l fun c => { c with timers := timers c.timers }) := (Still.refl l s).onContract l _
    have announce : (s.onContract l fun c => { c with timers := timers c.timers }).announce l false = s.announce l false := by
      simp [State.announce]
    rw [State.endEvent_of_still (State.sendAnnounce.eq_1 .. ▸ still.originate l _) settled,
      State.sendAnnounce_of_maySend (by simpa [State.MaySend] using free), announce, frame, State.onContract_onEngine,
      State.onContract_onContract]
    refine (State.onContract_congr (by simp)).trans (congrArg (fun t : State => t.onContract l _) ?_)
    exact State.onEngine_congr (LineEngine.hand_of_accepts free.1 _)
  have due : s.reached d = true := decide_eq_true reached
  refine ⟨fun state runs => ?_, fun state runs => ?_, fun state unmanaged runs => ?_⟩
  · rw [← row fun t => { t with greetingDelay := none }]
    exact if_pos ⟨state, by rw [runs]; exact due⟩
  · rw [← row fun t => { t with greetingRetry := none }]
    exact if_pos ⟨state, by rw [runs]; exact due⟩
  · rw [← row fun t => { t with slowRegreeting := none }]
    exact if_pos ⟨state, unmanaged, by rw [runs]; exact due⟩

/-! ### Claims (R71 to R73, R76) -/

section Claims
variable {s s' t : State} {l : Line} {k : Cursor} {f : ClaimFields}

/-- What a `ClaimSent` reads of the state before. -/
structure ClaimBase (l : Line) (s s' : State) : Prop where
  engine : s'.engine l = s.engine l
  exchange : (s'.contract l).exchange = (s.contract l).exchange
  waiting : (s'.contract l).waiting = (s.contract l).waiting
  displaced : (s'.contract l).displaced = (s.contract l).displaced
  options : (s'.contract l).options = (s.contract l).options
  tag : (s'.contract l).tagCounter = (s.contract l).tagCounter
  agreement : (s'.contract l).agreement = (s.contract l).agreement
  now : s'.now = s.now

theorem ClaimSent.of_base (sent : ClaimSent l s' t k f) (base : ClaimBase l s s') : ClaimSent l s t k f := by
  obtain ⟨state, cursor, claim, tag, request, reserved, agreement⟩ := sent
  rw [base.tag] at claim tag request
  rw [base.agreement] at reserved agreement
  exact ⟨state, cursor, claim, tag,
    request.of_same base.engine base.exchange base.waiting base.displaced base.options base.now, reserved, agreement⟩

/-- R43: the end of an event changes of a contract record no more than its role. -/
theorem State.endEvent_contract_self (s : State) (l : Line) :
    (s.endEvent l).contract l = { s.contract l with role := roleOf (s.contract l).state (s.contract l).role } :=
  s.contract_endEvent l

theorem ClaimSent.endEvent (sent : ClaimSent l s t k f) : ClaimSent l s (t.endEvent l) k f := by
  obtain ⟨state, cursor, claim, tag, ⟨atOnce, afterWaiting, behind⟩, reserved, agreement⟩ := sent
  have handed : ∀ r, RequestHanded l s t r → RequestHanded l s (t.endEvent l) r := fun r handed =>
    ⟨by rw [State.endEvent_contract_self]; exact handed.outstanding, handed.queue⟩
  refine ⟨by rwa [State.endEvent_contract_self], by rwa [State.endEvent_contract_self],
    by rwa [State.endEvent_contract_self], by rwa [State.endEvent_contract_self], ⟨?_, ?_, ?_⟩, reserved,
    by rwa [State.endEvent_contract_self]⟩ <;> rw [State.endEvent_contract_self]
  · exact fun none free => ⟨handed _ (atOnce none free).1, (atOnce none free).2⟩
  · exact fun w none waits => ⟨handed _ (afterWaiting w none waits).1, (afterWaiting w none waits).2⟩
  · exact behind

/-- What a claim's candidates are judged by. -/
theorem State.candidate_congr (menu : (s'.contract l).farMenu = (s.contract l).farMenu)
    (agreement : (s'.contract l).agreement = (s.contract l).agreement) (claim : (s'.contract l).claim = (s.contract l).claim)
    (prefs : s'.prefs = s.prefs) (room : s'.budget.drawHeadroom = s.budget.drawHeadroom) (k : Cursor) :
    s'.candidate l k = s.candidate l k := by
  simp only [State.candidate, State.drawRoom, Contract.drawCommitment, menu, agreement, claim, prefs, room]

theorem State.candidate_onContract {g : Contract → Contract} (same : (g (s.contract l)).farMenu = (s.contract l).farMenu ∧
    (g (s.contract l)).agreement = (s.contract l).agreement ∧ (g (s.contract l)).claim = (s.contract l).claim) (k : Cursor) :
    (s.onContract l g).candidate l k = s.candidate l k := by
  obtain ⟨menu, agreement, claim⟩ := same
  refine State.candidate_congr (s := s) (s' := s.onContract l g) ?_ ?_ ?_ rfl rfl k <;> rwa [State.onContract_contract_self]

/-- R73: the state in which the CLAIM is originated. -/
def State.claiming (s : State) (l : Line) (k : Cursor) (f : ClaimFields) : State :=
  (s.onContract l fun c => { c.enter .claiming with cursor := k, claim := some ⟨f, (s.contract l).tagCounter⟩ }).claimDraw l

theorem State.sendClaim_eq (s : State) (l : Line) (k : Cursor) (f : ClaimFields) :
    s.sendClaim l k f = (s.claiming l k f).originateNew l .claim (.claim f) := rfl

theorem State.claiming_contract_self (s : State) (l : Line) (k : Cursor) (f : ClaimFields) : (s.claiming l k f).contract l =
    { (s.contract l).enter .claiming with cursor := k, claim := some ⟨f, (s.contract l).tagCounter⟩ } := by
  simp [State.claiming]

/-- R73: a claim changes its record by its state, cursor and claim, the tag, and what its request changes. -/
theorem State.sendClaim_record (s : State) (l : Line) (k : Cursor) (f : ClaimFields) :
    ((s.sendClaim l k f).contract l).SameButSlot
      { (s.contract l).enter .claiming with
        cursor := k
        claim := some ⟨f, (s.contract l).tagCounter⟩
        tagCounter := (s.contract l).tagCounter + 1 } := by
  rw [State.sendClaim_eq, State.originateNew_eq]
  refine (State.originate_slot _ l _).record.trans ?_
  rw [State.stepTag_contract_self, State.claiming_contract_self]
  rfl

/-- R73: what a claim leaves of the part beside its line's engine and record. -/
theorem State.sendClaim_rest (s : State) (l : Line) (k : Cursor) (f : ClaimFields) : s.sendClaim l k f =
    { s.claiming l k f with engines := (s.sendClaim l k f).engines, contracts := (s.sendClaim l k f).contracts } := by
  have slot := (State.originate_slot ((s.claiming l k f).stepTag l) l ⟨.claim, ((s.claiming l k f).contract l).tagCounter,
    (Frame.mk ((s.claiming l k f).contract l).tagCounter (.claim f)).chars, 0⟩).rest
  rw [State.sendClaim_eq, State.originateNew_eq, slot]
  rfl

theorem State.Told.sendClaim {m : Line} {time : Time} {body : NoticeBody} (told : s.Told m time body) (l : Line) (k : Cursor)
    (f : ClaimFields) : (s.sendClaim l k f).Told m time body := by
  have claimed : (s.claiming l k f).Told m time body :=
    State.Told.claimDraw (s := s.onContract l _) (told.of_notices rfl) l
  rw [State.sendClaim_rest]
  exact claimed

@[simp] theorem State.sendClaim_setup (s : State) (l : Line) (k : Cursor) (f : ClaimFields) : s.SameSetup (s.sendClaim l k f) := by
  rw [State.sendClaim_rest]
  simp [State.SameSetup, State.claiming]

@[simp] theorem State.sendClaim_records (s : State) (l : Line) (k : Cursor) (f : ClaimFields) :
    s.SameRecords (s.sendClaim l k f) := by
  rw [State.sendClaim_rest]
  simp [State.SameRecords, State.claiming]

@[simp] theorem State.sendClaim_sameButNotices (s : State) (l : Line) (k : Cursor) (f : ClaimFields) :
    s.SameButNotices (s.sendClaim l k f) := by
  rw [State.sendClaim_rest]
  simp [State.SameButNotices, State.claiming, State.verdictOf]

/-! ### NO_SUITABLE_POINT (R52, R53, R72) -/

/-- R72: the record that NO_SUITABLE_POINT leaves. -/
def Contract.unsuited (c : Contract) : Contract :=
  { c.close.enter .baseline with
    farMenu := c.farMenu
    role := .draw
    lastOutcome := some .noSuitablePoint
    timers := if c.state = .baseline ∧ c.unmanaged = true then c.slowTimers else .stopped
    unmanaged := c.unmanaged && decide (c.state = .baseline) }

theorem State.noSuitablePoint_eq (s : State) (l : Line) :
    s.noSuitablePoint l = (s.handNew l (.ending .noSuitablePoint)).closing l Contract.unsuited := rfl

@[simp] theorem Contract.unsuited_state (c : Contract) : c.unsuited.state = .baseline := rfl

@[simp] theorem State.noSuitablePoint_contract_self (s : State) (l : Line) : (s.noSuitablePoint l).contract l =
    Contract.unsuited { s.contract l with tagCounter := (s.contract l).tagCounter + 1 } := by
  simp [State.noSuitablePoint_eq]

@[simp] theorem State.noSuitablePoint_engine_self (s : State) (l : Line) : (s.noSuitablePoint l).engine l =
    (s.engine l).hand (Frame.mk (s.contract l).tagCounter (.ending .noSuitablePoint)).chars := by
  simp [State.noSuitablePoint_eq]

@[simp] theorem State.noSuitablePoint_setup (s : State) (l : Line) : s.SameSetup (s.noSuitablePoint l) := State.closing_setup ..
@[simp] theorem State.noSuitablePoint_records (s : State) (l : Line) : s.SameRecords (s.noSuitablePoint l) :=
  State.closing_records ..

theorem State.Told.noSuitablePoint {m : Line} {time : Time} {body : NoticeBody} (told : s.Told m time body)
    (kind : body.kind ≠ .ended) (l : Line) : (s.noSuitablePoint l).Told m time body :=
  State.Told.closing (s := s.handNew l _) (told.of_notices rfl) kind

/-- R72: what NO_SUITABLE_POINT leaves on its line, at the end of its event. -/
theorem State.noSuitablePoint_leaves (s : State) (l : Line) : let t := (s.noSuitablePoint l).endEvent l
    (t.contract l).state = .baseline ∧ (t.contract l).role = .draw ∧ (t.contract l).lastOutcome = some .noSuitablePoint ∧
      (t.contract l).agreement = none ∧ t.budget.drawCommit.get l = 0 ∧
      HandedOrDropped l s t ⟨(s.contract l).tagCounter, .ending .noSuitablePoint⟩ ∧
      ((s.contract l).role ≠ .none → t.Told l s.now (.ended (s.contract l).role .baseline (some .noSuitablePoint))) := by
  intro t
  have contract : t.contract l = _ := State.endEvent_contract_self ..
  rw [State.noSuitablePoint_contract_self] at contract
  refine ⟨by rw [contract]; rfl, by rw [contract]; rfl, by rw [contract]; rfl, by rw [contract]; rfl,
    (State.closing_released ..).1, ?_, fun held => ?_⟩
  · simp [t, HandedOrDropped, LineEngine.hand_txQueue]
  · have told := State.closing_told (s := s.handNew l (.ending .noSuitablePoint)) (l := l) (f := Contract.unsuited)
      (by simp) (by simpa using held)
    simp only [State.handNew_contract_self] at told
    exact told.of_notices rfl

end Claims

/-! ### The timed requests (R32, R76, R81) -/

section Timed
variable {s : State} {l : Line} {d : Time}

theorem State.handWaiting_of_free {r : Request} (room : (s.engine l).accepts = true) (none : (s.contract l).exchange = .none)
    (waits : (s.contract l).waiting = some r) : s.handWaiting l = (s.onEngine l fun e => e.hand r.chars).onContract l fun c =>
      { c with waiting := .none, exchange := some ⟨r.kind, r.tag, r.chars, (s.engine l).nextId, r.expiries, .none, .none⟩ } := by
  have handed : s.handWaiting l = (s.onContract l fun c => { c with waiting := .none }).sendRequest l r := by
    simp [State.handWaiting, none, waits]
  rw [handed, State.sendRequest_of_accepts (by simpa using room), State.onContract_onEngine, State.onContract_onContract]
  simp

theorem execBackoffExpiry_of (state : (s.contract l).state = .backoff) (runs : (s.contract l).timers.backoff = some d)
    (reached : (s.now - d).toNat < 2147483648) : exec (.backoffExpiry l) s = .next
      (((s.onContract l fun c => { c with timers := { c.timers with backoff := none } }).retryCandidate l).endEvent l) :=
  if_pos ⟨state, by rw [runs]; exact decide_eq_true reached⟩

/-- R76: after the backoff the candidate at the cursor is claimed again. -/
theorem State.retryCandidate_of_some {f : ClaimFields} (candidate : s.candidate l (s.contract l).cursor = some f) :
    s.retryCandidate l = s.sendClaim l (s.contract l).cursor f := by
  simp [State.retryCandidate, candidate]

theorem State.retryCandidate_of_none (none : s.candidate l (s.contract l).cursor = none) :
    s.retryCandidate l = (s.onContract l fun c => { c with waitStreak := 0 }).advance l := by
  simp [State.retryCandidate, none]

/-- R72: selection claims a candidate, or ends in NO_SUITABLE_POINT. -/
theorem State.select_cases (s : State) (l : Line) (k : Cursor) :
    (∃ n f, s.select l k = s.sendClaim l n f) ∨ s.select l k = s.noSuitablePoint l := by
  unfold State.select
  dsimp only
  split
  · exact .inl ⟨_, _, rfl⟩
  · exact .inr rfl

/-- R75, R76: where the wait streak stands at 0, it does after selection. -/
theorem State.advance_waitStreak (zero : (s.contract l).waitStreak = 0) : ((s.advance l).contract l).waitStreak = 0 := by
  rcases s.select_cases l ⟨(s.contract l).cursor.pref, (s.contract l).cursor.point + 1⟩ with ⟨n, f, claims⟩ | ends
  · obtain ⟨-, -, -, streak, -⟩ := (s.sendClaim_record l n f).fields
    exact (congrArg (fun t : State => (t.contract l).waitStreak) claims).trans (streak.trans zero)
  · refine (congrArg (fun t : State => (t.contract l).waitStreak) ends).trans ?_
    rw [State.noSuitablePoint_contract_self]
    rfl

end Timed

/-- R81: the renewal timer sends a RENEW with the measured current, at once or behind the outstanding request. -/
theorem execRenewalExpiry_of {s : State} {l : Line} {d : Time} (state : (s.contract l).state = .active)
    (role : (s.contract l).role = .draw) (runs : (s.contract l).timers.renewal = some d)
    (reached : (s.now - d).toNat < 2147483648) (settled : s.LineSettled l) :
    exec (.renewalExpiry l) s = .next ((s.onContract l fun c =>
      { c with tagCounter := c.tagCounter + 1, timers := { c.timers with renewal := none } }).originate l
        ⟨.renew, (s.contract l).tagCounter,
          (Frame.mk (s.contract l).tagCounter (.renew (s.channel l).latest.measured)).chars, 0⟩) := by
  have row : exec (.renewalExpiry l) s = .next (((s.onContract l fun c => { c with timers := { c.timers with renewal := none } }
      ).originateNew l .renew (.renew (s.channel l).latest.measured)).endEvent l) :=
    if_pos ⟨state, role, by rw [runs]; exact decide_eq_true reached⟩
  rw [row, State.endEvent_of_still (((Still.refl l s).onContract l _).originateNew l ..) settled, State.originateNew_eq,
    State.stepTag, State.onContract_onContract, State.onContract_contract_self]

/-- Settles O27: the case of each timer, and of what stands in the slot. -/
theorem timedRequestsAreHanded : Obligations.TimedRequestsAreHanded := by
  refine ⟨fun l s r room none waits => ?_, fun l s d f state runs reached candidate => ?_,
    fun l s d state runs reached settled none => ?_, fun l s d state role runs reached settled => ?_⟩
  · rw [exec, execWaitingRequestHanded, State.handWaiting_of_free room none waits]
    exact congrArg _ (congrArg (fun t : State => t.onContract l _) (State.onEngine_congr (LineEngine.hand_of_accepts room _)))
  · generalize backedOff : (s.onContract l fun c => { c with timers := { c.timers with backoff := none } }) = u
    have contract : u.contract l = { s.contract l with timers := { (s.contract l).timers with backoff := none } } := by
      rw [← backedOff, State.onContract_contract_self]
    have base : ClaimBase l s u := by
      refine ⟨?_, ?_, ?_, ?_, ?_, ?_, ?_, ?_⟩ <;> simp [← backedOff]
    have again : u.candidate l (u.contract l).cursor = some f := by
      rw [contract, ← candidate]
      exact State.candidate_congr (by rw [contract]) (by rw [contract]) (by rw [contract]) (by rw [← backedOff]; rfl)
        (by rw [← backedOff]; rfl) _
    have row := execBackoffExpiry_of state runs reached
    rw [backedOff, State.retryCandidate_of_some again, contract] at row
    obtain ⟨-, -, -, streak, -⟩ := (u.sendClaim_record l (s.contract l).cursor f).fields
    refine ⟨_, row, ((State.sendClaim_claimSent ..).of_base base).endEvent, ?_,
      linesDoNotInterfere (.backoffExpiry l) l s _ rfl row⟩
    rw [State.endEvent_contract_self, streak, contract]
    rfl
  · intro old
    generalize backedOff : (s.onContract l fun c => { c with timers := { c.timers with backoff := .none }, waitStreak := 0 }) = u
    have contract : u.contract l =
        { s.contract l with timers := { (s.contract l).timers with backoff := .none }, waitStreak := 0 } := by
      rw [← backedOff, State.onContract_contract_self]
    have base : ClaimBase l s u := by
      refine ⟨?_, ?_, ?_, ?_, ?_, ?_, ?_, ?_⟩ <;> simp [← backedOff]
    have candidates : ∀ k, u.candidate l k = s.candidate l k :=
      State.candidate_congr (by rw [contract]) (by rw [contract]) (by rw [contract]) (by rw [← backedOff]; rfl)
        (by rw [← backedOff]; rfl)
    have row : exec (.backoffExpiry l) s = .next ((u.advance l).endEvent l) := by
      rw [execBackoffExpiry_of state runs reached, State.retryCandidate_of_none, State.onContract_onContract, ← backedOff]
      rw [State.candidate_onContract ⟨rfl, rfl, rfl⟩, State.onContract_contract_self]
      exact none
    have held : (s.contract l).role = .draw := by
      rw [← settled.2.2, state]
      rfl
    obtain ⟨claims, ends⟩ := State.advance_claims (s := u) (l := l) old (by rw [contract])
    refine ⟨_, row, ?_, linesDoNotInterfere (.backoffExpiry l) l s _ rfl row, fun n f candidate after first => ?_, fun all => ?_⟩
    · rw [State.endEvent_contract_self]
      exact State.advance_waitStreak (by rw [contract])
    · rw [claims n f ((candidates n).trans candidate) after fun j between before => (candidates j).trans (first j between before)]
      refine ⟨((State.sendClaim_claimSent ..).of_base base).endEvent, ?_⟩
      obtain ⟨-, -, outcome, -⟩ := (u.sendClaim_record l n f).fields
      rw [State.endEvent_contract_self, outcome, contract]
      rfl
    · rw [ends fun n after => (candidates n).trans (all n after)]
      obtain ⟨baseline, role, outcome, agreement, commit, handed, told⟩ := u.noSuitablePoint_leaves l
      simp only [contract, held, base.now, HandedOrDropped, base.engine] at handed told
      exact ⟨baseline, role, outcome, agreement, commit, handed, told nofun⟩
  · intro tag frame timers
    have row := execRenewalExpiry_of state role runs reached settled
    generalize stopped : (s.onContract l fun c =>
      { c with tagCounter := c.tagCounter + 1, timers := { c.timers with renewal := none } }) = u at row
    have contract : u.contract l =
        { s.contract l with tagCounter := (s.contract l).tagCounter + 1, timers := timers } := by
      rw [← stopped, State.onContract_contract_self]
    refine ⟨fun free => ?_, fun busy => ⟨fun free => ?_, fun w waits kind => ?_⟩⟩
    · obtain ⟨room, none, free⟩ := free
      have engine : u.engine l = s.engine l := by rw [← stopped]; rfl
      rw [row, State.originate_of_free (by rw [contract]; exact none) (by rw [contract]; exact free),
        State.sendRequest_of_accepts (by rw [engine]; exact room), engine, ← stopped, State.onContract_onEngine,
        State.onContract_onContract]
      refine congrArg _ (((congrArg (fun t : State => t.onContract l _) (State.onEngine_congr
        (LineEngine.hand_of_accepts room _))).trans (State.onContract_congr ?_)))
      rfl
    · rw [row, State.originate_of_outstanding (by rw [contract]; exact busy), State.wait_of_none (by rw [contract]; exact free),
        ← stopped, State.onContract_onContract]
      exact congrArg _ (State.onContract_congr rfl)
    · have displaced : u.wait l ⟨.renew, tag, frame.chars, 0⟩ = (u.displace l w).onContract l fun c =>
          { c with waiting := some ⟨.renew, tag, frame.chars, 0⟩ } := by
        simp [State.wait, contract, waits]
      have due : u.answerEnd l = s.answerEnd l := State.answerEnd_congr (by rw [← stopped]; rfl) (by rw [contract])
      rw [row, State.originate_of_outstanding (by rw [contract]; exact busy)]
      refine congrArg _ (displaced.trans ?_)
      rw [State.displace_of_answered kind, due, ← stopped, State.onContract_onContract, State.onContract_onContract]
      exact State.onContract_congr rfl

end Sys2Proof.Machine
end

section
/-! SUPPORT. Proofs for what ends an exchange: answer timeouts (R34, R46, R77, R81), silent far ends (R78, R99). -/

namespace Sys2Proof.Machine

/-! ### The exchange taken on (R34, R46) -/

section Expiry
variable {s : State} {l : Line} {x : Exchange}

/-- R34: the first expiry of a CLAIM or a RENEW hands it once more with its tag. -/
theorem State.expire_of_first (kind : x.kind = .claim ∨ x.kind = .renew) (first : x.expiries = 0) (failed : Bool) :
    s.expire l x failed = s.sendRequest l ⟨x.kind, x.tag, x.chars, 1⟩ := by
  rcases kind with kind | kind <;> simp [State.expire, kind, first]

/-- R77, R81: the second expiry of a CLAIM or a RENEW closes the contract. -/
theorem State.expire_of_second (kind : x.kind = .claim ∨ x.kind = .renew) (second : x.expiries ≠ 0) (failed : Bool) :
    s.expire l x failed = s.closeToGreeting l (if failed then none else some .noAnswer) := by
  rcases kind with kind | kind <;> simp [State.expire, kind, second]

theorem State.expire_of_announce (kind : x.kind = .announce) (failed : Bool) :
    s.expire l x failed =
      (s.closeExchange l).giveUpAnnounce l (if failed then s.now else x.reportedAt.getD s.now) failed := by
  simp [State.expire, kind]

/-- R46: an unanswered ANNOUNCE below the third counts, and the next follows 200 ms after its report. -/
theorem State.giveUpAnnounce_of_few (greeting : (s.contract l).state = .greeting) (few : (s.contract l).greetingCount < 2)
    (base : Time) (failed : Bool) : s.giveUpAnnounce l base failed = s.onContract l fun c => { c with
      greetingCount := c.greetingCount + 1
      timers := { c.timers with greetingRetry := some (base + 200) } } :=
  State.onContract_congr (by rw [if_pos greeting, if_pos (by omega)])

/-- R46: the third ends the greeting in an unmanaged BASELINE where the role DRAW is permitted. -/
theorem State.giveUpAnnounce_of_third (greeting : (s.contract l).state = .greeting)
    (third : (s.contract l).greetingCount = 2) (draw : (s.contract l).options.roles.draw = true) (base : Time)
    (failed : Bool) : s.giveUpAnnounce l base failed = s.onContract l fun c => { c.enter .baseline with
      role := .draw
      greetingCount := 3
      unmanaged := true
      lastOutcome := some .noAnswer
      timers := { Timers.stopped with slowRegreeting := some (base + 5000) } } :=
  State.onContract_congr (by rw [if_pos greeting, if_neg (by omega), if_pos draw])

theorem State.giveUpAnnounce_of_blocked (greeting : (s.contract l).state = .greeting)
    (third : (s.contract l).greetingCount = 2) (noDraw : (s.contract l).options.roles.draw = false) (base : Time)
    (failed : Bool) : s.giveUpAnnounce l base failed = s.onContract l fun c =>
      { c.block with greetingCount := 3, lastOutcome := some .noAnswer } :=
  State.onContract_congr (by rw [if_pos greeting, if_neg (by omega), if_neg (by simp [noDraw])])

/-- R46, log 15: in an unmanaged BASELINE a failed ANNOUNCE starts the slow re-greeting's interval. -/
theorem State.giveUpAnnounce_of_failed (baseline : (s.contract l).state = .baseline) (unmanaged : (s.contract l).unmanaged = true)
    (base : Time) : s.giveUpAnnounce l base true = s.onContract l fun c =>
      { c with timers := { c.timers with slowRegreeting := some (base + 5000) } } :=
  State.onContract_congr (by simp [baseline, unmanaged])

theorem State.giveUpAnnounce_of_baseline (baseline : (s.contract l).state = .baseline) (base : Time) :
    s.giveUpAnnounce l base false = s := State.onContract_eq_self (by simp [baseline])

/-- R46: what the third unanswered ANNOUNCE leaves, at the end of its event. -/
theorem State.giveUpAnnounce_third_leaves (greeting : (s.contract l).state = .greeting)
    (third : (s.contract l).greetingCount = 2) (untripped : (s.channel l).tripped = false) (base : Time) (failed : Bool) :
    let t := (s.giveUpAnnounce l base failed).endEvent l
    (t.contract l).lastOutcome = some .noAnswer ∧ (t.contract l).exchange = (s.contract l).exchange ∧
      ((s.contract l).options.roles.draw = true →
        (t.contract l).state = .baseline ∧ (t.contract l).role = .draw ∧ (t.contract l).unmanaged = true ∧
        (t.contract l).timers.slowRegreeting = some (base + 5000) ∧
        (t.channel l).command = .draw (s.contract l).options.baseline false none) ∧
      ((s.contract l).options.roles.draw = false →
        (t.contract l).state = .blocked ∧ (t.contract l).role = .none ∧ (t.channel l).command = .opened) := by
  intro t
  have command := (State.endEvent_command (s := s.giveUpAnnounce l base failed) (l := l) untripped).1
  have contract : t.contract l = _ := State.endEvent_contract_self ..
  cases draw : (s.contract l).options.roles.draw with
  | true =>
    rw [State.giveUpAnnounce_of_third greeting third draw, State.onContract_contract_self] at contract
    rw [contract] at command
    rw [contract]
    exact ⟨rfl, rfl, fun _ => ⟨rfl, rfl, rfl, rfl, command⟩, nofun⟩
  | false =>
    rw [State.giveUpAnnounce_of_blocked greeting third draw, State.onContract_contract_self] at contract
    rw [contract] at command
    rw [contract]
    exact ⟨rfl, rfl, nofun, fun _ => ⟨rfl, rfl, command⟩⟩

/-- R34, R155: the last-frame flags show an answer timeout. -/
def State.timeoutNoted (s : State) (l : Line) : State := s.onHealth l fun h => { h.newEvent with answerTimeout := true }

theorem execAnswerTimeout_of {d : Time} (outstanding : (s.contract l).exchange = some x) (runs : x.timer = some d)
    (reached : (s.now - d).toNat < 2147483648) :
    exec (.answerTimeout l) s = .next (((s.timeoutNoted l).expire l x false).endEvent l) := by
  have due : s.due x.timer = true := by rw [runs]; exact decide_eq_true reached
  have late : s.answerLate l = some x := by simp [State.answerLate, outstanding, Option.filter, due]
  simp [exec, execAnswerTimeout, late, State.timeoutNoted]

/-- Log 12: a displaced request's timer expires while the outstanding one's does not run. -/
theorem execAnswerTimeout_of_displaced {y : Exchange} {d : Time} (outstanding : (s.contract l).exchange = some y)
    (stopped : y.timer = none) (displaced : (s.contract l).displaced = [x]) (runs : x.timer = some d)
    (reached : (s.now - d).toNat < 2147483648) :
    exec (.answerTimeout l) s = .next ((((s.timeoutNoted l).onContract l fun c =>
      { c with displaced := [] }).expireDisplaced l x).endEvent l) := by
  have due : s.due x.timer = true := by rw [runs]; exact decide_eq_true reached
  have late : s.answerLate l = none := by simp [State.answerLate, outstanding, Option.filter, stopped, State.due]
  have first : (s.contract l).displaced.find? (fun x => s.due x.timer) = some x := by simp [displaced, due]
  have erased : (s.timeoutNoted l).onContract l (fun c => { c with displaced := c.displaced.erase x }) =
      (s.timeoutNoted l).onContract l fun c => { c with displaced := [] } :=
    State.onContract_congr (by simp [State.timeoutNoted, displaced])
  simp only [exec, execAnswerTimeout, late, first, State.takeDisplaced, ← erased]
  rfl

end Expiry

/-- Settles O28: each case is what the exchange's expiry does, of the request outstanding or of the one displaced. -/
theorem answerTimeoutTakesTheExchangeOn : Obligations.AnswerTimeoutTakesTheExchangeOn := by
  refine ⟨fun l s x d outstanding runs reached settled => ?_,
    fun l s x d base outstanding runs reached settled kind reported greeting third => ?_,
    fun l s x y d outstanding stopped displaced runs reached kind free settled => ?_⟩
  · intro noted
    have row : exec (.answerTimeout l) s = .next ((noted.expire l x false).endEvent l) :=
      execAnswerTimeout_of outstanding runs reached
    have flagged : Still l s noted := (Still.refl l s).onEngine l _
    refine ⟨fun kind first room => ?_, fun kind second => ?_, fun base kind reported greeting few => ?_,
      fun kind baseline unmanaged => ?_⟩
    · rw [row, State.expire_of_first kind first, State.endEvent_of_still (flagged.sendRequest l _) settled,
        State.sendRequest_of_accepts (by simpa [noted, LineEngine.accepts] using room)]
      refine congrArg _ ((congrArg (fun t : State => t.onContract l _) (State.onEngine_congr
        (LineEngine.hand_of_accepts (by simpa [noted, LineEngine.accepts] using room) _))).trans (State.onContract_congr ?_))
      simp [noted]
    · have closes : noted.expire l x false = noted.closeToGreeting l (some .noAnswer) := State.expire_of_second kind second false
      rw [closes] at row
      have closed : ClosedTo l s ((noted.closeToGreeting l (some .noAnswer)).endEvent l) .greeting .none (some .noAnswer) :=
        State.closeToGreeting_closedTo_some (s := s) (u := noted) rfl rfl .noAnswer
      refine ⟨_, row, closed, ?_, ?_, linesDoNotInterfere (.answerTimeout l) l s _ rfl row⟩
      · rw [State.endEvent_contract_self, State.closeToGreeting_contract_self]
        rfl
      · simp [noted]
    · have counted : noted.expire l x false = noted.onContract l fun c => { c with
          exchange := none
          greetingCount := c.greetingCount + 1
          timers := { c.timers with greetingRetry := some (base + 200) } } := by
        rw [State.expire_of_announce kind, State.giveUpAnnounce_of_few (by simpa [noted] using greeting)
          (by simpa [noted] using few), reported]
        exact State.onContract_onContract ..
      rw [row, counted]
      exact congrArg _ (State.endEvent_of_still (flagged.onContract l _) settled)
    · have closed : noted.expire l x false = noted.closeExchange l := by
        rw [State.expire_of_announce kind, State.giveUpAnnounce_of_baseline (by simpa [noted] using baseline)]
      rw [row, closed]
      exact congrArg _ (State.endEvent_of_still (flagged.onContract l _) settled)
  · have row := execAnswerTimeout_of outstanding runs reached
    rw [State.expire_of_announce kind, reported] at row
    obtain ⟨outcome, exchange, draws, blocks⟩ := State.giveUpAnnounce_third_leaves
      (s := (s.timeoutNoted l).closeExchange l) (l := l) (by simpa [State.timeoutNoted] using greeting)
      (by simpa [State.timeoutNoted] using third) settled.1 base false
    have options : (((s.timeoutNoted l).closeExchange l).contract l).options = (s.contract l).options := by
      simp [State.timeoutNoted]
    refine ⟨_, row, outcome, exchange.trans (by simp), linesDoNotInterfere (.answerTimeout l) l s _ rfl row, ?_, ?_⟩
    · rw [options] at draws
      exact draws
    · rw [options] at blocks
      exact blocks
  · have row := execAnswerTimeout_of_displaced outstanding stopped displaced runs reached
    generalize noted : (s.timeoutNoted l).onContract l (fun c => { c with displaced := [] }) = u at row
    have contract : u.contract l = { s.contract l with displaced := [] } := by
      rw [← noted, State.onContract_contract_self]
      simp [State.timeoutNoted]
    have flagged : Still l s u := by
      rw [← noted, State.timeoutNoted]
      exact ((Still.refl l s).onEngine l _).onContract l _
    refine ⟨fun first => ?_, fun second => ?_⟩
    · have waits : u.expireDisplaced l x = u.onContract l fun c => { c with waiting := some ⟨x.kind, x.tag, x.chars, 1⟩ } := by
        have originates : u.expireDisplaced l x = u.originate l ⟨x.kind, x.tag, x.chars, 1⟩ := by
          rcases kind with kind | kind <;> simp [State.expireDisplaced, kind, first]
        rw [originates, State.originate_of_outstanding (by rw [contract, outstanding]; rfl),
          State.wait_of_none (by rw [contract]; exact free)]
      rw [row, waits, State.endEvent_of_still (flagged.onContract l _) settled, ← noted, State.onContract_onContract]
      rfl
    · have closes : u.expireDisplaced l x = u.closeToGreeting l (some .noAnswer) := by
        rcases kind with kind | kind <;> simp [State.expireDisplaced, kind, second]
      rw [closes] at row
      exact ⟨_, row, State.closeToGreeting_closedTo_some (by rw [contract]) (by rw [← noted]; rfl) _,
        linesDoNotInterfere (.answerTimeout l) l s _ rfl row⟩

/-- Settles O29: a READY or a RENEW that does not come in time closes the contract. -/
theorem silentFarEndsAreClosed : Obligations.SilentFarEndsAreClosed := by
  intro l s d reached settled
  refine ⟨fun state runs => ?_, fun state role runs room => ?_⟩
  · have row : exec (.readyWaitExpiry l) s = .next ((s.closeToGreeting l (some .noAnswer)).endEvent l) :=
      if_pos ⟨state, by rw [runs]; exact decide_eq_true reached⟩
    refine ⟨_, row, State.closeToGreeting_closedTo_some rfl rfl _, ?_, ?_, linesDoNotInterfere (.readyWaitExpiry l) l s _ rfl row⟩
    · rw [State.endEvent_contract_self, State.closeToGreeting_contract_self]
      rfl
    · simp
  · have row : exec (.leaseDeadline l) s = .next ((s.endToGreeting l .leaseLost .leaseLost).endEvent l) :=
      if_pos ⟨state, role, by rw [runs]; exact decide_eq_true reached⟩
    refine ⟨_, row, State.endToGreeting_closedTo rfl rfl _ _, ?_, Handed.of_engine (by simp) room,
      linesDoNotInterfere (.leaseDeadline l) l s _ rfl row⟩
    rw [State.endEvent_contract_self, State.endToGreeting_contract_self]
    rfl

end Sys2Proof.Machine
end

section
/-! SUPPORT. Recalls on a supplying line (R100 to R103): the take-up of a target, the lowering of an agreement, the forcing of a
recall; and the taking of an arriving frame (R5, R45). -/

namespace Sys2Proof.Machine

/-! ### The take-up of a pending target (R100) -/

section Target
variable {s u : State} {l : Line}

/-- The take-up of a target changes nothing of a record but the target, the recall, the tag and what its request changes. -/
def Contract.SameButTarget (c d : Contract) : Prop :=
  { c with target := none, recallOut := none, tagCounter := 0, exchange := none, waiting := none, displaced := [], timers := .stopped } =
    { d with target := none, recallOut := none, tagCounter := 0, exchange := none, waiting := none, displaced := [], timers := .stopped }

theorem Contract.SameButSlot.toSameButTarget {c d : Contract} (same : c.SameButSlot d) : c.SameButTarget d := by
  simp_all [Contract.SameButSlot, Contract.SameButTarget]

theorem Contract.SameButTarget.fields {c d : Contract} (same : c.SameButTarget d) : c.state = d.state ∧ c.role = d.role ∧
    c.lastOutcome = d.lastOutcome ∧ c.agreement = d.agreement ∧ c.paused = d.paused ∧ c.grant = d.grant ∧
    c.leaseDeadline = d.leaseDeadline ∧ c.options = d.options ∧ c.decision = d.decision ∧ c.offered = d.offered := by
  simp_all [Contract.SameButTarget]

theorem Contract.SameButTarget.path {c d : Contract} (same : c.SameButTarget d) : c.path = d.path := by
  obtain ⟨state, role, -, agreement, -, grant, -, options, -⟩ := same.fields
  simp only [Contract.path, state, role, agreement, grant, options]

/-- What the take-up of a target leaves. -/
structure TargetTaken (l : Line) (s t : State) : Prop where
  rest : t = { s with engines := t.engines, contracts := t.contracts }
  record : (t.contract l).SameButTarget (s.contract l)
  target : (t.contract l).target = none
  engine : (t.engine l).SameButQueue (s.engine l)

theorem State.sendRecall_slot (s : State) (l : Line) (level : Nat) (cause : RecallCause) :
    (s.sendRecall l level cause) = { s with
        engines := (s.sendRecall l level cause).engines, contracts := (s.sendRecall l level cause).contracts } ∧
      ((s.sendRecall l level cause).contract l).SameButTarget (s.contract l) ∧
      ((s.sendRecall l level cause).contract l).target = (s.contract l).target ∧
      ((s.sendRecall l level cause).engine l).SameButQueue (s.engine l) := by
  have slot := State.originate_slot ((s.onContract l fun c => { c with recallOut := some ⟨level, none, cause⟩ }).stepTag l) l
    ⟨.recall, (s.contract l).tagCounter, (Frame.mk (s.contract l).tagCounter (.recall level 10)).chars, 0⟩
  have sends : s.sendRecall l level cause =
      ((s.onContract l fun c => { c with recallOut := some ⟨level, none, cause⟩ }).stepTag l).originate l
        ⟨.recall, (s.contract l).tagCounter, (Frame.mk (s.contract l).tagCounter (.recall level 10)).chars, 0⟩ := by
    simp [State.sendRecall, State.originateNew_eq]
  rw [sends]
  refine ⟨?_, slot.record.toSameButTarget.trans ?_, ?_, slot.engine⟩
  · rw [slot.rest]
    rfl
  · simp
  · obtain ⟨-, -, -, -, -, -, -, -, -, target, -⟩ := slot.record.fields
    simpa using target

theorem State.takeTarget_taken (s : State) (l : Line) : TargetTaken l s (s.takeTarget l) := by
  have dropped : TargetTaken l s (s.onContract l fun c => { c with target := none }) :=
    ⟨rfl, by simp [Contract.SameButTarget], by simp, rfl⟩
  cases target : (s.contract l).target with
  | none =>
    rw [State.takeTarget_of_none target]
    exact ⟨rfl, rfl, target, rfl⟩
  | some g =>
    unfold State.takeTarget
    simp only [target]
    split
    · next a _ =>
      split
      · obtain ⟨rest, record, same, engine⟩ := (s.onContract l fun c => { c with target := none }).sendRecall_slot l g.level g.cause
        exact ⟨by rw [rest]; rfl, record.trans dropped.record, same.trans dropped.target, engine⟩
      · exact dropped
    · exact dropped

theorem Still.takeTarget (s : State) (l : Line) : Still l s (s.takeTarget l) := by
  have taken := s.takeTarget_taken l
  obtain ⟨state, role, -⟩ := taken.record.fields
  have channel : (s.takeTarget l).channel l = s.channel l := by rw [taken.rest]; rfl
  exact ⟨by rw [channel], by rw [channel], by rw [channel], taken.record.path, state, role⟩

theorem State.Told.takeTarget {m : Line} {time : Time} {body : NoticeBody} (told : s.Told m time body) (l : Line) :
    (s.takeTarget l).Told m time body := told.of_notices (by rw [(s.takeTarget_taken l).rest])

/-- R100: a target that the agreed current satisfies is dropped. -/
theorem State.takeTarget_of_targetMet {a : Agreement} (agreement : (s.contract l).agreement = some a)
    (met : s.TargetMet l a.current) : s.takeTarget l = s.onContract l fun c => { c with target := none } := by
  cases target : (s.contract l).target with
  | none =>
    rw [State.takeTarget_of_none target]
    exact (State.onContract_eq_self (by rw [← target])).symm
  | some g => exact State.takeTarget_of_met target agreement (met g target)

/-- R100, R101: a target below the agreed current is recalled to, of a state whose target, tag and time are those of `s`. -/
theorem State.takeTarget_recalled {a : Agreement} (agreement : (u.contract l).agreement = some a)
    (active : (u.contract l).state = .active) (none : (u.contract l).exchange = none) (free : (u.contract l).waiting = .none)
    (target : (u.contract l).target = (s.contract l).target) (tag : (u.contract l).tagCounter = (s.contract l).tagCounter)
    (now : u.now = s.now) :
    TargetRecalled l s (u.takeTarget l) (u.engine l).accepts (u.engine l).txQueue (u.engine l).nextId a.current := by
  intro g pending below tag' chars
  rw [State.takeTarget_of_below (target.trans pending) agreement active below]
  have contract := State.sendRecall_contract (s := u.onContract l fun c => { c with target := .none }) (l := l)
    (by simpa using none) (by simpa using free) g.level g.cause
  have engine := State.sendRecall_engine (s := u.onContract l fun c => { c with target := .none }) (l := l)
    (by simpa using none) (by simpa using free) g.level g.cause
  cases room : (u.engine l).accepts <;> simp [contract, engine, tag, now, LineEngine.hand_txQueue, tag', chars, room]

theorem TargetRecalled.endEvent {t : State} {room : Bool} {queue : List TxFrame} {id current : Nat}
    (recalled : TargetRecalled l s t room queue id current) : TargetRecalled l s (t.endEvent l) room queue id current := by
  intro g pending below
  rw [State.endEvent_contract_self]
  exact recalled g pending below

end Target

/-! ### The lowering of an agreement (R102, R103) -/

section Lowering
variable {s : State} {l : Line} {limit : Nat}

/-- R102: the record with the agreed current lowered and the recall ended. -/
def Contract.lowered (c : Contract) (limit : Nat) : Contract :=
  { c with
    agreement := c.agreement.map fun a => { a with current := limit }
    recallOut := none
    exchange := c.exchange.filter fun x => !(x.kind == .recall)
    waiting := c.waiting.filter fun r => !(r.kind == .recall) }

theorem State.lowerSupply_eq (s : State) (l : Line) (limit : Nat) : s.lowerSupply l limit =
    ((s.onContract l fun c => c.lowered limit).command l ((s.contract l).lowered limit).path).claimSupply l := by
  show ((s.onContract l fun c => c.lowered limit).command l ((s.onContract l fun c => c.lowered limit).contract l).path
    ).claimSupply l = _
  rw [State.onContract_contract_self]

theorem State.lowerSupply_line (left : (s.contract l).state ≠ .offering) :
    (s.lowerSupply l limit).contract l = (s.contract l).lowered limit ∧ (s.lowerSupply l limit).engine l = s.engine l := by
  rw [State.lowerSupply_eq]
  obtain ⟨contract, engine⟩ := State.claimSupply_line (l := l) (m := l)
    (s := (s.onContract l fun c => c.lowered limit).command l ((s.contract l).lowered limit).path)
    (Contract.awaitsRise_of_state (by simpa [Contract.lowered] using left))
  exact ⟨contract.trans (by simp), engine.trans (by simp)⟩

@[simp] theorem State.lowerSupply_setup (s : State) (l : Line) (limit : Nat) : s.SameSetup (s.lowerSupply l limit) := by
  rw [State.lowerSupply_eq]
  simp [State.SameSetup]

@[simp] theorem State.lowerSupply_records (s : State) (l : Line) (limit : Nat) : s.SameRecords (s.lowerSupply l limit) := by
  rw [State.lowerSupply_eq]
  simp [State.SameRecords]

@[simp] theorem State.lowerSupply_sameButNotices (s : State) (l : Line) (limit : Nat) :
    s.SameButNotices (s.lowerSupply l limit) := by
  rw [State.lowerSupply_eq]
  simp [State.SameButNotices]

/-- R136: a channel that has not tripped does not trip by the command of a lowered agreement. -/
theorem State.lowerSupply_untripped (untripped : (s.channel l).tripped = false) :
    ((s.lowerSupply l limit).channel l).tripped = false := by
  rw [State.lowerSupply_eq]
  simpa using (Channel.take_command untripped ..).2

theorem State.lowerSupply_supplyCommit (s : State) (l : Line) (limit : Nat) :
    (s.lowerSupply l limit).budget.supplyCommit.get l = ((s.contract l).lowered limit).supplyCommitment := by
  rw [State.lowerSupply_eq]
  simp

theorem State.Told.lowerSupply {m : Line} {time : Time} {body : NoticeBody} (told : s.Told m time body) (l : Line)
    (limit : Nat) : (s.lowerSupply l limit).Told m time body := by
  rw [State.lowerSupply_eq]
  exact State.Told.claimSupply (s := (s.onContract l _).command l _) (told.of_notices rfl) l

end Lowering

/-! ### The AGREED notice (section 10.5) -/

section Agreed
variable {s : State} {l : Line} {a : Agreement}

theorem State.raiseAgreed_of (agreement : (s.contract l).agreement = some a) : s.raiseAgreed l =
    s.raise (.line l) (.agreed (s.contract l).role (s.contract l).state (s.contract l).lastOutcome a.voltage a.current a.lease
      a.point) := by
  simp [State.raiseAgreed, agreement]

@[simp] theorem State.raiseAgreed_setup (s : State) (l : Line) : s.SameSetup (s.raiseAgreed l) := by
  unfold State.raiseAgreed
  dsimp only
  split <;> simp [State.SameSetup]

@[simp] theorem State.raiseAgreed_records (s : State) (l : Line) : s.SameRecords (s.raiseAgreed l) := by
  unfold State.raiseAgreed
  dsimp only
  split <;> simp [State.SameRecords]

@[simp] theorem State.raiseAgreed_engines (s : State) (l : Line) : s.SameEngines (s.raiseAgreed l) := by
  unfold State.raiseAgreed
  dsimp only
  split <;> simp [State.SameEngines]

@[simp] theorem State.raiseAgreed_contracts (s : State) (l : Line) : s.SameContracts (s.raiseAgreed l) := by
  unfold State.raiseAgreed
  dsimp only
  split <;> simp [State.SameContracts]

@[simp] theorem State.raiseAgreed_channels (s : State) (l : Line) : s.SameChannels (s.raiseAgreed l) := by
  unfold State.raiseAgreed
  dsimp only
  split <;> simp [State.SameChannels]

@[simp] theorem State.raiseAgreed_sameButNotices (s : State) (l : Line) : s.SameButNotices (s.raiseAgreed l) := by
  unfold State.raiseAgreed
  dsimp only
  split <;> simp [State.SameButNotices]

@[simp] theorem State.raiseAgreed_budget (s : State) (l : Line) : (s.raiseAgreed l).budget = s.budget := by
  unfold State.raiseAgreed
  dsimp only
  split <;> simp

theorem State.Told.raiseAgreed {m : Line} {time : Time} {body : NoticeBody} (told : s.Told m time body)
    (kind : body.kind ≠ .agreed) (l : Line) : (s.raiseAgreed l).Told m time body := by
  unfold State.raiseAgreed
  dsimp only
  split
  · refine told.raise ?_ _
    exact kind
  · exact told

end Agreed

/-! ### An arriving frame (R5, R45) -/

theorem State.deliver_of_arrives {s : State} {l : Line} {f : Frame} {kind : FrameKind} (arrives : s.Arrives l f)
    (same : f.body.kind = kind) (act : Frame → List Byte → State → State) :
    s.deliver l kind act = (act f (s.engine l).rxChars.dropLast (s.arrived l)).endEvent l := by
  obtain ⟨ready, valid, attached⟩ := arrives
  have here : ((s.onEngine l fun e => e.clearRx .idle).frameEvent l id).restartDelay l = s.arrived l := by
    rw [State.frameEvent, State.onHealth, State.onEngine_onEngine]
    rfl
  simp [State.deliver, ready, valid, same, attached, here]

section Arrived
variable (s : State) (l : Line)

@[simp] theorem State.arrived_setup : s.SameSetup (s.arrived l) := ⟨rfl, rfl, rfl, rfl, rfl, rfl⟩
@[simp] theorem State.arrived_records : s.SameRecords (s.arrived l) := ⟨rfl, rfl, rfl⟩
@[simp] theorem State.arrived_channels : s.SameChannels (s.arrived l) := ⟨rfl, fun _ => rfl⟩
@[simp] theorem State.arrived_link : s.SameLink (s.arrived l) := ⟨rfl, fun _ => rfl⟩
@[simp] theorem State.arrived_budget : (s.arrived l).budget = s.budget := rfl

@[simp] theorem State.arrived_contract_self : (s.arrived l).contract l = { s.contract l with
    timers := { (s.contract l).timers with greetingDelay := (s.contract l).timers.greetingDelay.map fun _ => s.now + 50 } } := by
  simp [State.arrived]

/-- R5: the transmit side stands as a frame arrives, and the receive side is IDLE. -/
@[simp] theorem State.arrived_engine_self : ((s.arrived l).engine l).txQueue = (s.engine l).txQueue ∧
    ((s.arrived l).engine l).nextId = (s.engine l).nextId ∧ ((s.arrived l).engine l).accepts = (s.engine l).accepts ∧
    ((s.arrived l).engine l).canSend = (s.engine l).canSend ∧ ((s.arrived l).engine l).rxSide = .idle := by
  simp [State.arrived, LineEngine.accepts, LineEngine.canSend]

end Arrived

theorem Still.arrived (s : State) (l : Line) : Still l s (s.arrived l) :=
  (((Still.refl l s).onEngine l _).onContract l _)

end Sys2Proof.Machine
end

section
/-! SUPPORT. Proofs for the ends of recalls (R100 to R103). -/

namespace Sys2Proof.Machine

/-- Section 8.1: the path of an ACTIVE supplying line. -/
theorem Contract.path_of_supplying {c : Contract} {a : Agreement} (state : c.state = .active) (role : c.role = .supply)
    (agreement : c.agreement = some a) :
    c.path = ⟨.supply, a.voltage, a.current, false, ⟨false, true, false, true, some a.voltage⟩⟩ := by
  simp [Contract.path, state, role, agreement, PathCommand.supply]

section Ends
variable {s v : State} {l : Line} {a b : Agreement}

theorem TargetTaken.budget {t : State} (taken : TargetTaken l v t) : t.budget = v.budget := by rw [taken.rest]
theorem TargetTaken.records {t : State} (taken : TargetTaken l v t) : v.SameRecords t := by
  rw [taken.rest]
  exact ⟨rfl, rfl, rfl⟩

/-- R100: what the take-up of a target leaves on an ACTIVE supplying line, at the end of its event. -/
theorem State.takeTarget_ends (agreement : (v.contract l).agreement = some b) (active : (v.contract l).state = .active)
    (supply : (v.contract l).role = .supply) (untripped : (v.channel l).tripped = false) :
    let t := (v.takeTarget l).endEvent l
    (t.contract l).agreement = some b ∧ (t.contract l).target = none ∧ (t.contract l).state = .active ∧
      (t.contract l).role = .supply ∧ (t.contract l).lastOutcome = (v.contract l).lastOutcome ∧
      (t.channel l).command = ⟨.supply, b.voltage, b.current, false, ⟨false, true, false, true, some b.voltage⟩⟩ ∧
      (v.TargetMet l b.current → (t.contract l).recallOut = (v.contract l).recallOut ∧
        (t.contract l).exchange = (v.contract l).exchange ∧ t.engine l = v.engine l) := by
  intro t
  have taken := v.takeTarget_taken l
  obtain ⟨state, role, outcome, agreed, -⟩ := taken.record.fields
  have contract : t.contract l = _ := State.endEvent_contract_self ..
  have kept : (t.contract l).agreement = some b := by rw [contract]; exact agreed.trans agreement
  have isActive : (t.contract l).state = .active := by rw [contract]; exact state.trans active
  have supplies : (t.contract l).role = .supply := by
    rw [contract]
    show roleOf ((v.takeTarget l).contract l).state ((v.takeTarget l).contract l).role = .supply
    rw [state, role, active, supply]
    rfl
  have still : ((v.takeTarget l).channel l).tripped = false := by rw [(Still.takeTarget v l).tripped, untripped]
  refine ⟨kept, by rw [contract]; exact taken.target, isActive, supplies, by rw [contract]; exact outcome, ?_, fun met => ?_⟩
  · exact (State.endEvent_command still).1.trans (Contract.path_of_supplying isActive supplies kept)
  · rw [contract, (State.endEvent_engines _ _).2, State.takeTarget_of_targetMet agreement met]
    simp

/-- R102: the record whose agreement is lowered, of a supplying line with no grant. -/
theorem Contract.lowered_commitment {c : Contract} (agreement : c.agreement = some a) (none : c.grant = none) (limit : Nat) :
    (c.lowered limit).supplyCommitment = a.voltage * limit / 200 := by
  simp [Contract.lowered, Contract.supplyCommitment, agreement, none, power]

theorem State.takeFault_recallIgnored (s : State) (l : Line) (kind : Option FrameKind) :
    s.takeFault l .recallIgnored kind = s.capture l .recallIgnored kind s.now := State.takeFaultOf_protocol rfl

/-- R103: an outstanding recall forced, before its target is taken up. -/
def State.recallForced (s : State) (l : Line) (level : Nat) : State :=
  (((s.lowerSupply l level).record l .recallForced).takeFault l .recallIgnored (some .recall)).raiseAgreed l

theorem State.forceRecall_of {r : RecallOut} (out : (s.contract l).recallOut = some r) :
    s.forceRecall l = (s.recallForced l r.level).takeTarget l := by
  simp [State.forceRecall, out, State.recallForced]

/-- R103: what the forcing of a recall leaves of its line, before the target is taken up. -/
theorem State.recallForced_line (left : (s.contract l).state ≠ .offering) (level : Nat) :
    (s.recallForced l level).contract l = { (s.contract l).lowered level with lastOutcome := some .recallForced } ∧
      (s.recallForced l level).engine l = s.engine l := by
  obtain ⟨contract, engine⟩ := State.lowerSupply_line (limit := level) left
  simp [State.recallForced, State.takeFault_recallIgnored, contract, engine]

theorem State.recallForced_untripped (untripped : (s.channel l).tripped = false) (level : Nat) :
    ((s.recallForced l level).channel l).tripped = false := by
  simpa [State.recallForced, State.takeFault_recallIgnored] using
    State.lowerSupply_untripped (limit := level) untripped

theorem State.recallForced_supplyCommit (level : Nat) :
    (s.recallForced l level).budget.supplyCommit.get l = ((s.contract l).lowered level).supplyCommitment := by
  simpa [State.recallForced, State.takeFault_recallIgnored] using
    State.lowerSupply_supplyCommit s l level

@[simp] theorem State.recallForced_setup (s : State) (l : Line) (level : Nat) : s.SameSetup (s.recallForced l level) := by
  simp [State.SameSetup, State.recallForced, State.takeFault_recallIgnored]

@[simp] theorem State.recallForced_strikes (s : State) (l : Line) (level : Nat) :
    (s.recallForced l level).strikes = s.strikes := by
  simp [State.recallForced, State.takeFault_recallIgnored]

/-- R103: the fault RECALL_IGNORED is taken in the state of the line. -/
theorem State.recallForced_taken (left : (s.contract l).state ≠ .offering) (level : Nat) :
    FaultTaken l s (s.recallForced l level) .recallIgnored (some .recall) := by
  obtain ⟨contract, -⟩ := State.lowerSupply_line (limit := level) left
  have taken := ((s.lowerSupply l level).record l .recallForced).takeFaultOf_taken l .recallIgnored (some .recall) s.now
  have before := taken.of_before (s := s) (by simp) (by simp) (by simp)
  rw [show (((s.lowerSupply l level).record l .recallForced).contract l).state = (s.contract l).state by
    simp [contract, Contract.lowered]] at before
  have now : ((s.lowerSupply l level).record l .recallForced).now = s.now := by simp
  have forced : s.recallForced l level =
      (((s.lowerSupply l level).record l .recallForced).takeFaultOf l .recallIgnored (some .recall) s.now).raiseAgreed l := by
    rw [State.recallForced, State.takeFault, now]
  rw [forced]
  exact before.later (by simp) (by simp) fun _ told => told.raiseAgreed (by simp [NoticeBody.kind]) l

/-- R103: the AGREED notice of a forced recall. -/
theorem State.recallForced_told (agreement : (s.contract l).agreement = some a) (left : (s.contract l).state ≠ .offering)
    (level : Nat) : (s.recallForced l level).Told l s.now
      (.agreed (s.contract l).role (s.contract l).state (some .recallForced) a.voltage level a.lease a.point) := by
  obtain ⟨contract, -⟩ := State.lowerSupply_line (limit := level) left
  generalize faulted : ((s.lowerSupply l level).record l .recallForced).takeFault l .recallIgnored (some .recall) = v
  have record : v.contract l = { (s.contract l).lowered level with lastOutcome := some .recallForced } := by
    simp [← faulted, State.takeFault_recallIgnored, contract]
  have now : v.now = s.now := by simp [← faulted, State.takeFault_recallIgnored]
  have agreed : (v.contract l).agreement = some { a with current := level } := by
    simp [record, Contract.lowered, agreement]
  rw [State.recallForced, faulted, State.raiseAgreed_of agreed, ← now, record]
  exact State.told_raise _ _ _

end Ends

section Lowered
variable {s u v : State} {l : Line} {a : Agreement} {limit : Nat} {o : Option Outcome}

/-- The line of a supplier with its agreement lowered, before the target is taken up. -/
structure Lowered (l : Line) (s v : State) (limit : Nat) (o : Option Outcome) : Prop where
  contract : ∃ timers, v.contract l = { (s.contract l).lowered limit with lastOutcome := o, timers := timers }
  queue : (v.engine l).txQueue = (s.engine l).txQueue
  nextId : (v.engine l).nextId = (s.engine l).nextId
  accepts : (v.engine l).accepts = (s.engine l).accepts
  untripped : (v.channel l).tripped = false
  now : v.now = s.now

/-- R102: with no request but a RECALL in the slot, the lowering leaves none. -/
theorem Contract.lowered_free {c : Contract} (limit : Nat) : ((∀ x, c.exchange = some x → x.kind = .recall) →
      (c.lowered limit).exchange = none) ∧ ((∀ w, c.waiting = some w → w.kind = .recall) → (c.lowered limit).waiting = none) := by
  refine ⟨fun only => ?_, fun only => ?_⟩
  · cases slot : c.exchange with
    | none => simp [Contract.lowered, slot]
    | some x => simp [Contract.lowered, slot, Option.filter, only x slot]
  · cases slot : c.waiting with
    | none => simp [Contract.lowered, slot]
    | some w => simp [Contract.lowered, slot, Option.filter, only w slot]

/-- R102, R103: what the end of a recall leaves of an ACTIVE supplying line. -/
theorem Lowered.ends (lowered : Lowered l s v limit o) (agreement : (s.contract l).agreement = some a)
    (active : (s.contract l).state = .active) (supply : (s.contract l).role = .supply) :
    let t := (v.takeTarget l).endEvent l
    (t.contract l).agreement = some { a with current := limit } ∧ (t.contract l).target = none ∧
      (t.contract l).state = .active ∧ (t.contract l).lastOutcome = o ∧
      (t.channel l).command = ⟨.supply, a.voltage, limit, false, ⟨false, true, false, true, some a.voltage⟩⟩ ∧
      (s.TargetMet l limit → (t.contract l).recallOut = none ∧
        (t.contract l).exchange = ((s.contract l).lowered limit).exchange ∧
        (t.engine l).txQueue = (s.engine l).txQueue) ∧
      (s.OnlyRecall l →
        TargetRecalled l s t (s.engine l).accepts (s.engine l).txQueue (s.engine l).nextId limit) := by
  obtain ⟨⟨timers, contract⟩, queue, nextId, accepts, untripped, now⟩ := lowered
  have agreed : (v.contract l).agreement = some { a with current := limit } := by
    simp [contract, Contract.lowered, agreement]
  obtain ⟨kept, target, isActive, -, outcome, command, met⟩ := State.takeTarget_ends agreed
    (by simp [contract, Contract.lowered, active]) (by simp [contract, Contract.lowered, supply]) untripped
  have sameTarget : (v.contract l).target = (s.contract l).target := by rw [contract]; rfl
  refine ⟨kept, target, isActive, outcome.trans (by rw [contract]), command, fun satisfied => ?_, fun only => ?_⟩
  · obtain ⟨out, exchange, engine⟩ := met (by rw [State.TargetMet, sameTarget]; exact satisfied)
    exact ⟨out.trans (by rw [contract]; rfl), exchange.trans (by rw [contract]), by rw [engine, queue]⟩
  · rw [← accepts, ← queue, ← nextId]
    exact (State.takeTarget_recalled agreed (by simp [contract, Contract.lowered, active])
      (by rw [contract]; exact (Contract.lowered_free limit).1 only.1)
      (by rw [contract]; exact (Contract.lowered_free limit).2 only.2) sameTarget (by rw [contract]; rfl) now).endEvent

/-- What a row has changed of its line before a recall is ended: a running greeting delay, and the receive side. -/
structure AtArrival (l : Line) (s u : State) : Prop where
  contract : ∃ timers, u.contract l = { s.contract l with timers := timers }
  queue : (u.engine l).txQueue = (s.engine l).txQueue
  nextId : (u.engine l).nextId = (s.engine l).nextId
  accepts : (u.engine l).accepts = (s.engine l).accepts
  channel : u.channel l = s.channel l
  now : u.now = s.now
  captures : u.captures = s.captures
  strikes : u.strikes = s.strikes

theorem AtArrival.same : AtArrival l s s := ⟨⟨_, rfl⟩, rfl, rfl, rfl, rfl, rfl, rfl, rfl⟩

theorem AtArrival.arrived : AtArrival l s (s.arrived l) :=
  ⟨⟨_, s.arrived_contract_self l⟩, by simp, by simp, by simp, by simp, by simp, by simp, by simp⟩

/-- R103: what the forcing of a recall leaves, at the end of its event. -/
theorem AtArrival.forced (here : AtArrival l s u) {r : RecallOut} (out : (s.contract l).recallOut = some r)
    (agreement : (s.contract l).agreement = some a) (active : (s.contract l).state = .active)
    (supply : (s.contract l).role = .supply) (noGrant : (s.contract l).grant = none) (settled : s.LineSettled l) :
    let t := (u.forceRecall l).endEvent l
    (t.contract l).agreement = some { a with current := r.level } ∧ (t.contract l).target = none ∧
      (s.TargetMet l r.level → (t.contract l).recallOut = none ∧
        (t.contract l).exchange = ((s.contract l).lowered r.level).exchange ∧
        (t.engine l).txQueue = (s.engine l).txQueue) ∧
      (s.OnlyRecall l →
        TargetRecalled l s t (s.engine l).accepts (s.engine l).txQueue (s.engine l).nextId r.level) ∧
      (t.contract l).lastOutcome = some .recallForced ∧ (t.contract l).state = .active ∧
      (t.channel l).command = ⟨.supply, a.voltage, r.level, false, ⟨false, true, false, true, some a.voltage⟩⟩ ∧
      t.budget.supplyCommit.get l = a.voltage * r.level / 200 ∧ FaultTaken l s t .recallIgnored (some .recall) ∧
      t.Told l s.now (.agreed .supply .active (some .recallForced) a.voltage r.level a.lease a.point) := by
  obtain ⟨⟨timers, contract⟩, queue, nextId, accepts, channel, now, captures, strikes⟩ := here
  have left : (u.contract l).state ≠ .offering := by rw [contract]; simp [active]
  have forces : u.forceRecall l = (u.recallForced l r.level).takeTarget l := State.forceRecall_of (by rw [contract]; exact out)
  obtain ⟨line, engine⟩ := State.recallForced_line left r.level
  have lowered : Lowered l s (u.recallForced l r.level) r.level (some .recallForced) := by
    refine ⟨⟨timers, ?_⟩, by rw [engine, queue], by rw [engine, nextId], by rw [engine, accepts],
      State.recallForced_untripped (by rw [channel]; exact settled.1) _, by simp [now]⟩
    rw [line, contract]
    rfl
  obtain ⟨kept, target, isActive, outcome, command, met, recalled⟩ := lowered.ends agreement active supply
  have taken := (u.recallForced l r.level).takeTarget_taken l
  rw [forces]
  refine ⟨kept, target, met, recalled, outcome, isActive, command, ?_, ?_, ?_⟩
  · rw [State.endEvent_budget, taken.budget, State.recallForced_supplyCommit,
      Contract.lowered_commitment (by rw [contract]; exact agreement) (by rw [contract]; exact noGrant)]
  · have fault := (State.recallForced_taken left r.level).of_before (s := s) (by rw [captures]) (by rw [strikes]) now
    rw [show (u.contract l).state = (s.contract l).state by rw [contract], now] at fault
    refine FaultTakenIn.endEvent (fault.later ?_ ?_ fun _ told => told.takeTarget l) l
    · rw [taken.records.2.1]
    · rw [taken.records.2.2]
  · have told := State.recallForced_told (s := u) (a := a) (by rw [contract]; exact agreement) left r.level
    rw [now, contract] at told
    simp only [active, supply] at told
    exact (told.takeTarget l).of_notices rfl

end Lowered

/-- R103: a YIELD beyond the level forces the recall. -/
theorem takeYield_of_beyond {s : State} {l : Line} {r : RecallOut} {tag : Tag} {limit : Nat} (out : (s.contract l).recallOut = some r)
    (fits : (s.contract l).fits .recall tag = true) (beyond : r.level < limit) (raw : List Byte) :
    takeYield l ⟨tag, .yield limit⟩ raw s = s.forceRecall l := by
  simp [takeYield, out, fits, Nat.not_le.2 beyond]

/-- R102: a YIELD within the level lowers the agreement. -/
theorem takeYield_of_within {s : State} {l : Line} {r : RecallOut} {tag : Tag} {limit : Nat} (out : (s.contract l).recallOut = some r)
    (fits : (s.contract l).fits .recall tag = true) (within : limit ≤ r.level) (raw : List Byte) :
    takeYield l ⟨tag, .yield limit⟩ raw s = ((s.lowerSupply l limit).raiseAgreed l).takeTarget l := by
  simp [takeYield, out, fits, within]

/-- R33: what fits is of the kind. -/
theorem Contract.lowered_exchange_of_fits {c : Contract} {tag : Tag} (fits : c.fits .recall tag = true) (limit : Nat) :
    (c.lowered limit).exchange = none := by
  refine (Contract.lowered_free limit).1 fun x outstanding => ?_
  simp only [Contract.fits, outstanding, Bool.and_eq_true, beq_iff_eq] at fits
  exact fits.1

/-- Settles O30: a recall ends by the lowering of its agreement, forced or not, and the take-up of the pending target. -/
theorem recallsEndByYieldOrForce : Obligations.RecallsEndByYieldOrForce := by
  refine ⟨fun l s r a d out agreement active supply noGrant settled => ?_,
    fun l s r a tag limit out agreement active supply noGrant settled arrives fits within => ?_⟩
  · intro forced
    refine ⟨fun deadline reached => ?_, fun tag limit arrives fits beyond => ?_⟩
    · have row : exec (.recallDeadline l) s = .next ((s.forceRecall l).endEvent l) :=
        if_pos (by rw [out, Option.bind_some, deadline]; exact decide_eq_true reached)
      obtain ⟨kept, target, met, recalled, outcome, isActive, command, commit, fault, told⟩ :=
        AtArrival.same.forced out agreement active supply noGrant settled
      exact ⟨_, row, kept, target, fun satisfied => ⟨(met satisfied).1, (met satisfied).2.2⟩, recalled, outcome, isActive,
        command, commit, fault, told, linesDoNotInterfere (.recallDeadline l) l s _ rfl row⟩
    · have row : exec (.yieldReceived l) s = .next (((s.arrived l).forceRecall l).endEvent l) := by
        rw [exec, execYieldReceived, State.deliver_of_arrives (kind := .yield) arrives rfl, takeYield_of_beyond _ _ beyond]
        · simpa using out
        · rw [State.arrived_contract_self]
          exact fits
      obtain ⟨kept, target, met, recalled, outcome, isActive, command, commit, fault, told⟩ :=
        AtArrival.arrived.forced out agreement active supply noGrant settled
      refine ⟨_, row, ?_, kept, target, fun satisfied => ⟨(met satisfied).1, (met satisfied).2.2⟩, recalled, outcome, isActive, command, commit, fault, told,
        linesDoNotInterfere (.yieldReceived l) l s _ rfl row⟩
      rw [State.forceRecall_of (r := r) (by simpa using out)]
      obtain ⟨-, side, -⟩ := (State.takeTarget_taken ((s.arrived l).recallForced l r.level) l).engine.fields
      rw [(State.endEvent_engines _ _).2, side, (State.recallForced_line (by simp [active]) _).2]
      simp
  · have row : exec (.yieldReceived l) s =
        .next (((((s.arrived l).lowerSupply l limit).raiseAgreed l).takeTarget l).endEvent l) := by
      rw [exec, execYieldReceived, State.deliver_of_arrives (kind := .yield) arrives rfl, takeYield_of_within _ _ within]
      · simpa using out
      · rw [State.arrived_contract_self]
        exact fits
    obtain ⟨line, engine⟩ := State.lowerSupply_line (s := s.arrived l) (l := l) (limit := limit) (by simp [active])
    rw [State.arrived_contract_self] at line
    have lowered : Lowered l s (((s.arrived l).lowerSupply l limit).raiseAgreed l) limit (s.contract l).lastOutcome := by
      refine ⟨⟨((s.arrived l).contract l).timers, ?_⟩, by simp [engine], by simp [engine], by simp [engine], ?_, by simp⟩
      · rw [(State.raiseAgreed_contracts _ _).2, line, State.arrived_contract_self]
        rfl
      · rw [(State.raiseAgreed_channels _ _).2]
        exact State.lowerSupply_untripped (by simpa using settled.1)
    obtain ⟨kept, target, isActive, outcome, command, met, recalled⟩ := lowered.ends agreement active supply
    have taken := (((s.arrived l).lowerSupply l limit).raiseAgreed l).takeTarget_taken l
    refine ⟨_, row, kept, target, fun satisfied => ?_, recalled, outcome, command, ?_, ?_, ?_,
      linesDoNotInterfere (.yieldReceived l) l s _ rfl row⟩
    · obtain ⟨out, exchange, queue⟩ := met satisfied
      exact ⟨out, exchange.trans (Contract.lowered_exchange_of_fits fits limit), queue⟩
    · rw [State.endEvent_budget, taken.budget, State.raiseAgreed_budget, State.lowerSupply_supplyCommit,
        Contract.lowered_commitment (by simpa using agreement) (by simpa using noGrant)]
    · have agreed : (((s.arrived l).lowerSupply l limit).contract l).agreement = some { a with current := limit } := by
        simp [line, Contract.lowered, agreement]
      have told := State.told_raise ((s.arrived l).lowerSupply l limit) l
        (.agreed (((s.arrived l).lowerSupply l limit).contract l).role (((s.arrived l).lowerSupply l limit).contract l).state
          (((s.arrived l).lowerSupply l limit).contract l).lastOutcome a.voltage limit a.lease a.point)
      rw [State.raiseAgreed_of agreed]
      refine State.Told.of_notices ((State.Told.takeTarget ?_ l)) rfl
      simpa [line, Contract.lowered, active, supply] using told
    · rw [(State.endEvent_records _ _).2.1, taken.records.2.1]
      simp

end Sys2Proof.Machine
end

section
/-! SUPPORT. Proofs for failed sends (R9, R13 to R16, R34, R46, R57, R77, R81, R103, R152). -/

namespace Sys2Proof.Machine

/-! ### The head frame abandoned (R13 to R15) -/

section Fails
variable {s u : State} {l : Line} {f : TxFrame} {fs : List TxFrame} {cause : Cause} {g : LineEngine → LineEngine}

/-- The head frame is abandoned after a change of the line engine: the LINK fault is taken and the frame leaves. -/
def State.failsWith (s : State) (l : Line) (g : LineEngine → LineEngine) (cause : Cause) (f : TxFrame) : State :=
  ((s.onEngine l g).takeFaultOf l cause (kindOfChars f.chars) s.now).onEngine l LineEngine.finishHead

/-- What a failed send does to its line engine before the fault is taken: the queue stands. -/
structure KeepsQueue (g : LineEngine → LineEngine) (e : LineEngine) : Prop where
  queue : (g e).txQueue = e.txQueue
  nextId : (g e).nextId = e.nextId

/-- Nor does it stop the engine from sending. -/
structure KeepsSending (g : LineEngine → LineEngine) (e : LineEngine) : Prop extends KeepsQueue g e where
  canSend : (g e).canSend = e.canSend

theorem LineEngine.accepts_eq (e : LineEngine) : e.accepts = (e.canSend && decide (e.txQueue.length < 4)) := rfl

theorem KeepsSending.accepts {e : LineEngine} (keeps : KeepsSending g e) : (g e).accepts = e.accepts := by
  rw [LineEngine.accepts_eq, keeps.canSend, keeps.queue, LineEngine.accepts_eq]

/-- R13 to R15: a row that abandons the head frame is its report taken on. -/
theorem State.failHead_eq (queue : (g (s.engine l)).txQueue = f :: fs) (flag : Health → Health) (cause : Cause) :
    (s.onEngine l g).failHead l flag cause =
      (s.failsWith l (fun e => { g e with health := flag (g e).health }) cause f).reportFailed l f.id := by
  have head : ((s.onEngine l g).engine l).txQueue = f :: fs := by rw [State.onEngine_engine_self, queue]
  simp only [State.failHead, head, State.onHealth, State.onEngine_onEngine, State.takeFault, State.failsWith, State.onEngine_now]

theorem execRepeatLimit_of (queue : (s.engine l).txQueue = f :: fs) (sending : (s.engine l).txSide = .sending)
    (fourth : (s.engine l).txSends = 4) : exec (.repeatLimit l) s = .next (((s.failsWith l (fun e =>
      { e with health := { e.health with repeatLimit := true } }) .repeatLimit f).reportFailed l f.id).endEvent l) := by
  have fails := State.failHead_eq (s := s) (l := l) (g := fun e => e) queue (fun h => { h with repeatLimit := true }) .repeatLimit
  rw [State.onEngine_id] at fails
  rw [← fails]
  exact if_pos ⟨sending, fourth⟩

theorem execLoopFailure_of (queue : (s.engine l).txQueue = f :: fs) (sending : (s.engine l).txSide = .sending)
    (second : f.loopFailures ≠ 0) : exec (.loopFailure l) s = .next (((s.failsWith l (fun e =>
      { e.clearRx .discarding with health := { e.health with loopFail := true } }) .loop f).reportFailed l f.id).endEvent l) := by
  have fails := State.failHead_eq (s := s) (l := l) (g := fun e => e.clearRx .discarding) queue
    (fun h => { h with loopFail := true }) .loop
  simp only [exec, execLoopFailure, queue, sending, second, if_true, if_false, fails]
  rfl

/-- R14: the first loop failure of a frame. -/
def LineEngine.retries (f : TxFrame) (e : LineEngine) : LineEngine :=
  { e.clearRx .discarding with
    txQueue := { f with loopFailures := 1 } :: e.txQueue.tail
    txSide := .retryWait
    txLevels := []
    txIndex := 0
    txSends := 0
    watchdog := none
    health := { e.health with loopFail := true } }

theorem execLoopFailure_of_first (queue : (s.engine l).txQueue = f :: fs) (sending : (s.engine l).txSide = .sending)
    (first : f.loopFailures = 0) : exec (.loopFailure l) s =
      .next (((s.onEngine l (LineEngine.retries f)).takeFaultOf l .loop (kindOfChars f.chars) s.now).endEvent l) := by
  simp only [exec, execLoopFailure, queue, sending, first, if_true, State.retryHead, State.onHealth, State.onEngine_onEngine,
    State.takeFault]
  rfl

/-- R15, R16: a watchdog expiry that is not the third. -/
theorem execTxTimeout_of {n : Nat} (queue : (s.engine l).txQueue = f :: fs) (sending : (s.engine l).txSide = .sending)
    (runs : (s.engine l).watchdog = some n) (expired : 40 ≤ n) :
    exec (.txTimeout l) s = .next ((if (s.engine l).wdCount + 1 = 3 then
      ((s.failsWith l (fun e => { e with wdCount := e.wdCount + 1, health := { e.health with txTimeout := true } }) .txTimeout f
        ).reportFailed l f.id).enterFaulted l else
      (s.failsWith l (fun e => { e with wdCount := e.wdCount + 1, health := { e.health with txTimeout := true } }) .txTimeout f
        ).reportFailed l f.id).endEvent l) := by
  have fails := State.failHead_eq (s := s) (l := l) (g := fun e => { e with wdCount := e.wdCount + 1 }) queue
    (fun h => { h with txTimeout := true }) .txTimeout
  simp only [exec, execTxTimeout, runs, sending, expired, and_self, if_true, fails]

/-- R152: the line below the fourth strike, with the head frame abandoned. -/
structure HeadFailed (l : Line) (s u : State) (g : LineEngine → LineEngine) (cause : Cause) (kind : Option FrameKind) : Prop where
  contract : u.contract l = s.contract l
  channel : u.channel l = s.channel l
  engine : u.engine l = (g (s.engine l)).finishHead
  budget : u.budget = s.budget
  now : u.now = s.now
  strikes : u.strikes.get l = min 255 (s.strikes.get l + 1)
  taken : FaultTaken l s u cause kind

theorem State.failsWith_below (link : cause.cls = .link) (below : s.strikes.get l + 1 ≠ 4) (g : LineEngine → LineEngine)
    (f : TxFrame) : HeadFailed l s (s.failsWith l g cause f) g cause (kindOfChars f.chars) := by
  have taken := (((s.onEngine l g).takeFaultOf_taken l cause (kindOfChars f.chars) s.now).of_before (s := s) rfl rfl rfl).later
    (u := s.failsWith l g cause f) rfl rfl fun _ told => told
  have fails : s.failsWith l g cause f =
      (((s.onEngine l g).capture l cause (kindOfChars f.chars) s.now).struck l).onEngine l LineEngine.finishHead := by
    rw [State.failsWith, State.takeFaultOf_link (s := s.onEngine l g) link below]
  refine ⟨?_, ?_, ?_, ?_, ?_, ?_, taken⟩ <;> rw [fails] <;> simp

theorem HeadFailed.still {kind : Option FrameKind} (failed : HeadFailed l s u g cause kind) : Still l s u :=
  .ofBlocks failed.contract failed.channel

/-- R9: what leaves of the queue. -/
theorem LineEngine.finishHead_of {e : LineEngine} (queue : e.txQueue = f :: fs) : e.finishHead =
    { e with
      txQueue := fs
      txSide := if fs.isEmpty then .idle else .waiting
      txLevels := []
      txIndex := 0
      txSends := 0
      watchdog := none
      drain := e.drain.map fun n => n - 1 } := by
  simp [LineEngine.finishHead, queue]

/-- R9: a FAILED report of a frame that is not the outstanding request's. -/
theorem State.reportFailed_of_other {id : Nat} (other : ∀ x, (s.contract l).exchange = some x → x.frameId ≠ id) :
    s.reportFailed l id = s.slowReport l id := by
  unfold State.reportFailed
  split
  · next x outstanding => exact if_neg (other x outstanding)
  · rfl

theorem State.reportFailed_of_own {x : Exchange} (outstanding : (s.contract l).exchange = some x) :
    s.reportFailed l x.frameId = (s.record l .lineError).expire l x true := by
  simp [State.reportFailed, outstanding]

/-- R9, R46: what a frame that is not the outstanding request's leaves when it is abandoned. -/
theorem HeadFailed.gone {kind : Option FrameKind} (failed : HeadFailed l s u g cause kind) (settled : s.LineSettled l)
    (keeps : KeepsQueue g (s.engine l)) (queue : (s.engine l).txQueue = f :: fs)
    (other : ∀ x, (s.contract l).exchange = some x → x.frameId ≠ f.id) :
    let t := (u.reportFailed l f.id).endEvent l
    ((t.engine l).txQueue = fs ∧ (t.engine l).txSide = (if fs.isEmpty then .idle else .waiting) ∧
      (t.engine l).watchdog = none ∧
      ((s.contract l).timers.slowFrame ≠ some f.id → t.contract l = s.contract l) ∧
      ((s.contract l).timers.slowFrame = some f.id → t.contract l = { s.contract l with
        timers := { (s.contract l).timers with slowFrame := none, slowRegreeting := some (s.now + 5000) } }) ∧
      t.channel l = s.channel l ∧ t.budget = s.budget) ∧
    t.engine l = (g (s.engine l)).finishHead ∧ FaultTaken l s t cause kind := by
  have report := State.reportFailed_of_other (s := u) (l := l) (id := f.id) (by rw [failed.contract]; exact other)
  have ended : (u.reportFailed l f.id).endEvent l = u.slowReport l f.id := by
    rw [report]
    exact State.endEvent_of_still (failed.still.slowReport l _) settled
  have finished := LineEngine.finishHead_of (keeps.queue.trans queue)
  intro t
  simp only [t, ended]
  by_cases slow : (s.contract l).timers.slowFrame = some f.id
  · rw [State.slowReport_of_slow (by rw [failed.contract]; exact slow)]
    simp only [State.onContract_engine, State.onContract_contract_self, State.onContract_channel, State.onContract_budget,
      failed.contract, failed.channel, failed.budget, failed.engine, failed.now, finished]
    exact ⟨⟨trivial, trivial, trivial, fun quick => absurd slow quick, fun _ => trivial, trivial, trivial⟩, trivial,
      failed.taken.later rfl rfl fun _ told => told⟩
  · rw [State.slowReport_of_other (by rw [failed.contract]; exact slow)]
    simp only [failed.contract, failed.channel, failed.budget, failed.engine, finished]
    exact ⟨⟨trivial, trivial, trivial, fun _ => trivial, fun isSlow => absurd isSlow slow, trivial, trivial⟩, trivial,
      failed.taken⟩

end Fails

/-- R14: the first loop failure of a frame, which is sent once more. -/
theorem firstLoopFailure_leaves (l : Line) (s : State) (f : TxFrame) (fs : List TxFrame) (queue : (s.engine l).txQueue = f :: fs)
    (sending : (s.engine l).txSide = .sending) (settled : s.LineSettled l) (below : s.strikes.get l + 1 ≠ 4) :
    (f.loopFailures = 0 → ∃ t, exec (.loopFailure l) s = .next t ∧
      (t.engine l).txQueue = { f with loopFailures := 1 } :: fs ∧ (t.engine l).txSide = .retryWait ∧
      (t.engine l).txSends = 0 ∧ (t.engine l).watchdog = none ∧ (t.engine l).rxSide = .discarding ∧
      (t.engine l).health = { (s.engine l).health with loopFail := true } ∧ t.contract l = s.contract l ∧
      t.channel l = s.channel l ∧ t.budget = s.budget ∧ FaultTaken l s t .loop (kindOfChars f.chars) ∧ LineFrame l s t) := by
  intro first
  have row := execLoopFailure_of_first queue sending first
  have failed : (s.onEngine l (LineEngine.retries f)).takeFaultOf l .loop (kindOfChars f.chars) s.now =
      ((s.onEngine l (LineEngine.retries f)).capture l .loop (kindOfChars f.chars) s.now).struck l :=
    State.takeFaultOf_link rfl below
  have taken := ((s.onEngine l (LineEngine.retries f)).takeFaultOf_taken l .loop (kindOfChars f.chars) s.now).of_before
    (s := s) rfl rfl rfl
  rw [State.endEvent_of_still (s := s) (.ofBlocks (by rw [failed]; simp) (by rw [failed]; simp)) settled] at row
  have engine : ((s.onEngine l (LineEngine.retries f)).takeFaultOf l .loop (kindOfChars f.chars) s.now).engine l =
      (s.engine l).retries f := by
    rw [failed]
    simp
  refine ⟨_, row, ?_, ?_, ?_, ?_, ?_, ?_, ?_, ?_, ?_, taken, linesDoNotInterfere (.loopFailure l) l s _ rfl row⟩
  · rw [engine, LineEngine.retries, queue, List.tail_cons]
  all_goals first | (rw [engine]; rfl) | (rw [failed]; simp)

/-! ### The outstanding request's frame abandoned (R34, R46, R77, R81, R103) -/

section Own
variable {s u : State} {l : Line} {f : TxFrame} {fs : List TxFrame} {cause : Cause} {g : LineEngine → LineEngine}
  {kind : Option FrameKind} {x : Exchange}

/-- R55: the outcome of a FAILED report. -/
theorem HeadFailed.recorded (failed : HeadFailed l s u g cause kind) : (u.record l .lineError).contract l =
    { s.contract l with lastOutcome := some .lineError } := by
  rw [State.record_contract_self, failed.contract]

theorem HeadFailed.report (failed : HeadFailed l s u g cause kind) (outstanding : (s.contract l).exchange = some x)
    (own : x.frameId = f.id) : u.reportFailed l f.id = (u.record l .lineError).expire l x true := by
  rw [← own]
  exact State.reportFailed_of_own (by rw [failed.contract]; exact outstanding)

theorem HeadFailed.queue (failed : HeadFailed l s u g cause kind) (keeps : KeepsQueue g (s.engine l))
    (queue : (s.engine l).txQueue = f :: fs) : (u.engine l).txQueue = fs := by
  rw [failed.engine, LineEngine.finishHead_of (keeps.queue.trans queue)]

theorem FaultTaken.record (taken : FaultTaken l s u cause kind) (o : Outcome) : FaultTaken l s (u.record l o) cause kind :=
  taken.later rfl rfl fun _ told => told

/-- R34, R77: a first expiry by a FAILED report: the request is handed once more. -/
theorem HeadFailed.resends (failed : HeadFailed l s u g cause kind) (keeps : KeepsSending g (s.engine l))
    (queue : (s.engine l).txQueue = f :: fs) (settled : s.LineSettled l) (isRequest : x.kind = .claim ∨ x.kind = .renew)
    (first : x.expiries = 0) (sends : (s.engine l).canSend = true) (room : fs.length < 4) :
    let t := ((u.record l .lineError).expire l x true).endEvent l
    (t.engine l).txQueue = fs ++ [⟨(s.engine l).nextId, x.chars, 0⟩] ∧
      t.contract l = { s.contract l with
        lastOutcome := some .lineError
        exchange := some ⟨x.kind, x.tag, x.chars, (s.engine l).nextId, 1, none, none⟩ } ∧
      t.channel l = s.channel l ∧ FaultTaken l s t cause kind := by
  have engine : (u.record l .lineError).engine l = (g (s.engine l)).finishHead := failed.engine
  have finished := LineEngine.finishHead_of (keeps.queue.trans queue)
  have accepts : ((u.record l .lineError).engine l).accepts = true := by
    have same : (g (s.engine l)).finishHead.canSend = true := by
      rw [finished]
      exact keeps.canSend.trans sends
    rw [engine, LineEngine.accepts_eq, same, finished]
    simpa using room
  have still : Still l s ((u.record l .lineError).sendRequest l ⟨x.kind, x.tag, x.chars, 1⟩) :=
    (failed.still.onContract l _).sendRequest l _
  have taken := (failed.taken.record .lineError).later (u := (u.record l .lineError).sendRequest l ⟨x.kind, x.tag, x.chars, 1⟩)
    (by rw [(State.sendRequest_slot ..).rest]) (by rw [(State.sendRequest_slot ..).rest])
    fun _ told => (State.sendRequest_slot ..).told told
  rw [State.expire_of_first isRequest first, State.endEvent_of_still still settled]
  refine ⟨?_, ?_, ?_, taken⟩
  all_goals rw [State.sendRequest_of_accepts accepts]
  · simp only [State.onContract_engine, State.onEngine_engine_self]
    rw [LineEngine.hand_of_accepts accepts, engine, finished]
    exact congrArg (fun id => fs ++ [⟨id, x.chars, 0⟩]) keeps.nextId
  · simp only [State.onContract_contract_self, State.onEngine_contract, failed.recorded, engine, finished, keeps.nextId]
  · exact failed.channel

/-- R77, R81: a second expiry by a FAILED report closes the contract, and the LINE_ERROR stands. -/
theorem HeadFailed.closes (failed : HeadFailed l s u g cause kind) (keeps : KeepsQueue g (s.engine l))
    (queue : (s.engine l).txQueue = f :: fs) (isRequest : x.kind = .claim ∨ x.kind = .renew) (second : x.expiries ≠ 0) :
    let t := ((u.record l .lineError).expire l x true).endEvent l
    ClosedTo l s t .greeting .none (some .lineError) ∧ (t.contract l).timers.greetingDelay = some (s.now + 50) ∧
      (t.engine l).txQueue = fs ∧ FaultTaken l s t cause kind := by
  have closes : (u.record l .lineError).expire l x true = (u.record l .lineError).closeToGreeting l none :=
    State.expire_of_second isRequest second true
  have closed := State.closeToGreeting_closedTo (s := s) (u := u.record l .lineError) (l := l) (by rw [failed.recorded])
    failed.now none
  rw [failed.recorded] at closed
  rw [closes]
  refine ⟨closed, ?_, ?_, ?_⟩
  · rw [State.endEvent_contract_self, State.closeToGreeting_contract_self]
    exact congrArg (fun now => some (now + BitVec.ofNat 32 50)) failed.now
  · rw [(State.endEvent_engines _ _).2, State.closeToGreeting_engine_self]
    exact failed.queue keeps queue
  · exact FaultTakenIn.endEvent ((failed.taken.record .lineError).later (by simp) (by simp)
      fun _ told => told.closing (by simp [NoticeBody.kind])) l

/-- Log 18: a CLAIM that has its GRANT counts no expiry. -/
theorem HeadFailed.granted (failed : HeadFailed l s u g cause kind) (settled : s.LineSettled l) (isGranted : x.kind = .claimGranted) :
    ((u.record l .lineError).expire l x true).endEvent l = u.record l .lineError := by
  rw [show (u.record l .lineError).expire l x true = u.record l .lineError by simp [State.expire, isGranted]]
  exact State.endEvent_of_still (failed.still.onContract l _) settled

/-- R46: a FAILED ANNOUNCE that does not end the greeting, or that was sent in an unmanaged BASELINE. -/
theorem HeadFailed.announces (failed : HeadFailed l s u g cause kind) (settled : s.LineSettled l) (isAnnounce : x.kind = .announce) :
    ((s.contract l).state = .greeting → (s.contract l).greetingCount < 2 →
      ((u.record l .lineError).expire l x true).endEvent l = u.onContract l fun c => { c with
        lastOutcome := some .lineError
        exchange := none
        greetingCount := c.greetingCount + 1
        timers := { c.timers with greetingRetry := some (s.now + 200) } }) ∧
    ((s.contract l).state = .baseline → (s.contract l).unmanaged = true →
      ((u.record l .lineError).expire l x true).endEvent l = u.onContract l fun c => { c with
        lastOutcome := some .lineError
        exchange := none
        timers := { c.timers with slowRegreeting := some (s.now + 5000) } }) := by
  have given := State.expire_of_announce (s := u.record l .lineError) (l := l) isAnnounce true
  have now : (u.record l .lineError).now = s.now := failed.now
  rw [if_pos rfl, now] at given
  have state : (((u.record l .lineError).closeExchange l).contract l).state = (s.contract l).state := by
    simp [failed.contract]
  refine ⟨fun greeting few => ?_, fun baseline unmanaged => ?_⟩
  · rw [State.giveUpAnnounce_of_few (state.trans greeting) (by simpa [failed.contract] using few)] at given
    have merged := given.trans (by rw [State.closeExchange, State.record, State.onContract_onContract, State.onContract_onContract])
    rw [merged]
    exact State.endEvent_of_still (failed.still.onContract l _) settled
  · rw [State.giveUpAnnounce_of_failed (state.trans baseline) (by simpa [failed.contract] using unmanaged)] at given
    have merged := given.trans (by rw [State.closeExchange, State.record, State.onContract_onContract, State.onContract_onContract])
    rw [merged]
    exact State.endEvent_of_still (failed.still.onContract l _) settled

/-- R46: the FAILED report of the third ANNOUNCE ends the greeting. -/
theorem HeadFailed.givesUp (failed : HeadFailed l s u g cause kind) (keeps : KeepsQueue g (s.engine l))
    (queue : (s.engine l).txQueue = f :: fs) (settled : s.LineSettled l) (isAnnounce : x.kind = .announce)
    (greeting : (s.contract l).state = .greeting) (third : (s.contract l).greetingCount = 2) :
    let t := ((u.record l .lineError).expire l x true).endEvent l
    (t.contract l).lastOutcome = some .noAnswer ∧ (t.contract l).exchange = none ∧ (t.engine l).txQueue = fs ∧
      FaultTaken l s t cause kind ∧
      ((s.contract l).options.roles.draw = true →
        (t.contract l).state = .baseline ∧ (t.contract l).role = .draw ∧ (t.contract l).unmanaged = true ∧
        (t.contract l).timers.slowRegreeting = some (s.now + 5000) ∧
        (t.channel l).command = .draw (s.contract l).options.baseline false none) ∧
      ((s.contract l).options.roles.draw = false →
        (t.contract l).state = .blocked ∧ (t.contract l).role = .none ∧ (t.channel l).command = .opened) := by
  have given := State.expire_of_announce (s := u.record l .lineError) (l := l) isAnnounce true
  have now : (u.record l .lineError).now = s.now := failed.now
  rw [if_pos rfl, now] at given
  have options : (((u.record l .lineError).closeExchange l).contract l).options = (s.contract l).options := by
    simp [failed.contract]
  obtain ⟨outcome, exchange, draws, blocks⟩ := State.giveUpAnnounce_third_leaves
    (s := (u.record l .lineError).closeExchange l) (l := l) (by simpa [failed.contract] using greeting)
    (by simpa [failed.contract] using third) (by simpa [failed.channel] using settled.1) s.now true
  rw [options] at draws blocks
  rw [given]
  refine ⟨outcome, exchange.trans (by simp), failed.queue keeps queue, ?_, draws, blocks⟩
  refine FaultTakenIn.endEvent ?_ l
  exact failed.taken.later rfl rfl fun _ told => told

/-- R103: the FAILED report of a RECALL forces it. -/
theorem HeadFailed.forces (failed : HeadFailed l s u g cause kind) (keeps : KeepsSending g (s.engine l))
    (queue : (s.engine l).txQueue = f :: fs) (settled : s.LineSettled l) (outstanding : (s.contract l).exchange = some x)
    (isRecall : x.kind = .recall) {r : RecallOut} {a : Agreement} (out : (s.contract l).recallOut = some r)
    (agreement : (s.contract l).agreement = some a) (active : (s.contract l).state = .active)
    (supply : (s.contract l).role = .supply) (noGrant : (s.contract l).grant = none) :
    let t := ((u.record l .lineError).expire l x true).endEvent l
    (t.contract l).agreement = some { a with current := r.level } ∧ (t.contract l).target = none ∧
      (t.contract l).lastOutcome = some .recallForced ∧ (t.contract l).state = .active ∧
      t.budget.supplyCommit.get l = a.voltage * r.level / 200 ∧ t.strikes.get l = min 255 (s.strikes.get l + 1) ∧
      (s.TargetMet l r.level →
        (t.contract l).recallOut = none ∧ (t.contract l).exchange = none ∧ (t.engine l).txQueue = fs) ∧
      (s.OnlyRecall l → TargetRecalled l s t ((s.engine l).canSend && decide (fs.length < 4)) fs
        (s.engine l).nextId r.level) := by
  have record := failed.recorded
  have here : (u.record l .lineError).LineSettled l := (failed.still.onContract l _).settled settled
  obtain ⟨kept, target, met, recalled, outcome, isActive, -, commit, fault, -⟩ :=
    (AtArrival.same (l := l) (s := u.record l .lineError)).forced (r := r) (a := a) (by rw [record]; exact out)
      (by rw [record]; exact agreement) (by rw [record]; exact active) (by rw [record]; exact supply)
      (by rw [record]; exact noGrant) here
  have finished := LineEngine.finishHead_of (keeps.queue.trans queue)
  have engine : (u.record l .lineError).engine l = (g (s.engine l)).finishHead := failed.engine
  have txQueue : ((u.record l .lineError).engine l).txQueue = fs := by rw [engine, finished]
  have nextId : ((u.record l .lineError).engine l).nextId = (s.engine l).nextId := by
    rw [engine, finished]
    exact keeps.nextId
  have accepts : ((u.record l .lineError).engine l).accepts = ((s.engine l).canSend && decide (fs.length < 4)) := by
    have same : (g (s.engine l)).finishHead.canSend = (s.engine l).canSend := by
      rw [finished]
      exact keeps.canSend
    rw [engine, LineEngine.accepts_eq, same, finished]
  rw [show (u.record l .lineError).expire l x true = (u.record l .lineError).forceRecall l by simp [State.expire, isRecall]]
  refine ⟨kept, target, outcome, isActive, commit, ?_, fun satisfied => ?_, fun only => ?_⟩
  · exact fault.strikes.trans failed.strikes
  · obtain ⟨ended, exchange, sameQueue⟩ := met (by rw [State.TargetMet, record]; exact satisfied)
    refine ⟨ended, exchange.trans ?_, sameQueue.trans txQueue⟩
    refine (Contract.lowered_free r.level).1 fun y same => ?_
    rw [record] at same
    cases outstanding.symm.trans same
    exact isRecall
  · have recalls := recalled (by rw [State.OnlyRecall, record]; exact only)
    rw [txQueue, nextId, accepts] at recalls
    intro p pending lower
    have now : (u.record l .lineError).now = s.now := failed.now
    have recalls' := recalls p (by rw [record]; exact pending) lower
    rw [record, now] at recalls'
    exact recalls'

end Own

/-! ### The fourth strike (R57, R152) -/

section Fourth
variable {s : State} {l : Line} {cause : Cause} {kind : Option FrameKind} {g : LineEngine → LineEngine}

/-- R57, R152: a LINK fault that is the fourth strike, after a change of the line engine. -/
theorem State.fourth_strike (link : cause.cls = .link) (fourth : s.strikes.get l + 1 = 4) (g : LineEngine → LineEngine)
    (kind : Option FrameKind) : (s.onEngine l g).takeFaultOf l cause kind s.now =
      (((s.onEngine l g).capture l cause kind s.now).struck l).enterFaulted l := State.takeFaultOf_fourth link fourth

/-- R57: the record that FAULTED entry leaves has no request and no slow frame. -/
theorem State.fourth_strike_contract (link : cause.cls = .link) (fourth : s.strikes.get l + 1 = 4)
    (attached : (s.contract l).state ≠ .detached) (sane : (s.contract l).state ≠ .faulted) :
    (((s.onEngine l g).takeFaultOf l cause kind s.now).contract l).exchange = none ∧
      (((s.onEngine l g).takeFaultOf l cause kind s.now).contract l).timers.slowFrame = none := by
  rw [State.fourth_strike link fourth, State.enterFaulted_contract_self (by simpa using attached) (by simpa using sane)]
  exact ⟨rfl, rfl⟩

theorem State.fourth_strike_engine (link : cause.cls = .link) (fourth : s.strikes.get l + 1 = 4)
    (attached : (s.contract l).state ≠ .detached) (sane : (s.contract l).state ≠ .faulted)
    (accepts : (g (s.engine l)).accepts = true) : ((s.onEngine l g).takeFaultOf l cause kind s.now).engine l =
      (g (s.engine l)).hand (Frame.mk (s.contract l).tagCounter (.ending .fault)).chars := by
  have sends : (g (s.engine l)).canSend = true := by
    rw [LineEngine.accepts_eq, Bool.and_eq_true] at accepts
    exact accepts.1
  rw [State.fourth_strike link fourth, State.enterFaulted_engine_self (by simpa using attached) (by simpa using sane)]
  simp [sends]

/-- R57, R152: the fourth strike closes the contract in FAULTED; what follows it in the event changes the line engine alone. -/
theorem State.fourth_strike_closes (link : cause.cls = .link) (fourth : s.strikes.get l + 1 = 4)
    (attached : (s.contract l).state ≠ .detached) (sane : (s.contract l).state ≠ .faulted) (h : LineEngine → LineEngine) :
    ClosedTo l s ((((s.onEngine l g).takeFaultOf l cause kind s.now).onEngine l h).endEvent l) .faulted (s.contract l).role
        (s.contract l).lastOutcome ∧
      FaultTaken l s ((((s.onEngine l g).takeFaultOf l cause kind s.now).onEngine l h).endEvent l) cause kind := by
  have taken := (((s.onEngine l g).takeFaultOf_taken l cause kind s.now).of_before (s := s) rfl rfl rfl)
  have kept : FaultTaken l s (((s.onEngine l g).takeFaultOf l cause kind s.now).onEngine l h) cause kind :=
    taken.later rfl rfl fun _ told => told
  refine ⟨?_, kept.endEvent l⟩
  rw [State.fourth_strike link fourth]
  have closed := State.enterFaulted_closedTo (s := s) (u := ((s.onEngine l g).capture l cause kind s.now).struck l) (l := l)
    (by simpa using attached) (by simpa using sane) (by simp) (by simp)
  simp only [State.struck_line, State.capture_line, State.onEngine_contract] at closed
  exact ⟨closed.state, closed.role, closed.outcome, closed.requests, closed.record, closed.budget, closed.verdict, closed.path,
    closed.told⟩

end Fourth

end Sys2Proof.Machine
end

section
/-! SUPPORT. A line whose engine cannot send hands nothing (R9, R16); and the proof for the failed sends (R13 to R16). -/

namespace Sys2Proof.Machine

/-! ### What a line that cannot send leaves of its queue (R16) -/

section Silent
variable {s t u : State} {l : Line}

/-- R16: a change that hands frames at most leaves the queue of an engine that cannot send; and the line stays attached. -/
structure Silent (l : Line) (s t : State) : Prop where
  engine : (t.engine l).SameButQueue (s.engine l)
  queue : (s.engine l).canSend = false → (t.engine l).txQueue = (s.engine l).txQueue
  attached : (s.contract l).state ≠ .detached → (t.contract l).state ≠ .detached

theorem LineEngine.SameButQueue.canSend {e d : LineEngine} (same : e.SameButQueue d) : e.canSend = d.canSend := by
  obtain ⟨-, -, -, -, -, present, muted, wdCount, -⟩ := same.fields
  simp only [LineEngine.canSend, present, muted, wdCount]

theorem Silent.refl (l : Line) (s : State) : Silent l s s := ⟨rfl, fun _ => rfl, id⟩

theorem Silent.trans (h : Silent l s t) (k : Silent l t u) : Silent l s u :=
  ⟨Eq.trans k.engine h.engine, fun mute => (k.queue (h.engine.canSend.trans mute)).trans (h.queue mute), k.attached ∘ h.attached⟩

/-- What keeps the engine of the line and the state of its contract. -/
theorem Silent.of_line (engine : t.engine l = s.engine l) (state : (t.contract l).state = (s.contract l).state) :
    Silent l s t := ⟨by rw [engine]; rfl, fun _ => by rw [engine], fun attached => by rwa [state]⟩

theorem LineEngine.hand_silent {e : LineEngine} (mute : e.canSend = false) (chars : List Byte) :
    (e.hand chars).txQueue = e.txQueue := by
  simp [LineEngine.hand, LineEngine.accepts_eq, mute]

theorem Silent.hands (s : State) (l : Line) (chars : List Byte) : Silent l s (s.onEngine l fun e => e.hand chars) :=
  ⟨by rw [State.onEngine_engine_self]; exact LineEngine.hand_same ..,
    fun mute => by rw [State.onEngine_engine_self]; exact LineEngine.hand_silent mute _, id⟩

theorem Silent.onContract {f : Contract → Contract} (state : (f (s.contract l)).state = (s.contract l).state) :
    Silent l s (s.onContract l f) := .of_line rfl (by rwa [State.onContract_contract_self])

theorem Silent.handNew (s : State) (l : Line) (b : FrameBody) : Silent l s (s.handNew l b) :=
  Silent.trans (t := s.hand l ⟨(s.contract l).tagCounter, b⟩) (.hands s l _)
    (.onContract (f := fun c => { c with tagCounter := c.tagCounter + 1 }) rfl)

theorem Contract.noteReport_state (c : Contract) (k : ReqKind) (now : Time) : (c.noteReport k now).state = c.state :=
  (Contract.noteReport_sameButSlot c k now).fields.1

theorem Silent.sendRequest (s : State) (l : Line) (r : Request) : Silent l s (s.sendRequest l r) := by
  have handed := (Silent.hands s l r.chars).trans (Silent.onContract (l := l) (f := fun c =>
    { c with exchange := some ⟨r.kind, r.tag, r.chars, (s.engine l).nextId, r.expiries, none, none⟩ }) rfl)
  unfold State.sendRequest
  dsimp only
  split
  · exact handed
  · exact handed.trans (.of_line rfl (State.startTimer_slot ..).record.fields.1)

theorem Silent.handWaiting (s : State) (l : Line) : Silent l s (s.handWaiting l) := by
  unfold State.handWaiting
  split
  · exact (Silent.onContract rfl).trans (.sendRequest ..)
  · exact .refl l s

theorem Silent.originate (s : State) (l : Line) (r : Request) : Silent l s (s.originate l r) := by
  refine (Silent.handWaiting s l).trans ?_
  unfold State.originate
  dsimp only
  split
  · exact .sendRequest ..
  · refine .of_line ?_ (State.wait_slot ..).record.fields.1
    unfold State.wait
    split <;> rfl

theorem Silent.takeTarget (s : State) (l : Line) : Silent l s (s.takeTarget l) := by
  unfold State.takeTarget
  dsimp only
  split
  · exact .refl l s
  · next target _ =>
    have dropped : Silent l s (s.onContract l fun c => { c with target := none }) := .onContract rfl
    split
    · split
      · refine dropped.trans ((Silent.onContract ?_).trans ((Silent.onContract ?_).trans (.originate ..)))
        all_goals rfl
      · exact dropped
    · exact dropped

/-- R90: a menu is handed, or held. -/
theorem Silent.rebuildMenu (s : State) (l m : Line) : Silent l s (s.rebuildMenu m) := by
  by_cases same : m = l
  · subst same
    unfold State.rebuildMenu
    dsimp only
    split
    · exact .onContract rfl
    · exact (Silent.handNew ..).trans (.onContract rfl)
  · obtain ⟨contract, engine⟩ : (s.rebuildMenu m).contract l = s.contract l ∧ (s.rebuildMenu m).engine l = s.engine l := by
      unfold State.rebuildMenu
      dsimp only
      split <;> simp [State.onContract_contract, State.onEngine_engine, Ne.symm same, State.handNew, State.hand, State.stepTag]
    exact .of_line engine (by rw [contract])

theorem Silent.passRise (s : State) (l : Line) (n : Nat) : Silent l s (s.passRise n) := by
  have folds : ∀ (ls : List Line) (t : State),
      Silent l t (ls.foldl (fun u m => if (u.contract m).awaitsRise then u.rebuildMenu m else u) t) := by
    intro ls
    induction ls with
    | nil => exact Silent.refl l
    | cons m ms ih =>
      intro t
      refine Silent.trans ?_ (ih _)
      dsimp only
      split
      · exact .rebuildMenu ..
      · exact .refl ..
  unfold State.passRise
  split
  · exact folds ..
  · exact .refl l s

theorem Silent.claimSupply (s : State) (l : Line) : Silent l s (s.claimSupply l) :=
  (Silent.of_line (by simp) (by simp)).trans (.passRise _ l _)

theorem Silent.lowerSupply (s : State) (l : Line) (limit : Nat) : Silent l s (s.lowerSupply l limit) := by
  rw [State.lowerSupply_eq]
  exact (Silent.of_line (by simp) (by simp [Contract.lowered])).trans (.claimSupply _ l)

theorem Silent.forceRecall (s : State) (l : Line) : Silent l s (s.forceRecall l) := by
  cases out : (s.contract l).recallOut with
  | none => simpa [State.forceRecall, out] using Silent.refl l s
  | some r =>
    rw [State.forceRecall_of out]
    refine ((Silent.lowerSupply s l r.level).trans ?_).trans (.takeTarget _ l)
    exact .of_line (by simp [State.recallForced, State.takeFault_recallIgnored])
      (by simp [State.recallForced, State.takeFault_recallIgnored])

theorem Silent.enterFaulted (s : State) (l : Line) : Silent l s (s.enterFaulted l) := by
  refine ⟨s.enterFaulted_sameButQueue l, fun mute => ?_, fun attached => by simp [State.enterFaulted_faulted attached]⟩
  by_cases state : (s.contract l).state = .detached ∨ (s.contract l).state = .faulted
  · rw [State.enterFaulted_of_uncontracted state]
  · obtain ⟨attached, sane⟩ := not_or.1 state
    rw [State.enterFaulted_engine_self attached sane, if_neg (by simp [mute])]

/-- R151, R152: the taking of a LINK fault. -/
theorem Silent.takeFaultOf {cause : Cause} (link : cause.cls = .link) (s : State) (l : Line) (kind : Option FrameKind) (stamp : Time) :
    Silent l s (s.takeFaultOf l cause kind stamp) := by
  have struck : Silent l s ((s.capture l cause kind stamp).struck l) := .of_line (by simp) (by simp)
  by_cases fourth : s.strikes.get l + 1 = 4
  · rw [State.takeFaultOf_fourth link fourth]
    exact struck.trans (.enterFaulted ..)
  · rwa [State.takeFaultOf_link link fourth]

theorem Silent.giveUpAnnounce (s : State) (l : Line) (base : Time) (failed : Bool) : Silent l s (s.giveUpAnnounce l base failed) := by
  refine ⟨rfl, fun _ => rfl, fun attached => ?_⟩
  rw [State.giveUpAnnounce, State.onContract_contract_self]
  split
  · split
    · exact attached
    · split <;> simp [Contract.enter, Contract.block]
  · split <;> exact attached

theorem Silent.expire (s : State) (l : Line) (x : Exchange) (failed : Bool) : Silent l s (s.expire l x failed) := by
  have resent : Silent l s (if x.expiries = 0 then s.sendRequest l ⟨x.kind, x.tag, x.chars, 1⟩
      else s.closeToGreeting l (if failed then none else some .noAnswer)) := by
    split
    · exact .sendRequest ..
    · exact ⟨by rw [State.closeToGreeting_engine_self]; rfl, fun _ => by rw [State.closeToGreeting_engine_self],
        fun _ => by simp [Contract.greet]⟩
  unfold State.expire
  split
  case h_1 => exact (Silent.onContract rfl).trans (.giveUpAnnounce ..)
  case h_2 => exact resent
  case h_3 => exact resent
  case h_4 => exact .refl l s
  case h_5 => exact .forceRecall s l

theorem Silent.slowReport (s : State) (l : Line) (id : Nat) : Silent l s (s.slowReport l id) := by
  unfold State.slowReport
  split
  · exact .onContract rfl
  · exact .refl l s

theorem Silent.reportFailed (s : State) (l : Line) (id : Nat) : Silent l s (s.reportFailed l id) := by
  unfold State.reportFailed
  split
  · split
    · exact (Silent.onContract rfl).trans (.expire ..)
    · exact .slowReport s l id
  · exact .slowReport s l id

end Silent

/-! ### The failed sends (R13 to R16) -/

section Failed
variable {l : Line} {s : State} {f : TxFrame} {fs : List TxFrame} {cause : Cause} {c : Instr}

/-- R13 to R15: the row of a failed send that abandons the head frame, short of a third watchdog expiry. -/
structure FailedSend (l : Line) (s : State) (f : TxFrame) (cause : Cause) (c : Instr) (g : LineEngine → LineEngine) : Prop where
  line : c.line? = some l
  link : cause.cls = .link
  keeps : KeepsSending g (s.engine l)
  runs : exec c s = .next (((s.failsWith l g cause f).reportFailed l f.id).endEvent l)

theorem FailedSend.frame {g : LineEngine → LineEngine} (row : FailedSend l s f cause c g) :
    LineFrame l s (((s.failsWith l g cause f).reportFailed l f.id).endEvent l) :=
  linesDoNotInterfere c l s _ row.line row.runs

theorem failedSend_repeatLimit (queue : (s.engine l).txQueue = f :: fs) (sending : (s.engine l).txSide = .sending)
    (fourth : (s.engine l).txSends = 4) : FailedSend l s f .repeatLimit (.repeatLimit l) fun e =>
      { e with health := { e.health with repeatLimit := true } } :=
  ⟨rfl, rfl, ⟨⟨rfl, rfl⟩, rfl⟩, execRepeatLimit_of queue sending fourth⟩

theorem failedSend_loopFailure (queue : (s.engine l).txQueue = f :: fs) (sending : (s.engine l).txSide = .sending)
    (second : f.loopFailures ≠ 0) : FailedSend l s f .loop (.loopFailure l) fun e =>
      { e.clearRx .discarding with health := { e.health with loopFail := true } } :=
  ⟨rfl, rfl, ⟨⟨rfl, rfl⟩, rfl⟩, execLoopFailure_of queue sending second⟩

/-- R15: the count below 3 leaves the engine able to send. -/
theorem failedSend_txTimeout {n : Nat} (queue : (s.engine l).txQueue = f :: fs) (sending : (s.engine l).txSide = .sending)
    (runs : (s.engine l).watchdog = some n) (expired : 40 ≤ n) (below : (s.engine l).wdCount + 1 < 3) :
    FailedSend l s f .txTimeout (.txTimeout l) fun e =>
      { e with wdCount := e.wdCount + 1, health := { e.health with txTimeout := true } } := by
  have row := execTxTimeout_of queue sending runs expired
  rw [if_neg (by omega)] at row
  refine ⟨rfl, rfl, ⟨⟨rfl, rfl⟩, ?_⟩, row⟩
  have before : (s.engine l).wdCount < 3 := by omega
  simp [LineEngine.canSend, below, before]

/-- The rows of O25's hypotheses. -/
theorem failedSend_of (queue : (s.engine l).txQueue = f :: fs) (sending : (s.engine l).txSide = .sending)
    (given : (c = .repeatLimit l ∧ cause = .repeatLimit ∧ (s.engine l).txSends = 4) ∨
      (c = .loopFailure l ∧ cause = .loop ∧ f.loopFailures ≠ 0) ∨
      (c = .txTimeout l ∧ cause = .txTimeout ∧ (s.engine l).wdCount + 1 < 3 ∧
        ∃ n, (s.engine l).watchdog = some n ∧ 40 ≤ n)) : ∃ g, FailedSend l s f cause c g := by
  obtain ⟨rfl, rfl, fourth⟩ | ⟨rfl, rfl, second⟩ | ⟨rfl, rfl, below, n, runs, expired⟩ := given
  · exact ⟨_, failedSend_repeatLimit queue sending fourth⟩
  · exact ⟨_, failedSend_loopFailure queue sending second⟩
  · exact ⟨_, failedSend_txTimeout queue sending runs expired below⟩

end Failed

section Fourth
variable {l : Line} {s : State} {f : TxFrame} {fs : List TxFrame} {cause : Cause}

/-- R152: after the fourth strike the report of the abandoned frame concerns no request. -/
theorem State.failsWith_reported_fourth {g : LineEngine → LineEngine} (link : cause.cls = .link)
    (fourth : s.strikes.get l + 1 = 4) (attached : (s.contract l).state ≠ .detached) (sane : (s.contract l).state ≠ .faulted) :
    (s.failsWith l g cause f).reportFailed l f.id = s.failsWith l g cause f := by
  obtain ⟨exchange, slowFrame⟩ := State.fourth_strike_contract (g := g) (kind := kindOfChars f.chars) link fourth attached sane
  have contract : (s.failsWith l g cause f).contract l =
      ((s.onEngine l g).takeFaultOf l cause (kindOfChars f.chars) s.now).contract l := rfl
  rw [State.reportFailed_of_other (by simp [contract, exchange]), State.slowReport_of_other (by simp [contract, slowFrame])]

/-- R9, R57: the ENDING joins the queue that the abandoned frame leaves. -/
theorem State.failsWith_fourth_queue {g : LineEngine → LineEngine} (link : cause.cls = .link)
    (fourth : s.strikes.get l + 1 = 4) (attached : (s.contract l).state ≠ .detached) (sane : (s.contract l).state ≠ .faulted)
    (keeps : KeepsSending g (s.engine l)) (queue : (s.engine l).txQueue = f :: fs) (accepts : (s.engine l).accepts = true) :
    ((s.failsWith l g cause f).engine l).txQueue =
      fs ++ [⟨(s.engine l).nextId, (Frame.mk (s.contract l).tagCounter (.ending .fault)).chars, 0⟩] := by
  have taken := State.fourth_strike_engine (g := g) (kind := kindOfChars f.chars) link fourth attached sane
    (keeps.accepts.trans accepts)
  rw [State.failsWith, State.onEngine_engine_self, taken, LineEngine.hand_of_accepts (keeps.accepts.trans accepts)]
  simp only [LineEngine.finishHead, keeps.queue, queue, keeps.nextId]
  rfl

/-- R152: the fourth strike by a failed send. -/
theorem FailedSend.fourth {c : Instr} {g : LineEngine → LineEngine} (row : FailedSend l s f cause c g)
    (queue : (s.engine l).txQueue = f :: fs) (fourth : s.strikes.get l + 1 = 4) (attached : (s.contract l).state ≠ .detached)
    (sane : (s.contract l).state ≠ .faulted) :
    ∃ t, exec c s = .next t ∧ ClosedTo l s t .faulted (s.contract l).role (s.contract l).lastOutcome ∧
      FaultTaken l s t cause (kindOfChars f.chars) ∧
      ((s.engine l).accepts = true → (t.engine l).txQueue =
        fs ++ [⟨(s.engine l).nextId, (Frame.mk (s.contract l).tagCounter (.ending .fault)).chars, 0⟩]) ∧
      LineFrame l s t := by
  have runs := row.runs
  have frame := row.frame
  rw [State.failsWith_reported_fourth row.link fourth attached sane] at runs frame
  obtain ⟨closed, taken⟩ := State.fourth_strike_closes (g := g) (kind := kindOfChars f.chars) row.link fourth attached sane
    LineEngine.finishHead
  refine ⟨_, runs, closed, taken, fun accepts => ?_, frame⟩
  rw [(State.endEvent_engines _ _).2]
  exact State.failsWith_fourth_queue row.link fourth attached sane row.keeps queue accepts

/-- R14, R152: the fourth strike by the first loop failure of a frame, which is sent once more. -/
theorem firstLoopFailure_fourth (queue : (s.engine l).txQueue = f :: fs) (sending : (s.engine l).txSide = .sending)
    (first : f.loopFailures = 0) (fourth : s.strikes.get l + 1 = 4) (attached : (s.contract l).state ≠ .detached)
    (sane : (s.contract l).state ≠ .faulted) :
    ∃ t, exec (.loopFailure l) s = .next t ∧ ClosedTo l s t .faulted (s.contract l).role (s.contract l).lastOutcome ∧
      FaultTaken l s t .loop (kindOfChars f.chars) ∧
      ((s.engine l).accepts = true → (t.engine l).txQueue = { f with loopFailures := 1 } :: fs ++
        [⟨(s.engine l).nextId, (Frame.mk (s.contract l).tagCounter (.ending .fault)).chars, 0⟩]) ∧
      LineFrame l s t := by
  have row := execLoopFailure_of_first queue sending first
  obtain ⟨closed, taken⟩ := State.fourth_strike_closes (cause := .loop) (g := LineEngine.retries f)
    (kind := kindOfChars f.chars) rfl fourth attached sane fun e => e
  rw [State.onEngine_id] at closed taken
  refine ⟨_, row, closed, taken, fun accepts => ?_, linesDoNotInterfere (.loopFailure l) l s _ rfl row⟩
  have retries : ((s.engine l).retries f).accepts = true := by
    simpa [LineEngine.accepts, LineEngine.retries, LineEngine.clearRx, queue] using accepts
  rw [(State.endEvent_engines _ _).2, State.fourth_strike_engine (cause := .loop) rfl fourth attached sane retries,
    LineEngine.hand_of_accepts retries]
  simp [LineEngine.retries, LineEngine.clearRx, queue]

end Fourth

/-- R16: the third watchdog expiry leaves the line in FAULTED, its queue no longer than the other frames. -/
theorem thirdTxTimeout_leaves {l : Line} {s : State} {f : TxFrame} {fs : List TxFrame} {n : Nat}
    (queue : (s.engine l).txQueue = f :: fs) (sending : (s.engine l).txSide = .sending)
    (runs : (s.engine l).watchdog = some n) (expired : 40 ≤ n) (third : (s.engine l).wdCount = 2)
    (attached : (s.contract l).state ≠ .detached) :
    ∃ t, exec (.txTimeout l) s = .next t ∧ (t.engine l).wdCount = 3 ∧ (t.contract l).state = .faulted ∧
      (t.channel l).command = .opened ∧ (t.engine l).txQueue.length ≤ fs.length := by
  have row := execTxTimeout_of queue sending runs expired
  rw [if_pos (by omega)] at row
  have taken := Silent.takeFaultOf (cause := .txTimeout) rfl (s.onEngine l fun e =>
    { e with wdCount := e.wdCount + 1, health := { e.health with txTimeout := true } }) l (kindOfChars f.chars) s.now
  have mute : ((s.onEngine l fun e =>
      { e with wdCount := e.wdCount + 1, health := { e.health with txTimeout := true } }).engine l).canSend = false := by
    simp [LineEngine.canSend, third]
  have mutedAfter := taken.engine.canSend.trans mute
  have kept := (taken.queue mute).trans ((congrArg _ (State.onEngine_engine_self ..)).trans queue)
  have count : (((s.onEngine l fun e =>
      { e with wdCount := e.wdCount + 1, health := { e.health with txTimeout := true } }).takeFaultOf l .txTimeout
        (kindOfChars f.chars) s.now).engine l).wdCount = 3 := by
    obtain ⟨-, -, -, -, -, -, -, wdCount, -⟩ := taken.engine.fields
    rw [wdCount, State.onEngine_engine_self, third]
  have after := taken.attached (by simpa using attached)
  rw [State.failsWith] at row
  generalize (s.onEngine l _).takeFaultOf l .txTimeout (kindOfChars f.chars) s.now = u at *
  have ends := (Silent.reportFailed (u.onEngine l LineEngine.finishHead) l f.id).trans (.enterFaulted _ l)
  have finished := LineEngine.finishHead_of kept
  have faulted : ((((u.onEngine l LineEngine.finishHead).reportFailed l f.id).enterFaulted l).contract l).state = .faulted :=
    State.enterFaulted_faulted ((Silent.reportFailed ..).attached (by simpa using after))
  refine ⟨_, row, ?_, ?_, ?_, ?_⟩
  · obtain ⟨-, -, -, -, -, -, -, wdCount, -⟩ := ends.engine.fields
    rw [(State.endEvent_engines _ _).2, wdCount, State.onEngine_engine_self, finished]
    exact count
  · rw [State.endEvent_contract_self]
    exact faulted
  · exact (State.endEvent_opened (Contract.path_of_uncontracted (by
      rw [State.endEvent_contract_self]
      simp [CState.contracted, faulted]))).1
  · rw [(State.endEvent_engines _ _).2, ends.queue (by
      rw [State.onEngine_engine_self, finished]
      exact mutedAfter), State.onEngine_engine_self, finished]

/-- Settles O25: each row is the fault's taking and the report of the abandoned frame, taken on in the case of the statement. -/
theorem failedSendsAreLinkFaults : Obligations.FailedSendsAreLinkFaults := by
  refine ⟨fun l s f fs queue sending settled below => ⟨firstLoopFailure_leaves l s f fs queue sending settled below,
      fun other => ?_⟩,
    fun l s f fs x cause c queue sending settled below outstanding own given => ?_,
    fun l s f fs kept cause c queue sending settled fourth attached sane given => ?_,
    fun l s f fs n queue sending runs expired third settled attached =>
      thirdTxTimeout_leaves queue sending runs expired third attached⟩
  · intro gone
    refine ⟨fun fourth => ?_, fun second => ?_, fun n runs expired notThird => ?_⟩
    · have row := failedSend_repeatLimit queue sending fourth
      obtain ⟨⟨txQueue, txSide, watchdog, quick, slow, channel, budget⟩, engine, taken⟩ :=
        (State.failsWith_below row.link below _ f).gone settled row.keeps.toKeepsQueue queue other
      exact ⟨_, row.runs, ⟨txQueue, txSide, watchdog, quick, slow, channel, budget, row.frame⟩, by rw [engine]; rfl, taken⟩
    · have row := failedSend_loopFailure queue sending second
      obtain ⟨⟨txQueue, txSide, watchdog, quick, slow, channel, budget⟩, engine, taken⟩ :=
        (State.failsWith_below row.link below _ f).gone settled row.keeps.toKeepsQueue queue other
      exact ⟨_, row.runs, ⟨txQueue, txSide, watchdog, quick, slow, channel, budget, row.frame⟩, by rw [engine]; rfl,
        by rw [engine]; rfl, taken⟩
    · have row := execTxTimeout_of queue sending runs expired
      rw [if_neg notThird] at row
      have keeps : KeepsQueue (fun e : LineEngine =>
        { e with wdCount := e.wdCount + 1, health := { e.health with txTimeout := true } }) (s.engine l) := ⟨rfl, rfl⟩
      obtain ⟨⟨txQueue, txSide, watchdog, quick, slow, channel, budget⟩, engine, taken⟩ :=
        (State.failsWith_below (cause := .txTimeout) rfl below _ f).gone settled keeps queue other
      exact ⟨_, row, ⟨txQueue, txSide, watchdog, quick, slow, channel, budget,
        linesDoNotInterfere (.txTimeout l) l s _ rfl row⟩, by rw [engine]; rfl, by rw [engine]; rfl, taken⟩
  · obtain ⟨g, row⟩ := failedSend_of queue sending given
    have failed := State.failsWith_below row.link below g f
    have runs := row.runs
    have frame := row.frame
    rw [failed.report outstanding own] at runs frame
    generalize s.failsWith l g cause f = u at *
    have keepsQueue := row.keeps.toKeepsQueue
    have kept := failed.queue keepsQueue queue
    have taken := failed.taken.record .lineError
    refine ⟨fun isRequest first sends room => ?_, fun isRequest second => ?_, fun isGranted => ?_,
      fun announce greeting few => ?_, fun announce greeting third => ?_, fun announce baseline unmanaged => ?_,
      fun r a isRecall out agreement active supply noGrant => ?_⟩
    · obtain ⟨handed, contract, channel, taken⟩ := failed.resends row.keeps queue settled isRequest first sends room
      exact ⟨_, runs, handed, contract, channel, taken, frame⟩
    · obtain ⟨closed, delay, txQueue, taken⟩ := failed.closes keepsQueue queue isRequest second
      exact ⟨_, runs, closed, delay, txQueue, taken, frame⟩
    · rw [failed.granted settled isGranted] at runs frame
      exact ⟨_, runs, failed.recorded, kept, taken, frame⟩
    · rw [(failed.announces settled announce).1 greeting few] at runs frame
      exact ⟨_, runs, by rw [State.onContract_contract_self, failed.contract], kept,
        failed.taken.later rfl rfl fun _ told => told, frame⟩
    · obtain ⟨outcome, exchange, txQueue, taken, draws, blocks⟩ :=
        failed.givesUp keepsQueue queue settled announce greeting third
      exact ⟨_, runs, outcome, exchange, txQueue, taken, frame, draws, blocks⟩
    · rw [(failed.announces settled announce).2 baseline unmanaged] at runs frame
      exact ⟨_, runs, by rw [State.onContract_contract_self, failed.contract], kept,
        failed.taken.later rfl rfl fun _ told => told, frame⟩
    · obtain ⟨kept, target, outcome, isActive, commit, strikes, met, only⟩ :=
        failed.forces row.keeps queue settled outstanding isRecall out agreement active supply noGrant
      exact ⟨_, runs, kept, target, outcome, isActive, commit, strikes, frame, met, only⟩
  · obtain ⟨rfl, rfl, rfl, sends⟩ | ⟨rfl, rfl, rfl, second⟩ | ⟨rfl, rfl, rfl, first⟩ | ⟨rfl, rfl, rfl, third, n, runs, expired⟩ :=
      given
    · exact (failedSend_repeatLimit queue sending sends).fourth queue fourth attached sane
    · exact (failedSend_loopFailure queue sending second).fourth queue fourth attached sane
    · exact firstLoopFailure_fourth queue sending first fourth attached sane
    · exact (failedSend_txTimeout queue sending runs expired third).fourth queue fourth attached sane

end Sys2Proof.Machine
end

section
/-! SUPPORT. Proofs for the far answers and queries that change no agreement (R29, R33, R35, R38, R39, R78, R79, R81, R97, R99). -/

namespace Sys2Proof.Machine

/-! ### A frame taken without an effect on the path -/

section Taken
variable {s : State} {l : Line} {f : Frame} {kind : FrameKind}

/-- R5, R45: an arriving frame whose taking leaves the path of a settled line. -/
theorem State.deliver_of_still {act : Frame → List Byte → State → State} {t : State} (settled : s.LineSettled l)
    (arrives : s.Arrives l f) (same : f.body.kind = kind) (acts : act f (s.engine l).rxChars.dropLast (s.arrived l) = t)
    (still : Still l (s.arrived l) t) : s.deliver l kind act = t := by
  rw [State.deliver_of_arrives arrives same, acts]
  exact State.endEvent_of_still ((Still.arrived s l).trans still) settled

/-- R33, R35: an arriving frame that is stray. -/
theorem State.deliver_of_stray {act : Frame → List Byte → State → State} (settled : s.LineSettled l)
    (arrives : s.Arrives l f) (same : f.body.kind = kind)
    (strays : act f (s.engine l).rxChars.dropLast (s.arrived l) = (s.arrived l).stray l) :
    s.deliver l kind act = (s.arrived l).onEngine l fun e => { e with health := { e.health with strayAnswer := true } } :=
  State.deliver_of_still settled arrives same strays ((Still.refl ..).onEngine ..)

theorem State.arrived_fits (s : State) (l : Line) (k : ReqKind) (tag : Tag) :
    ((s.arrived l).contract l).fits k tag = (s.contract l).fits k tag := by
  simp [Contract.fits]

theorem State.arrived_stanceOf (s : State) (l : Line) (fault : Bool) : (s.arrived l).stanceOf l fault = s.stanceOf l fault := by
  simp only [State.stanceOf, State.arrived_contract_self]
  rfl

/-- R9: a frame handed as another is taken. -/
theorem Handed.of_arrived {t : State} {g : Frame} (engine : t.engine l = ((s.arrived l).engine l).hand g.chars)
    (room : (s.engine l).accepts = true) : Handed l s t g := by
  simpa [Handed] using Handed.of_engine (s := s.arrived l) engine (by simpa using room)

end Taken

/-! ### The takers, by their cases -/

section Takers
variable {s : State} {l : Line} {tag : Tag} {raw : List Byte}

theorem takeReady_of_fits {f : Frame} (fits : (s.contract l).fits .claimGranted f.tag = true) : takeReady l f raw s =
    s.onContract l fun c => { c with exchange := none, timers := { c.timers with readyWait := none, voltageCheck := some s.now } } := by
  rw [takeReady, if_pos fits, State.closeExchange, State.onContract_onContract]

theorem takeReady_of_stray {f : Frame} (stray : (s.contract l).fits .claimGranted f.tag = false) :
    takeReady l f raw s = s.stray l := if_neg (by simp [stray])

theorem takeKeep_of_active {f : Frame} {a : Agreement} (fits : (s.contract l).fits .renew f.tag = true)
    (active : (s.contract l).state = .active) (agreement : (s.contract l).agreement = some a) : takeKeep l f raw s =
    s.onContract l fun c => { c with exchange := none, timers := { c.timers with renewal := some (s.after (500 * a.lease)) } } := by
  rw [takeKeep, if_pos fits, State.closeExchange, State.onContract_onContract]
  exact State.onContract_congr (by simp [active, agreement, State.after])

theorem takeKeep_of_other {f : Frame} (fits : (s.contract l).fits .renew f.tag = true) (other : (s.contract l).state ≠ .active) :
    takeKeep l f raw s = s.onContract l fun c => { c with exchange := none } := by
  rw [takeKeep, if_pos fits, State.closeExchange, State.onContract_onContract]
  exact State.onContract_congr (by simp [other])

theorem takeKeep_of_stray {f : Frame} (stray : (s.contract l).fits .renew f.tag = false) : takeKeep l f raw s = s.stray l :=
  if_neg (by simp [stray])

theorem takeRenew_of_active {f : Frame} {a : Agreement} (active : (s.contract l).state = .active)
    (supply : (s.contract l).role = .supply) (agreement : (s.contract l).agreement = some a) : takeRenew l f raw s =
    (s.hand l ⟨f.tag, .keep (s.stanceOf l false)⟩).onContract l fun c =>
      { c with leaseDeadline := some (s.after (1000 * a.lease)) } := by
  unfold takeRenew
  rw [if_pos ⟨active, supply⟩]
  exact State.onContract_congr (by simp [State.hand, agreement])

theorem takeRenew_of_powering {f : Frame} (powering : (s.contract l).state = .powering) : takeRenew l f raw s =
    s.hand l ⟨f.tag, .keep (s.stanceOf l false)⟩ := by
  unfold takeRenew
  rw [if_neg (by simp [powering]), if_pos powering]

theorem takeRenew_of_stray {f : Frame}
    (stray : ¬(((s.contract l).state = .active ∧ (s.contract l).role = .supply) ∨ (s.contract l).state = .powering)) :
    takeRenew l f raw s = s.stray l := by
  obtain ⟨idle, cold⟩ := not_or.1 stray
  unfold takeRenew
  rw [if_neg idle, if_neg cold]

theorem takeGrant_of_stray {f : Frame} (stray : (s.contract l).fits .claim f.tag = false) : takeGrant l f raw s = s.stray l := by
  unfold takeGrant
  split
  · exact if_neg (by simp [stray])
  · rfl

theorem takeDeny_of_stray {f : Frame} (stray : (s.contract l).fits .claim f.tag = false) : takeDeny l f raw s = s.stray l :=
  if_neg (by simp [stray])

theorem takeWait_of_stray {retry : Nat} (stray : (s.contract l).fits .claim tag = false) :
    takeWait l ⟨tag, .wait retry⟩ raw s = s.stray l := if_neg (by simp [stray])

theorem takeYield_of_stray {f : Frame} (stray : (s.contract l).fits .recall f.tag = false) : takeYield l f raw s = s.stray l := by
  unfold takeYield
  split
  · exact if_neg (by simp [stray])
  · rfl

/-- R35, R43: a drawing line has the role DRAW. -/
theorem Contract.drawing_role {c : Contract} (role : roleOf c.state c.role = c.role) (draws : c.drawing = true) :
    c.role = .draw ∧ c.state ≠ .faulted := by
  cases state : c.state <;> simp_all [Contract.drawing, roleOf]

theorem takeMenu_of_stray {canRecall : Bool} {pts : List Point} {mid : Option MidRequest} (free : (s.contract l).decision = none)
    (stray : (s.contract l).drawing = false) : takeMenu l mid ⟨tag, .menu canRecall pts⟩ raw s = s.stray l := by
  simp only [takeMenu, State.supersede_of_none free, stray, Bool.false_eq_true, if_false]

theorem takeRecall_of_stray {ceiling deadline : Nat} (stray : (s.contract l).drawing = false) :
    takeRecall l ⟨tag, .recall ceiling deadline⟩ raw s = s.stray l := if_neg (by simp [stray])

end Takers

/-- Settles O41: each frame's taker by its case, at a line whose path stands. -/
theorem answersAreTakenInPlace : Obligations.AnswersAreTakenInPlace := by
  intro l s tag settled c strayed kept renews draws
  refine ⟨fun v i arrives => ⟨fun fits => ?_, fun stray => ?_⟩, fun w arrives => ⟨fun a fits active agreement => ?_,
      fun fits other => ?_, fun stray => ?_⟩,
    fun i arrives => ⟨fun a active supply agreement => ?_, fun powering => ?_, fun stray => ?_⟩,
    fun w r st v i arrives => ?_,
    fun stray => ⟨fun current lease arrives => ?_, fun reason arrives => ?_, fun retry arrives => ?_⟩,
    fun stray limit arrives => ?_, fun noDraw => ?_⟩
  · exact congrArg _ (State.deliver_of_still settled arrives rfl (takeReady_of_fits ((State.arrived_fits ..).trans fits))
      ((Still.refl ..).onContract ..))
  · exact congrArg _ (State.deliver_of_stray settled arrives rfl (takeReady_of_stray ((State.arrived_fits ..).trans stray)))
  · exact congrArg _ (State.deliver_of_still settled arrives rfl (takeKeep_of_active ((State.arrived_fits ..).trans fits)
      (by simpa using active) (by simpa using agreement)) ((Still.refl ..).onContract ..))
  · exact congrArg _ (State.deliver_of_still settled arrives rfl (takeKeep_of_other ((State.arrived_fits ..).trans fits) (by simpa using other))
      ((Still.refl ..).onContract ..))
  · exact congrArg _ (State.deliver_of_stray settled arrives rfl (takeKeep_of_stray ((State.arrived_fits ..).trans stray)))
  · refine congrArg _ (State.deliver_of_still settled arrives rfl ((takeRenew_of_active (a := a) (by simpa using active)
      (by simpa using supply) (by simpa using agreement)).trans ?_) (((Still.refl ..).onEngine ..).onContract ..))
    rw [State.arrived_stanceOf]
    rfl
  · refine congrArg _ (State.deliver_of_still settled arrives rfl ((takeRenew_of_powering (by simpa using powering)).trans ?_)
      ((Still.refl ..).onEngine ..))
    rw [State.arrived_stanceOf]
    rfl
  · exact congrArg _ (State.deliver_of_stray settled arrives rfl (takeRenew_of_stray (by
      rw [State.arrived_contract_self]
      exact stray)))
  · exact congrArg _ (State.deliver_of_stray settled arrives rfl rfl)
  · exact congrArg _ (State.deliver_of_stray settled arrives rfl (takeGrant_of_stray ((State.arrived_fits ..).trans stray)))
  · exact congrArg _ (State.deliver_of_stray settled arrives rfl (takeDeny_of_stray ((State.arrived_fits ..).trans stray)))
  · exact congrArg _ (State.deliver_of_stray settled arrives rfl (takeWait_of_stray ((State.arrived_fits ..).trans stray)))
  · exact congrArg _ (State.deliver_of_stray settled arrives rfl (takeYield_of_stray ((State.arrived_fits ..).trans stray)))
  · have idle : c.drawing = false := Bool.eq_false_iff.2 fun drawing => noDraw (Contract.drawing_role settled.2.2 drawing)
    have here : ((s.arrived l).contract l).drawing = false := by
      rw [← idle, State.arrived_contract_self]
      rfl
    exact ⟨fun canRecall pts free arrives => congrArg _ (State.deliver_of_stray settled arrives rfl
        (takeMenu_of_stray (by simpa using free) here)),
      fun ceiling deadline arrives => congrArg _ (State.deliver_of_stray settled arrives rfl (takeRecall_of_stray here))⟩

/-! ### The stance (R29, R35, R38, R39) -/

/-- Section 10.4: the bits of a flag word are the flags in order. -/
theorem flagBits_testBit (bs : List Bool) (i : Nat) : (flagBits bs).testBit i = bs[i]?.getD false := by
  induction bs generalizing i with
  | nil => simp [flagBits]
  | cons b bs ih =>
    have step : flagBits (b :: bs) = Nat.bit b (flagBits bs) := by rw [Nat.bit_val, Nat.add_comm]; rfl
    cases i with
    | zero => simp [step]
    | succ i => rw [step, Nat.testBit_bit_succ, ih, List.getElem?_cons_succ]

/-- Settles O42: a STATUS_Q by its taker; the stance word by its bits. -/
theorem statusCarriesTheStance : Obligations.StatusCarriesTheStance := by
  refine ⟨fun l s tag arrives settled => ?_, fun l s fault => ⟨fun manual => ?_, fun automatic => ?_⟩⟩
  · refine congrArg _ (State.deliver_of_still settled arrives rfl ?_ (((Still.refl ..).onEngine ..).onContract ..))
    simp only [takeStatusQ, State.arrived_stanceOf, State.arrived_contract_self]
    rfl
  · exact if_pos manual
  · have word : s.stanceOf l fault = _ := if_neg (by simp [automatic])
    have bit : ∀ i, (s.stanceOf l fault).getLsbD i = (decide (i < 16) && [fault, (s.contract l).recallOut.isSome,
        (s.contract l).options.roles.supply && decide (0 < s.budget.supplyHeadroom), s.link.stance.getLsbD 3,
        s.link.stance.getLsbD 4, s.link.stance.getLsbD 5, s.link.stance.getLsbD 6][i]?.getD false) := fun i => by
      rw [word, BitVec.getLsbD_ofNat, flagBits_testBit]
    refine ⟨bit 0, bit 1, bit 2, fun i above below => ?_, fun i above => ?_⟩
    · obtain rfl | rfl | rfl | rfl : i = 3 ∨ i = 4 ∨ i = 5 ∨ i = 6 := by omega
      all_goals exact bit _
    · rw [bit, List.getElem?_eq_none (by simpa using above), Option.getD_none, Bool.and_false]

/-! ### A far ENDING (R54) -/

section Ending
variable {s : State} {l : Line} {tag : Tag} {reason : EndReason} {raw : List Byte}

theorem takeEnding_of_contracted (contracted : (s.contract l).state.contracted = true) : takeEnding l ⟨tag, .ending reason⟩ raw s =
    if reason = .final then s.closeToBlocked l .endedByFar else s.closeToGreeting l (some .endedByFar) := by
  unfold takeEnding
  cases state : (s.contract l).state <;> simp_all [CState.contracted]

/-- R54: a far ENDING taken on a line with no contract drops what waits to be answered. -/
def State.farEnded (s : State) (l : Line) : State :=
  ((s.dropVerdict l).onContract l Contract.dropRequests).record l .endedByFar

theorem State.farEnded_eq (s : State) (l : Line) : s.farEnded l = (s.dropVerdict l).onContract l fun c => { c with
    exchange := none, waiting := none, displaced := [], decision := none, lastOutcome := some .endedByFar } := by
  rw [State.farEnded, State.record, State.onContract_onContract]
  rfl

theorem takeEnding_of_uncontracted (state : (s.contract l).state = .blocked ∨ (s.contract l).state = .faulted) :
    takeEnding l ⟨tag, .ending reason⟩ raw s = s.farEnded l := by
  rcases state with state | state <;> simp [takeEnding, state, State.farEnded]

theorem takeEnding_of_greeting (greeting : (s.contract l).state = .greeting) : takeEnding l ⟨tag, .ending reason⟩ raw s =
    (s.farEnded l).onContract l fun c => if reason = .final then c.block else c.greet (some (s.after 50)) := by
  simp only [takeEnding, greeting, State.farEnded]

/-- R54: what an ENDING leaves of a line with no contract, whatever its state becomes. -/
theorem State.farEnded_leaves (s : State) (l : Line) (f : Contract → Contract)
    (keeps : ∀ c, (f c).lastOutcome = c.lastOutcome ∧ (f c).exchange = c.exchange ∧ (f c).waiting = c.waiting ∧
      (f c).displaced = c.displaced ∧ (f c).decision = c.decision) :
    let t := (((s.arrived l).farEnded l).onContract l f).endEvent l
    ((t.contract l).lastOutcome = some .endedByFar ∧ (t.contract l).exchange = none ∧ (t.contract l).waiting = none ∧
      (t.contract l).displaced = [] ∧ (t.contract l).decision = none ∧ t.verdictOf l = none ∧ t.budget = s.budget ∧
      (t.engine l).txQueue = (s.engine l).txQueue) ∧
    t.contract l = { f (((s.arrived l).farEnded l).contract l) with
      role := roleOf (f (((s.arrived l).farEnded l).contract l)).state (f (((s.arrived l).farEnded l).contract l)).role } := by
  intro t
  have contract : t.contract l = _ := State.endEvent_contract_self ..
  rw [State.onContract_contract_self] at contract
  obtain ⟨outcome, exchange, waiting, displaced, decision⟩ := keeps (((s.arrived l).farEnded l).contract l)
  rw [contract]
  refine ⟨⟨outcome.trans ?_, exchange.trans ?_, waiting.trans ?_, displaced.trans ?_, decision.trans ?_, ?_, ?_, ?_⟩, rfl⟩
  all_goals simp [t, State.farEnded_eq]

end Ending

/-- Settles O44: a contract is closed by its reason; with none, what waits is dropped and the state follows the reason. -/
theorem farEndingEndsTheContract : Obligations.FarEndingEndsTheContract := by
  intro l s tag reason arrives settled closed
  have deliver : exec (.endingReceived l) s = _ := congrArg Host.Outcome.next (State.deliver_of_arrives (kind := .ending) arrives rfl (takeEnding l))
  refine ⟨fun contracted final => ?_, fun contracted other => ?_, fun greeting => ⟨fun other => ?_, fun final => ?_⟩, fun state => ?_⟩
  · rw [takeEnding_of_contracted (by simpa using contracted), if_pos final] at deliver
    exact ⟨_, deliver, State.closeToBlocked_closedTo (s := s) (u := s.arrived l) (by simp) rfl .endedByFar,
      linesDoNotInterfere (.endingReceived l) l s _ rfl deliver⟩
  · rw [takeEnding_of_contracted (by simpa using contracted), if_neg other] at deliver
    refine ⟨_, deliver, State.closeToGreeting_closedTo_some (s := s) (u := s.arrived l) (by simp) rfl .endedByFar, ?_, ?_,
      linesDoNotInterfere (.endingReceived l) l s _ rfl deliver⟩
    all_goals
      rw [State.endEvent_contract_self, State.closeToGreeting_contract_self]
      rfl
  · rw [takeEnding_of_greeting (by simpa using greeting)] at deliver
    simp only [if_neg other] at deliver
    obtain ⟨⟨outcome, exchange, waiting, displaced, decision, verdict, budget, queue⟩, contract⟩ := State.farEnded_leaves s l
      (fun c => c.greet (some ((s.arrived l).after 50))) fun c => ⟨rfl, rfl, rfl, rfl, rfl⟩
    refine ⟨_, deliver, ⟨outcome, exchange, waiting, displaced, decision, verdict, budget, queue,
      linesDoNotInterfere (.endingReceived l) l s _ rfl deliver⟩, ?_⟩
    rw [contract]
    exact ⟨rfl, rfl, rfl, rfl, rfl⟩
  · rw [takeEnding_of_greeting (by simpa using greeting)] at deliver
    simp only [if_pos final] at deliver
    obtain ⟨⟨outcome, exchange, waiting, displaced, decision, verdict, budget, queue⟩, contract⟩ := State.farEnded_leaves s l
      Contract.block fun c => ⟨rfl, rfl, rfl, rfl, rfl⟩
    refine ⟨_, deliver, ⟨outcome, exchange, waiting, displaced, decision, verdict, budget, queue,
      linesDoNotInterfere (.endingReceived l) l s _ rfl deliver⟩, ?_⟩
    rw [contract]
    simp [Contract.block, Contract.enter, Timers.keepFor]
  · rw [takeEnding_of_uncontracted (by simpa using state), ← State.onContract_id ((s.arrived l).farEnded l) l] at deliver
    obtain ⟨⟨outcome, exchange, waiting, displaced, decision, verdict, budget, queue⟩, contract⟩ := State.farEnded_leaves s l
      (fun c => c) fun c => ⟨rfl, rfl, rfl, rfl, rfl⟩
    refine ⟨_, deliver, ⟨outcome, exchange, waiting, displaced, decision, verdict, budget, queue,
      linesDoNotInterfere (.endingReceived l) l s _ rfl deliver⟩, ?_⟩
    have role := settled.2.2
    rw [contract]
    simpa [State.farEnded_eq] using role

/-! ### A RECALL (R82, R83) -/

section Recall
variable {s u : State} {l : Line} {tag : Tag} {raw : List Byte} {a : Agreement}

/-- R137: what a draw command drives on a channel that has not tripped. -/
theorem Channel.output_of_draw {ch : Channel} (untripped : ch.tripped = false) (limit : Nat) (bound : Bool) (watch : Option Nat)
    (now : Time) (capped : Bool) : (ch.take (.draw limit bound watch) now capped).output.current =
      if bound then min limit (ch.allocation.getD limit) else limit := by
  obtain ⟨command, stands⟩ := Channel.take_command untripped (.draw limit bound watch) now capped
  have allocation := ch.take_allocation (.draw limit bound watch) now capped
  unfold Channel.output
  rw [stands, command, allocation]
  cases bound <;> cases ch.allocation <;> simp [PathCommand.draw]

@[simp] theorem State.claimDraw_drawCopy_self (s : State) (l : Line) : (s.claimDraw l).budget.drawCopy.get l =
    (s.contract l).agreement.map fun a => ⟨a.voltage, a.current⟩ := by simp [State.claimDraw]

/-- R82: the agreement that a RECALL leaves. -/
def Contract.ceiled (c : Contract) (ceiling : Nat) : Contract :=
  { c with agreement := c.agreement.map fun a => { a with current := min a.current ceiling } }

theorem State.honourRecall_eq (s : State) (l : Line) (tag : Tag) (ceiling : Nat) : s.honourRecall l tag ceiling =
    ((((s.onContract l fun c => c.ceiled ceiling).command l ((s.contract l).ceiled ceiling).path).sendYield l tag
      ).claimDraw l).raiseAgreed l := by
  rw [← State.onContract_contract_self (s := s) l fun c => c.ceiled ceiling]
  rfl

/-- R82: what a RECALL honoured leaves at the end of its event. -/
theorem State.honourRecall_ends (agreement : (u.contract l).agreement = some a) (claim : (u.contract l).claim = none)
    (role : roleOf (u.contract l).state (u.contract l).role = (u.contract l).role) (untripped : (u.channel l).tripped = false)
    (tag : Tag) (ceiling : Nat) {limit : Nat} {bound : Bool} {watch : Option Nat}
    (path : ((u.contract l).ceiled ceiling).path = .draw limit bound watch) :
    let lower := min a.current ceiling
    let t := (u.honourRecall l tag ceiling).endEvent l
    t.contract l = (u.contract l).ceiled ceiling ∧ (t.channel l).command = .draw limit bound watch ∧
      t.budget.drawCommit.get l = a.voltage * lower / 200 ∧ t.budget.drawCopy.get l = some ⟨a.voltage, lower⟩ ∧
      t.engine l = (u.engine l).hand
        (Frame.mk tag (.yield (if bound then min limit ((u.channel l).allocation.getD limit) else limit))).chars ∧
      t.Told l u.now (.agreed (u.contract l).role (u.contract l).state (u.contract l).lastOutcome a.voltage lower a.lease a.point) := by
  intro lower t
  have lowered : ((u.contract l).ceiled ceiling).agreement = some { a with current := lower } := by
    simp [Contract.ceiled, agreement, lower]
  have draws : ((u.contract l).ceiled ceiling).drawCommitment = a.voltage * lower / 200 := by
    simp [Contract.drawCommitment, Contract.ceiled, agreement, claim, power, lower]
  have honoured := u.honourRecall_eq l tag ceiling
  generalize yields : (((u.onContract l fun c => c.ceiled ceiling).command l ((u.contract l).ceiled ceiling).path).sendYield l tag
    ) = v at honoured
  have contract : v.contract l = (u.contract l).ceiled ceiling := by
    rw [← yields]
    simp [State.sendYield, State.hand]
  have output := Channel.output_of_draw untripped limit bound watch u.now ((u.contract l).ceiled ceiling).options.capped
  have engine : v.engine l = (u.engine l).hand
      (Frame.mk tag (.yield (if bound then min limit ((u.channel l).allocation.getD limit) else limit))).chars := by
    rw [← yields, ← output, path]
    simp [State.sendYield, State.hand, State.command]
  have channel : (v.channel l).command = .draw limit bound watch ∧ (v.channel l).tripped = false := by
    rw [← yields, path]
    simpa [State.sendYield, State.hand, State.command] using Channel.take_command untripped ..
  have now : v.now = u.now := by rw [← yields]; simp [State.sendYield, State.hand]
  have ends : t = ((v.claimDraw l).raiseAgreed l).endEvent l := congrArg (State.endEvent · l) honoured
  have kept : ((v.claimDraw l).raiseAgreed l).contract l = (u.contract l).ceiled ceiling := by simp [contract]
  have record : t.contract l = (u.contract l).ceiled ceiling := by
    rw [ends, State.endEvent_contract_self, kept]
    exact congrArg (fun r => { (u.contract l).ceiled ceiling with role := r }) role
  have still : (((v.claimDraw l).raiseAgreed l).channel l).tripped = false := by simpa using channel.2
  have raised := State.raiseAgreed_of (s := v.claimDraw l) (l := l) (a := { a with current := lower })
    (by simpa [contract] using lowered)
  refine ⟨record, ?_, ?_, ?_, ?_, ?_⟩
  · rw [ends, (State.endEvent_command still).1, ← ends, record, path]
  · rw [ends, State.endEvent_budget, State.raiseAgreed_budget, State.claimDraw_drawCommit_self, contract, draws]
  · rw [ends, State.endEvent_budget, State.raiseAgreed_budget, State.claimDraw_drawCopy_self, contract, lowered]
    rfl
  · rw [ends]
    simpa using engine
  · rw [ends, raised]
    have told := State.told_raise (v.claimDraw l) l (.agreed ((v.claimDraw l).contract l).role ((v.claimDraw l).contract l).state
      ((v.claimDraw l).contract l).lastOutcome a.voltage lower a.lease a.point)
    refine State.Told.of_notices (s := (v.claimDraw l).raise (.line l) _) ?_ rfl
    simpa [contract, now, Contract.ceiled] using told

theorem takeRecall_of_honoured {ceiling d : Nat} (drawing : (s.contract l).drawing = true)
    (state : (s.contract l).state = .active ∨ (s.contract l).state = .switching) :
    takeRecall l ⟨tag, .recall ceiling d⟩ raw s = s.honourRecall l tag ceiling := by
  simp only [takeRecall, drawing, state, if_true]

/-- R83: before an agreement is switched to, a RECALL is only answered. -/
theorem takeRecall_of_answered {ceiling d : Nat} (state : (s.contract l).state = .awaitMenu ∨ (s.contract l).state = .choosing ∨
      (s.contract l).state = .claiming ∨ (s.contract l).state = .backoff ∨ (s.contract l).state = .baseline) :
    takeRecall l ⟨tag, .recall ceiling d⟩ raw s = s.sendYield l tag := by
  rcases state with state | state | state | state | state <;> simp [takeRecall, Contract.drawing, state]

end Recall

/-- Settles O43: a RECALL is honoured on the path of its state, with the measure of what the path then allows. -/
theorem recallIsHonoured : Obligations.RecallIsHonoured := by
  intro l s tag ceiling d arrives settled
  refine ⟨fun state => ?_, fun a agreement claim => ?_⟩
  · exact congrArg _ (State.deliver_of_still settled arrives rfl (takeRecall_of_answered (by simpa using state))
      (.ofBlocks rfl rfl))
  · intro lower lowered
    have deliver : exec (.recallReceived l) s = _ :=
      congrArg Host.Outcome.next (State.deliver_of_arrives (kind := .recall) arrives rfl (takeRecall l))
    have ends := fun {limit bound watch} => State.honourRecall_ends (u := s.arrived l) (l := l) (a := a) (by simpa using agreement)
      (by simpa using claim) (by simpa using settled.2.2) settled.1 tag ceiling (limit := limit) (bound := bound) (watch := watch)
    have frame := fun t row => linesDoNotInterfere (.recallReceived l) l s t rfl row
    refine ⟨fun active draw => ?_, fun switching => ?_⟩
    · rw [takeRecall_of_honoured (by simp [Contract.drawing, active, draw]) (by simp [active])] at deliver
      obtain ⟨record, command, commit, copy, engine, told⟩ := ends (limit := lower) (bound := true) (watch := some a.voltage)
        (by simp [Contract.path, Contract.ceiled, active, draw, agreement, lower])
      refine ⟨_, deliver, ?_, ?_, ?_, command, commit, copy, fun room => ?_, ?_, frame _ deliver⟩
      · rw [record]; simp [Contract.ceiled, agreement, lower]
      · rw [record]; simp [Contract.ceiled, active]
      · rw [record]; rfl
      · exact .of_arrived engine room
      · simpa [active, draw] using told
    · rw [takeRecall_of_honoured (by simp [Contract.drawing, switching]) (by simp [switching])] at deliver
      obtain ⟨record, command, commit, copy, engine, told⟩ := ends (limit := min (s.contract l).options.baseline lower)
        (bound := false) (watch := none) (by simp [Contract.path, Contract.ceiled, switching, agreement, lower])
      refine ⟨_, deliver, ?_, ?_, ?_, command, commit, copy, fun room => ?_, ?_, frame _ deliver⟩
      · rw [record]; simp [Contract.ceiled, agreement, lower]
      · rw [record]; simp [Contract.ceiled, switching]
      · rw [record]; rfl
      · exact .of_arrived engine room
      · have role := settled.2.2
        rw [switching] at role
        simpa [switching, ← role, roleOf] using told

end Sys2Proof.Machine
end

section
/-! SUPPORT. Proofs for the far answers to a CLAIM (R72 to R76). -/

namespace Sys2Proof.Machine

/-! ### Notices of one line, in order (R167) -/

/-- R167: a raising of a source among the notices of that source. -/
theorem putNotice_filter_self (n : Notice) (ns : List Notice) :
    ((putNotice n ns).filter fun x => x.source == n.source) = putNotice n (ns.filter fun x => x.source == n.source) := by
  induction ns with
  | nil => simp [putNotice]
  | cons m ms ih =>
    by_cases same : m.sameKey n = true
    · have source : m.source = n.source := by
        simp only [Notice.sameKey, Bool.and_eq_true, beq_iff_eq] at same
        exact same.1
      simp [putNotice, same, source]
    · by_cases source : m.source = n.source
      · simp [putNotice, same, source, ih]
      · simp [putNotice, same, source, ih]

section Notices
variable {s t : State} {l : Line} {f : Contract → Contract} {cause : Cause} {kind : Option FrameKind} {stamp : Time}

/-- The notices that a line has raised, oldest first. -/
def State.noticesOf (s : State) (l : Line) : List Notice := s.link.notices.filter fun n => n.source == .line l

theorem State.noticesOf_of_notices (same : t.link.notices = s.link.notices) : t.noticesOf l = s.noticesOf l := by
  simp only [State.noticesOf, same]

theorem State.noticesOf_raise (s : State) (l : Line) (body : NoticeBody) :
    (s.raise (.line l) body).noticesOf l = putNotice ⟨.line l, s.now, body⟩ (s.noticesOf l) :=
  putNotice_filter_self ⟨.line l, s.now, body⟩ s.link.notices

/-- R125: a change of the budget tells for the part. -/
theorem State.noticesOf_setBudget (s : State) (l : Line) (b : Budget) : (s.setBudget b).noticesOf l = s.noticesOf l := by
  unfold State.setBudget
  dsimp only
  split
  · exact putNotice_filter _ _ (by simp) _
  · rfl

theorem State.noticesOf_releaseBoth (s : State) (l m : Line) : (s.releaseBoth m).noticesOf l = s.noticesOf l := by
  have passes : ∀ (u : State) (n : Nat), (u.passRise n).noticesOf l = u.noticesOf l := fun u n =>
    State.noticesOf_of_notices (by rw [State.passRise_eq])
  rw [State.releaseBoth, passes]
  exact State.noticesOf_setBudget s l _

/-- R52: the notice of a closing. -/
theorem State.noticesOf_closing (left : (f (s.contract l)).state ≠ .offering) (held : (s.contract l).role ≠ .none) :
    (s.closing l f).noticesOf l = putNotice ⟨.line l, s.now, .ended (s.contract l).role (f (s.contract l)).state
      (f (s.contract l)).lastOutcome⟩ (s.noticesOf l) := by
  have line := State.closing_contract_self (f := f) left
  rw [State.closing_eq, if_neg held] at line ⊢
  have same : (s.closed l f).contract l = f (s.contract l) := line
  have now : (s.closed l f).now = s.now := by simp [State.closed]
  have notices : (s.closed l f).noticesOf l = s.noticesOf l :=
    State.noticesOf_releaseBoth ((s.dropVerdict l).onContract l f) l l
  rw [State.noticesOf_raise, same, now, notices]

theorem State.noticesOf_endToGreeting (held : (s.contract l).role ≠ .none) (r : EndReason) (o : Outcome) :
    (s.endToGreeting l r o).noticesOf l =
      putNotice ⟨.line l, s.now, .ended (s.contract l).role .greeting (some o)⟩ (s.noticesOf l) := by
  have closes := State.noticesOf_closing (s := s.handNew l (.ending r)) (l := l)
    (f := fun c => { c.close.greet (some ((s.handNew l (.ending r)).after 50)) with lastOutcome := (some o).or c.lastOutcome })
    (by simp [Contract.greet]) (by simpa using held)
  rw [State.handNew_contract_self] at closes
  exact closes

/-- R150: the notice of a fault that is captured. -/
theorem State.noticesOf_capture (told : ((s.captures.get l).take cause (s.contract l).state kind stamp).2 = true) :
    (s.capture l cause kind stamp).noticesOf l = putNotice ⟨.line l, s.now,
      .fault ((s.captures.get l).take cause (s.contract l).state kind stamp).1⟩ (s.noticesOf l) := by
  rw [State.capture_eq, if_pos told]
  exact State.noticesOf_raise { s with captures := _ } l _

/-- What keeps a closed line and its notices keeps the closing. -/
theorem ClosedTo.later {u : State} {st : CState} {r : Role} {o : Option Outcome} (closed : ClosedTo l s t st r o)
    (contract : u.contract l = t.contract l) (channel : u.channel l = t.channel l) (budget : u.budget = t.budget)
    (verdict : u.verdictOf l = t.verdictOf l) (told : ∀ body, body.kind = .ended → t.Told l s.now body → u.Told l s.now body) :
    ClosedTo l s u st r o where
  state := by rw [contract]; exact closed.state
  role := by rw [contract]; exact closed.role
  outcome := by rw [contract]; exact closed.outcome
  requests := by rw [contract]; exact closed.requests
  record := by rw [contract]; exact closed.record
  budget := by rw [budget]; exact closed.budget
  verdict := verdict.trans closed.verdict
  path := by rw [channel]; exact closed.path
  told := fun held => told _ rfl (closed.told held)

/-- R151: the capture of a PROTOCOL fault does not move the end of its event. -/
theorem ClosedTo.capture {v : State} {st : CState} {r : Role} {o : Option Outcome} (closed : ClosedTo l s (v.endEvent l) st r o) :
    ClosedTo l s ((v.capture l cause kind stamp).endEvent l) st r o :=
  closed.later (by simp only [State.endEvent_contract_self, State.capture_line]) (by
      simp only [State.channel_endEvent, State.endEvent_contract_self, State.capture_line]
      rw [show (v.capture l cause kind stamp).now = v.now by simp])
    (by simp) (by simp) fun _ isEnded told =>
      State.Told.of_notices ((State.Told.of_notices told rfl : v.Told l s.now _).capture (by simp [isEnded]) ..) rfl

end Notices

/-! ### A GRANT (R74) -/

section Grant
variable {s u : State} {l : Line} {tag : Tag} {raw : List Byte} {k : OutClaim}

/-- R74: the record that a GRANT taken leaves. -/
def Contract.granted (c : Contract) (k : OutClaim) (current lease : Nat) (ready : Time) : Contract :=
  { c.enter .switching with
    agreement := some ⟨k.fields.voltage, current, lease, k.fields.point⟩
    claim := none
    waitStreak := 0
    exchange := c.exchange.map fun x => { x with kind := .claimGranted, timer := none }
    timers := { (c.enter .switching).timers with readyWait := some ready } }

theorem takeGrant_of_within {current lease : Nat} (claim : (s.contract l).claim = some k)
    (fits : (s.contract l).fits .claim tag = true) (least : k.fields.least ≤ current) (most : current ≤ k.fields.claimed) :
    takeGrant l ⟨tag, .grant current lease⟩ raw s =
      (s.onContract l fun c => c.granted k current lease (s.after 300)).claimDraw l := by
  simp only [takeGrant, claim, fits, least, most, and_self, if_true]
  rfl

/-- R74, R151, log 33: a GRANT refused ends the contract, and its PROTOCOL fault is taken. -/
theorem takeGrant_of_refused {current lease : Nat} (claim : (s.contract l).claim = some k)
    (fits : (s.contract l).fits .claim tag = true) (beyond : current < k.fields.least ∨ k.fields.claimed < current) :
    takeGrant l ⟨tag, .grant current lease⟩ raw s = (s.endToGreeting l .policy .malformedAnswer).capture l .malformedAnswer
      (some .grant) (s.endToGreeting l .policy .malformedAnswer).now := by
  have outside : ¬(k.fields.least ≤ current ∧ current ≤ k.fields.claimed) := by omega
  simp only [takeGrant, claim, fits, outside, if_true, if_false, State.takeFault]
  exact State.takeFaultOf_protocol rfl

end Grant

/-- Settles O39: the agreement and the path of a GRANT taken; the closing and the fault of a GRANT refused. -/
theorem grantIsTakenOrRefused : Obligations.GrantIsTakenOrRefused := by
  intro l s tag granted lease k x arrives claiming claim outstanding isClaim own settled
  have deliver : exec (.grantReceived l) s = _ :=
    congrArg Host.Outcome.next (State.deliver_of_arrives (kind := .grant) arrives rfl (takeGrant l))
  have fits : ((s.arrived l).contract l).fits .claim tag = true := by
    simp [Contract.fits, outstanding, isClaim, own]
  have claimed : ((s.arrived l).contract l).claim = some k := by simpa using claim
  refine ⟨fun least most => ?_, fun beyond room => ?_⟩
  · rw [takeGrant_of_within claimed fits least most] at deliver
    have record : (((s.arrived l).onContract l fun c => c.granted k granted lease ((s.arrived l).after 300)).contract l) =
      ((s.arrived l).contract l).granted k granted lease ((s.arrived l).after 300) := State.onContract_contract_self ..
    have engine : ((s.arrived l).onContract l fun c => c.granted k granted lease ((s.arrived l).after 300)).engine l =
      (s.arrived l).engine l := rfl
    have untripped : (((s.arrived l).onContract l fun c =>
      c.granted k granted lease ((s.arrived l).after 300)).channel l).tripped = false := settled.1
    generalize (s.arrived l).onContract l (fun c => c.granted k granted lease ((s.arrived l).after 300)) = u at *
    rw [State.arrived_contract_self] at record
    have commitment : (u.contract l).drawCommitment = k.fields.voltage * granted / 200 := by
      simp [record, Contract.granted, Contract.drawCommitment, power]
    have contract : ((u.claimDraw l).endEvent l).contract l = { u.contract l with role := .draw } := by
      rw [State.endEvent_contract_self, (State.claimDraw_contracts ..).2, record]
      rfl
    refine ⟨_, deliver, ?_⟩
    rw [contract, (State.endEvent_command (by simpa using untripped)).1, contract, (State.endEvent_engines _ _).2,
      (State.claimDraw_engines _ _).2, engine, State.endEvent_budget, State.claimDraw_drawCommit_self,
      State.claimDraw_drawCopy_self, commitment, record]
    refine ⟨rfl, rfl, rfl, rfl, rfl, ?_, rfl, rfl, rfl, rfl, (State.arrived_engine_self s l).1,
      linesDoNotInterfere (.grantReceived l) l s _ rfl deliver⟩
    simp [Contract.granted, outstanding]
  · rw [takeGrant_of_refused claimed fits beyond] at deliver
    have draws : (s.contract l).role = .draw := by
      rw [← settled.2.2, claiming]
      rfl
    have role : ((s.arrived l).contract l).role = .draw := by simpa using draws
    have closed := State.endToGreeting_closedTo (s := s) (u := s.arrived l) (l := l) (by simp) rfl .policy .malformedAnswer
    have queue := State.endToGreeting_engine_self (s.arrived l) l .policy .malformedAnswer
    have state : (((s.arrived l).endToGreeting l .policy .malformedAnswer).contract l).state = .greeting := by
      rw [State.endToGreeting_contract_self]
      rfl
    have notices : ((s.arrived l).endToGreeting l .policy .malformedAnswer).noticesOf l =
        putNotice ⟨.line l, s.now, .ended .draw .greeting (some .malformedAnswer)⟩ (s.noticesOf l) := by
      rw [← role]
      exact State.noticesOf_endToGreeting (by simp [draws]) _ _
    have now : ((s.arrived l).endToGreeting l .policy .malformedAnswer).now = s.now := by simp
    have captures : ((s.arrived l).endToGreeting l .policy .malformedAnswer).captures.get l = s.captures.get l := by simp
    have strikes : ((s.arrived l).endToGreeting l .policy .malformedAnswer).strikes.get l = s.strikes.get l := by simp
    generalize (s.arrived l).endToGreeting l .policy .malformedAnswer = v at *
    have taken := v.takeFaultOf_taken l .malformedAnswer (some .grant) v.now
    rw [State.takeFaultOf_protocol rfl, state, now] at taken
    rw [now] at deliver
    refine ⟨_, deliver, closed.capture, .of_arrived (by simpa using queue) room,
      (taken.of_before captures strikes now).endEvent l, fun fresh empty => ?_,
      linesDoNotInterfere (.grantReceived l) l s _ rfl deliver⟩
    have captured : ((v.captures.get l).take .malformedAnswer (v.contract l).state (some .grant) s.now).2 = true := by
      simp [captures, Capture.take, fresh]
    have told := State.noticesOf_capture captured
    rw [notices, show s.noticesOf l = [] from empty, now, ← v.capture_captures_self] at told
    exact told.trans (by simp [putNotice, Notice.sameKey, NoticeBody.kind])

/-! ### A DENY or a WAIT (R72, R73, R75, R76) -/

section Refused
variable {s : State} {l : Line} {tag : Tag} {raw : List Byte}

/-- R75, R76: the CLAIM closed by a far answer. -/
def State.claimRefused (s : State) (l : Line) : State := ((s.arrived l).closeExchange l).dropClaim l

@[simp] theorem State.dropClaim_contract_self (s : State) (l : Line) :
    (s.dropClaim l).contract l = { s.contract l with claim := none } := by simp [State.dropClaim]

theorem State.claimRefused_contract (s : State) (l : Line) : (s.claimRefused l).contract l =
    { (s.arrived l).contract l with exchange := none, claim := none } := by
  simp [State.claimRefused]

theorem State.claimRefused_engine (s : State) (l : Line) : (s.claimRefused l).engine l = (s.arrived l).engine l := by
  simp [State.claimRefused, State.dropClaim]

@[simp] theorem State.claimRefused_setup (s : State) (l : Line) : s.SameSetup (s.claimRefused l) := by
  simp [State.claimRefused, State.dropClaim, State.SameSetup]

/-- R123: with the claim gone, the reservation is the agreement's. -/
theorem State.claimRefused_drawCommit (s : State) (l : Line) : (s.claimRefused l).budget.drawCommit.get l =
    ((s.contract l).agreement.map fun a => a.voltage * a.current / 200).getD 0 := by
  simp [State.claimRefused, State.dropClaim, Contract.drawCommitment, power]

theorem takeDeny_of_fits {f : Frame} (fits : (s.contract l).fits .claim f.tag = true) :
    takeDeny l f raw (s.arrived l) = ((s.claimRefused l).onContract l fun c =>
      { c with lastOutcome := some .denied, waitStreak := 0 }).advance l := by
  rw [takeDeny, if_pos ((State.arrived_fits ..).trans fits), State.record, State.onContract_onContract]
  rfl

theorem takeWait_of_fits {retry : Nat} (fits : (s.contract l).fits .claim tag = true) :
    takeWait l ⟨tag, .wait retry⟩ raw (s.arrived l) = if (s.contract l).waitStreak < 2 then
      (s.claimRefused l).onContract l fun c => { c.enter .backoff with
        waitStreak := c.waitStreak + 1
        timers := { (c.enter .backoff).timers with backoff := some (s.after (10 * retry)) } }
    else ((s.claimRefused l).onContract l fun c => { c with lastOutcome := some .waitLimit, waitStreak := 0 }).advance l := by
  have streak : (((s.arrived l).closeExchange l).dropClaim l).contract l = _ := s.claimRefused_contract l
  simp only [takeWait, State.arrived_fits, fits, if_true, streak, State.record, State.onContract_onContract]
  rw [State.arrived_contract_self]
  rfl

/-- R72, R75, R76: selection goes on from a CLAIM that was refused. -/
theorem State.claimRefused_advances (s : State) (l : Line) (o : Outcome) :
    let old := (s.contract l).cursor
    let left := s.claimRefused l
    let t := ((left.onContract l fun c => { c with lastOutcome := some o, waitStreak := 0 }).advance l).endEvent l
    (t.contract l).waitStreak = 0 ∧
      (∀ n f, left.candidate l n = some f → old.before n →
        (∀ j, old.before j → Cursor.before j n → left.candidate l j = none) →
        ClaimSent l left t n f ∧ (t.contract l).lastOutcome = some o) ∧
      ((∀ n, old.before n → left.candidate l n = none) →
        (t.contract l).state = .baseline ∧ (t.contract l).lastOutcome = some .noSuitablePoint ∧
        (t.contract l).agreement = none ∧ (t.contract l).claim = none ∧ t.budget.drawCommit.get l = 0 ∧
        HandedOrDropped l s t ⟨(s.contract l).tagCounter, .ending .noSuitablePoint⟩) := by
  intro old left t
  have contract : (left.onContract l fun c => { c with lastOutcome := some o, waitStreak := 0 }).contract l =
      { left.contract l with lastOutcome := some o, waitStreak := 0 } := State.onContract_contract_self ..
  have base : ClaimBase l left (left.onContract l fun c => { c with lastOutcome := some o, waitStreak := 0 }) := by
    refine ⟨?_, ?_, ?_, ?_, ?_, ?_, ?_, ?_⟩ <;> simp
  have candidates : ∀ k, (left.onContract l fun c => { c with lastOutcome := some o, waitStreak := 0 }).candidate l k =
      left.candidate l k := State.candidate_onContract ⟨rfl, rfl, rfl⟩
  have ends : t = ((left.onContract l fun c => { c with lastOutcome := some o, waitStreak := 0 }).advance l).endEvent l := rfl
  generalize left.onContract l (fun c => { c with lastOutcome := some o, waitStreak := 0 }) = u at *
  have before : left.contract l = _ := s.claimRefused_contract l
  rw [before, State.arrived_contract_self] at contract
  obtain ⟨claims, exhausts⟩ := State.advance_claims (s := u) (l := l) old (by rw [contract])
  refine ⟨?_, fun n f candidate after first => ?_, fun all => ?_⟩
  · rw [ends, State.endEvent_contract_self]
    exact State.advance_waitStreak (by rw [contract])
  · rw [ends, claims n f ((candidates n).trans candidate) after fun j between earlier =>
      (candidates j).trans (first j between earlier)]
    refine ⟨((State.sendClaim_claimSent ..).of_base base).endEvent, ?_⟩
    obtain ⟨-, -, outcome, -⟩ := (u.sendClaim_record l n f).fields
    rw [State.endEvent_contract_self, outcome, contract]
    rfl
  · rw [ends, exhausts fun n after => (candidates n).trans (all n after)]
    obtain ⟨baseline, -, outcome, agreement, commit, handed, -⟩ := u.noSuitablePoint_leaves l
    refine ⟨baseline, outcome, agreement, ?_, commit, ?_⟩
    · rw [State.endEvent_contract_self, State.noSuitablePoint_contract_self]
      rfl
    · simpa [HandedOrDropped, contract, base.engine, left, State.claimRefused_engine] using handed

end Refused

/-- Settles O40: the CLAIM is closed, and selection goes on or backs off. -/
theorem denyAndWaitMoveTheCursor : Obligations.DenyAndWaitMoveTheCursor := by
  intro l s tag k claiming claim fits settled old left moved
  have before : left.contract l = _ := s.claimRefused_contract l
  have engine : left.engine l = _ := s.claimRefused_engine l
  refine ⟨?_, fun reason arrives => ?_, fun retry arrives few => ?_, fun retry arrives third => ?_⟩
  · have commit : left.budget.drawCommit.get l = _ := s.claimRefused_drawCommit l
    rw [before, engine, commit]
    simp
  · have row : exec (.denyReceived l) s = _ :=
      congrArg Host.Outcome.next (State.deliver_of_arrives (kind := .deny) arrives rfl (takeDeny l))
    rw [takeDeny_of_fits fits] at row
    obtain ⟨streak, claims, exhausts⟩ := State.claimRefused_advances s l .denied
    exact ⟨_, row, streak, claims, exhausts, linesDoNotInterfere (.denyReceived l) l s _ rfl row⟩
  · have row : exec (.waitReceived l) s = _ :=
      congrArg Host.Outcome.next (State.deliver_of_arrives (kind := .wait) arrives rfl (takeWait l))
    rw [takeWait_of_fits fits, if_pos few] at row
    refine ⟨_, row, ?_⟩
    rw [State.endEvent_contract_self, State.endEvent_budget, (State.endEvent_engines _ _).2, State.onContract_contract_self,
      State.claimRefused_contract]
    refine ⟨rfl, rfl, rfl, ?_, ?_, ?_, ?_, rfl, s.claimRefused_drawCommit l, ?_,
      linesDoNotInterfere (.waitReceived l) l s _ rfl row⟩
    all_goals simp [State.claimRefused_engine, Contract.enter, State.after, old]
  · have row : exec (.waitReceived l) s = _ :=
      congrArg Host.Outcome.next (State.deliver_of_arrives (kind := .wait) arrives rfl (takeWait l))
    rw [takeWait_of_fits fits, if_neg (by omega)] at row
    obtain ⟨streak, claims, exhausts⟩ := State.claimRefused_advances s l .waitLimit
    exact ⟨_, row, streak, claims, exhausts, linesDoNotInterfere (.waitReceived l) l s _ rfl row⟩

end Sys2Proof.Machine
end

section
/-! SUPPORT. Proofs for the layout of contract frames (R21 to R30, R177, section 12.2). -/

namespace Sys2Proof.Machine

/-! ### Characters and fields (R177) -/

/-- R177: two characters give back the number that they were made from. -/
theorem nat16_be16 {n : Nat} (fits : n < 65536) : nat16 (byte (n / 256)) (byte n) = n := by
  simp only [nat16, byte, BitVec.toNat_ofNat]
  omega

theorem toNat_append_byte {w : Nat} (a : BitVec w) (b : Byte) : (a ++ b).toNat = a.toNat * 256 + b.toNat := by
  rw [BitVec.toNat_append, ← Nat.shiftLeft_add_eq_or_of_lt b.isLt, Nat.shiftLeft_eq]

theorem word16_be16 (w : BitVec 16) : byte (w.toNat / 256) ++ byte w.toNat = w := by
  refine BitVec.eq_of_toNat_eq ?_
  have bound := w.isLt
  simp only [toNat_append_byte, byte, BitVec.toNat_ofNat]
  omega

/-- R177: four characters give back the word that they were made from. -/
theorem word32_be32 (w : BitVec 32) : word32 (byte (w.toNat / 16777216)) (byte (w.toNat / 65536)) (byte (w.toNat / 256))
    (byte w.toNat) = w := by
  refine BitVec.eq_of_toNat_eq ?_
  have bound := w.isLt
  simp only [word32, toNat_append_byte, byte, BitVec.toNat_ofNat]
  omega

theorem be32_eq (n : Nat) : be32 n = be16 (n / 65536) ++ be16 n := by
  simp only [be32, be16, Nat.div_div_eq_div_mul, List.cons_append, List.nil_append]

theorem byte_toNat_ne_zero {n : Nat} (low : 1 ≤ n) (high : n ≤ 255) : byte n ≠ 0 := by
  intro zero
  have number := byte_toNat_of_lt (n := n) (by omega)
  rw [zero] at number
  simp at number
  omega

theorem one_le_toNat {b : Byte} (nonzero : b ≠ 0) : 1 ≤ b.toNat := by
  refine Nat.one_le_iff_ne_zero.2 fun zero => nonzero (BitVec.eq_of_toNat_eq zero)

/-! ### Codes (R24, R27, R29, R30) -/

theorem FarClass.ofCode_code (c : FarClass) : FarClass.ofCode (byte c.code).toNat = some c := by cases c <;> rfl
theorem DenyReason.ofCode_code (r : DenyReason) : DenyReason.ofCode (byte r.code).toNat = some r := by cases r <;> rfl
theorem EndReason.ofCode_code (r : EndReason) : EndReason.ofCode (byte r.code).toNat = some r := by cases r <;> rfl

/-- R29: the role and the state share a character. -/
theorem statusByte_read (r : Role) (st : CState) :
    Role.ofCode ((byte (r.code * 16 + st.code)).toNat / 16 % 4) = some r ∧
      CState.ofCode ((byte (r.code * 16 + st.code)).toNat % 16) = some st := by
  cases r <;> cases st <;> exact ⟨rfl, rfl⟩

theorem FrameKind.ofCode_code (k : FrameKind) : FrameKind.ofCode k.code = some k := by cases k <;> rfl

/-- R21: the header gives back the tag and the kind. -/
theorem headerByte_read (tag : Tag) (k : FrameKind) :
    (headerByte tag k).setWidth 5 = k.code ∧ (headerByte tag k).extractLsb' 5 3 = tag := by
  refine ⟨?_, ?_⟩
  · exact BitVec.setWidth_append_eq_right
  · exact BitVec.extractLsb'_append_eq_left

theorem headerByte_eq (tag : Tag) (k : FrameKind) : headerByte tag k = BitVec.ofNat 8 (32 * tag.toNat + k.code.toNat) := by
  refine BitVec.eq_of_toNat_eq ?_
  have low := k.code.isLt
  have high := tag.isLt
  rw [headerByte, BitVec.toNat_append, ← Nat.shiftLeft_add_eq_or_of_lt low, Nat.shiftLeft_eq, BitVec.toNat_ofNat]
  omega

/-! ### The reading of a body, kind by kind (R22, R24 to R30) -/

section Reading
variable (tag : Tag) (a b c d e f g h : Byte) (rest : List Byte)

theorem parseBody_announce : parseBody .announce tag [a, b, c, d, e, f, g] = if tag = 1 ∧ g ≠ 0 then
    (FarClass.ofCode a.toNat).map fun cls => .announce cls (b.getLsbD 0) (b.getLsbD 7) (word32 c d e f) g.toNat
  else none := rfl

theorem parseBody_menu : parseBody .menu tag (a :: b :: rest) = if 1 ≤ b.toNat ∧ b.toNat ≤ 6 ∧ rest.length = 7 * b.toNat then
    (parsePoints rest).map fun ps => .menu (a.getLsbD 0) ps
  else none := rfl

theorem parseBody_claim : parseBody .claim tag [a, b, c, d, e, f, g] =
    if a.toNat ≤ 5 ∧ 200 ≤ nat16 b c ∧ nat16 b c ≤ 1300 ∧ nat16 d e ≤ 320 ∧ nat16 f g ≤ 320 then
      some (.claim ⟨a.toNat, nat16 b c, nat16 d e, nat16 f g⟩)
    else none := rfl

theorem parseBody_grant : parseBody .grant tag [a, b, c] =
    if nat16 a b ≤ 320 ∧ 1 ≤ c.toNat ∧ c.toNat ≤ 120 then some (.grant (nat16 a b) c.toNat) else none := rfl

theorem parseBody_deny : parseBody .deny tag [a] = (DenyReason.ofCode a.toNat).map .deny := rfl

theorem parseBody_wait : parseBody .wait tag [a] = if a = 0 then none else some (.wait a.toNat) := rfl

theorem parseBody_ready : parseBody .ready tag [a, b, c, d] =
    if 200 ≤ nat16 a b ∧ nat16 a b ≤ 1300 ∧ nat16 c d ≤ 320 then some (.ready (nat16 a b) (nat16 c d)) else none := rfl

theorem parseBody_renew : parseBody .renew tag [a, b] = if nat16 a b ≤ 320 then some (.renew (nat16 a b)) else none := rfl

theorem parseBody_keep : parseBody .keep tag [a, b] = some (.keep (a ++ b)) := rfl

theorem parseBody_recall : parseBody .recall tag [a, b, c] =
    if nat16 a b ≤ 320 ∧ 1 ≤ c.toNat ∧ c.toNat ≤ 100 then some (.recall (nat16 a b) c.toNat) else none := rfl

theorem parseBody_yield : parseBody .yield tag [a, b] = if nat16 a b ≤ 320 then some (.yield (nat16 a b)) else none := rfl

theorem parseBody_status : parseBody .status tag [a, b, c, d, e, f, g] =
    if (nat16 d e = 0 ∨ (200 ≤ nat16 d e ∧ nat16 d e ≤ 1300)) ∧ nat16 f g ≤ 320 then
      (Role.ofCode (c.toNat / 16 % 4)).bind fun r => (CState.ofCode (c.toNat % 16)).map fun st =>
        .status (a ++ b) r st (nat16 d e) (nat16 f g)
    else none := by
  cases role : Role.ofCode (c.toNat / 16 % 4) <;> cases state : CState.ofCode (c.toNat % 16)
  all_goals
    change (if _ then (match Role.ofCode (c.toNat / 16 % 4), CState.ofCode (c.toNat % 16) with
      | some r, some st => some (FrameBody.status (a ++ b) r st (nat16 d e) (nat16 f g))
      | _, _ => none) else none) = _
    rw [role, state]
    rfl

theorem parseBody_ending : parseBody .ending tag [a] = (EndReason.ofCode a.toNat).map .ending := rfl

end Reading

/-! ### Bodies (R24 to R30) -/

theorem parsePoints_chars {pts : List Point} (legal : ∀ p ∈ pts, p.Legal) :
    parsePoints (pts.map Point.chars).flatten = some pts := by
  induction pts with
  | nil => rfl
  | cons p ps ih =>
    obtain ⟨kind, v1, v2, limit⟩ := p
    obtain ⟨low1, high1, low2, high2, ranges⟩ : Point.Legal ⟨kind, v1, v2, limit⟩ := legal _ List.mem_cons_self
    have rest := ih fun q mem => legal q (List.mem_cons_of_mem _ mem)
    have split : ((⟨kind, v1, v2, limit⟩ :: ps).map Point.chars).flatten = byte kind.code :: byte (v1 / 256) :: byte v1 ::
      byte (v2 / 256) :: byte v2 :: byte (limit / 256) :: byte limit :: (ps.map Point.chars).flatten := rfl
    rw [split]
    have bound : limit < 65536 := by
      rcases ranges with ⟨-, -, small⟩ | ⟨-, -, small⟩ <;> exact Nat.lt_of_le_of_lt small (by omega)
    simp only [parsePoints, nat16_be16 (n := v1) (Nat.lt_of_le_of_lt high1 (by omega)),
      nat16_be16 (n := v2) (Nat.lt_of_le_of_lt high2 (by omega)), nat16_be16 bound, rest, Option.map_some]
    rcases ranges with ⟨fixed, same, small⟩ | ⟨window, wide, small⟩
    · obtain rfl : kind = .fixed := fixed
      simp_all [PointKind.code, byte]
    · obtain rfl : kind = .window := window
      simp_all [PointKind.code, byte]

theorem Point.chars_length (pts : List Point) : (pts.map Point.chars).flatten.length = 7 * pts.length := by
  induction pts with
  | nil => rfl
  | cons p ps ih =>
    rw [List.map_cons, List.flatten_cons, List.length_append, ih, List.length_cons]
    show 7 + 7 * ps.length = _
    omega

/-- R22: the body of a legal frame is read back. -/
theorem parseBody_chars {f : Frame} (legal : f.Legal) : parseBody f.body.kind f.tag f.body.chars = some f.body := by
  obtain ⟨tag, body⟩ := f
  cases body with
  | announce cls rc ans idn level =>
    obtain ⟨rfl, low, high⟩ := legal
    have flags : (byte (flagBits [rc, false, false, false, false, false, false, ans])).getLsbD 0 = rc ∧
        (byte (flagBits [rc, false, false, false, false, false, false, ans])).getLsbD 7 = ans := by
      cases rc <;> cases ans <;> exact ⟨rfl, rfl⟩
    have number : (byte level).toNat = level := byte_toNat_of_lt (by omega)
    simp only [FrameBody.kind, FrameBody.chars, be32, List.cons_append, List.nil_append, parseBody_announce, flags, word32_be32, number,
      byte_toNat_ne_zero low high, ne_eq, not_false_eq_true, and_self, if_true, FarClass.ofCode_code, Option.map_some]
  | menu rc pts =>
    obtain ⟨some, few, points⟩ := legal
    have number : (byte pts.length).toNat = pts.length := byte_toNat_of_lt (by omega)
    have flag : (byte rc.toNat).getLsbD 0 = rc := by cases rc <;> rfl
    simp only [FrameBody.kind, FrameBody.chars, parseBody_menu, number, some, few, Point.chars_length, and_self, if_true,
      parsePoints_chars points, flag, Option.map_some]
  | claim k =>
    obtain ⟨point, low, high, claimed, least⟩ := legal
    have number : (byte k.point).toNat = k.point := byte_toNat_of_lt (by omega)
    simp only [FrameBody.kind, FrameBody.chars, be16, List.cons_append, List.nil_append, parseBody_claim, number,
      nat16_be16 (n := k.voltage) (by omega), nat16_be16 (n := k.claimed) (by omega), nat16_be16 (n := k.least) (by omega),
      point, low, high, claimed, least, and_self, if_true]
  | grant current lease =>
    obtain ⟨high, low, long⟩ := legal
    have number : (byte lease).toNat = lease := byte_toNat_of_lt (by omega)
    simp only [FrameBody.kind, FrameBody.chars, be16, List.cons_append, List.nil_append, parseBody_grant, number,
      nat16_be16 (n := current) (by omega), high, low, long, and_self, if_true]
  | deny r => exact congrArg (Option.map _) r.ofCode_code
  | wait t =>
    obtain ⟨low, high⟩ := legal
    have number : (byte t).toNat = t := byte_toNat_of_lt (by omega)
    simp only [FrameBody.kind, FrameBody.chars, parseBody_wait, number, byte_toNat_ne_zero low high, if_false]
  | ready v c =>
    obtain ⟨low, high, current⟩ := legal
    simp only [FrameBody.kind, FrameBody.chars, be16, List.cons_append, List.nil_append, parseBody_ready,
      nat16_be16 (n := v) (by omega), nat16_be16 (n := c) (by omega), low, high, current, and_self, if_true]
  | renew c =>
    have high : c ≤ 320 := legal
    simp only [FrameBody.kind, FrameBody.chars, be16, parseBody_renew, nat16_be16 (n := c) (by omega), high, if_true]
  | keep w => exact congrArg (fun w => some (FrameBody.keep w)) (word16_be16 w)
  | yield c =>
    have high : c ≤ 320 := legal
    simp only [FrameBody.kind, FrameBody.chars, be16, parseBody_yield, nat16_be16 (n := c) (by omega), high, if_true]
  | statusQ => rfl
  | status w r st v c =>
    obtain ⟨voltage, current⟩ : (v = 0 ∨ (200 ≤ v ∧ v ≤ 1300)) ∧ c ≤ 320 := legal
    obtain ⟨role, state⟩ := statusByte_read r st
    simp only [FrameBody.kind, FrameBody.chars, be16, List.cons_append, List.nil_append, parseBody_status,
      nat16_be16 (n := v) (by omega), nat16_be16 (n := c) (by omega), voltage, current, and_self, if_true, role, state, word16_be16, Option.bind_some,
      Option.map_some]
  | ending r => exact congrArg (Option.map _) r.ofCode_code
  -- a RECALL, whose name is a keyword of Lean and so cannot stand here
  | _ c d =>
    obtain ⟨high, low, late⟩ := legal
    have number : (byte d).toNat = d := byte_toNat_of_lt (by omega)
    simp only [FrameBody.kind, FrameBody.chars, be16, List.cons_append, List.nil_append, parseBody_recall, number,
      nat16_be16 (n := c) (by omega), high, low, late, and_self, if_true]

/-- R25: the points that are read are as many as their characters, and in their ranges. -/
theorem parsePoints_legal : ∀ {cs : List Byte} {pts : List Point}, parsePoints cs = some pts →
    cs.length = 7 * pts.length ∧ ∀ p ∈ pts, p.Legal
  | [], pts, parsed => by
    cases parsed
    simp
  | k :: a :: b :: c :: d :: e :: f :: rest, pts, parsed => by
    rw [parsePoints] at parsed
    split at parsed
    case isFalse => cases parsed
    case isTrue inRange =>
      obtain ⟨low1, high1, low2, high2⟩ := inRange
      have tail : ∀ p : Point, p.Legal → (parsePoints rest).map (p :: ·) = some pts →
          (k :: a :: b :: c :: d :: e :: f :: rest).length = 7 * pts.length ∧ ∀ p ∈ pts, p.Legal := by
        intro p legal read
        obtain ⟨ps, parses, rfl⟩ := Option.map_eq_some_iff.1 read
        obtain ⟨length, all⟩ := parsePoints_legal parses
        simp only [List.length_cons, length, List.mem_cons]
        exact ⟨by omega, fun q mem => mem.elim (fun same => same ▸ legal) (all q)⟩
      split at parsed
      · next ranges =>
        obtain ⟨-, same, limit⟩ := ranges
        exact tail _ ⟨low1, high1, low2, high2, .inl ⟨rfl, same, limit⟩⟩ parsed
      · split at parsed
        · next ranges =>
          obtain ⟨-, wide, limit⟩ := ranges
          exact tail _ ⟨low1, high1, low2, high2, .inr ⟨rfl, wide, limit⟩⟩ parsed
        · cases parsed

/-- R22, R24 to R30: what is read is in its ranges. -/
theorem parseBody_legal {tag : Tag} {body : FrameBody} : ∀ {k : FrameKind} {cs : List Byte},
    parseBody k tag cs = some body → (Frame.mk tag body).Legal
  | .announce, [a, b, c, d, e, f, g], parsed => by
    rw [parseBody_announce, Option.ite_none_right_eq_some, Option.map_eq_some_iff] at parsed
    obtain ⟨⟨own, level⟩, cls, -, rfl⟩ := parsed
    exact ⟨own, one_le_toNat level, Nat.le_of_lt_succ g.isLt⟩
  | .menu, a :: b :: rest, parsed => by
    rw [parseBody_menu, Option.ite_none_right_eq_some, Option.map_eq_some_iff] at parsed
    obtain ⟨⟨low, high, length⟩, pts, read, rfl⟩ := parsed
    obtain ⟨number, legal⟩ := parsePoints_legal read
    exact ⟨by omega, by omega, legal⟩
  | .claim, [a, b, c, d, e, f, g], parsed => by
    rw [parseBody_claim, Option.ite_none_right_eq_some] at parsed
    obtain ⟨ranges, ⟨⟩⟩ := parsed
    exact ranges
  | .grant, [a, b, c], parsed => by
    rw [parseBody_grant, Option.ite_none_right_eq_some] at parsed
    obtain ⟨ranges, ⟨⟩⟩ := parsed
    exact ranges
  | .deny, [a], parsed => by
    rw [parseBody_deny, Option.map_eq_some_iff] at parsed
    obtain ⟨r, -, rfl⟩ := parsed
    trivial
  | .wait, [a], parsed => by
    rw [parseBody_wait, Option.ite_none_left_eq_some] at parsed
    obtain ⟨some, ⟨⟩⟩ := parsed
    exact ⟨one_le_toNat some, Nat.le_of_lt_succ a.isLt⟩
  | .ready, [a, b, c, d], parsed => by
    rw [parseBody_ready, Option.ite_none_right_eq_some] at parsed
    obtain ⟨ranges, ⟨⟩⟩ := parsed
    exact ranges
  | .renew, [a, b], parsed => by
    rw [parseBody_renew, Option.ite_none_right_eq_some] at parsed
    obtain ⟨range, ⟨⟩⟩ := parsed
    exact range
  | .keep, [a, b], parsed => by
    cases parsed
    trivial
  | .recall, [a, b, c], parsed => by
    rw [parseBody_recall, Option.ite_none_right_eq_some] at parsed
    obtain ⟨ranges, ⟨⟩⟩ := parsed
    exact ranges
  | .yield, [a, b], parsed => by
    rw [parseBody_yield, Option.ite_none_right_eq_some] at parsed
    obtain ⟨range, ⟨⟩⟩ := parsed
    exact range
  | .statusQ, [], parsed => by
    cases parsed
    trivial
  | .status, [a, b, c, d, e, f, g], parsed => by
    rw [parseBody_status, Option.ite_none_right_eq_some, Option.bind_eq_some_iff] at parsed
    obtain ⟨ranges, r, -, read⟩ := parsed
    obtain ⟨st, -, rfl⟩ := Option.map_eq_some_iff.1 read
    exact ranges
  | .ending, [a], parsed => by
    rw [parseBody_ending, Option.map_eq_some_iff] at parsed
    obtain ⟨r, -, rfl⟩ := parsed
    trivial

/-- R21, R22: the characters of a frame are a header, a length, a body and a check. -/
theorem validate_chars {f : Frame} (legal : f.Legal) : validate f.chars = .wellFormed f := by
  have read := parseBody_chars legal
  obtain ⟨kind, tag⟩ := headerByte_read f.tag f.body.kind
  have front : f.chars.dropLast = headerByte f.tag f.body.kind :: byte f.body.chars.length :: f.body.chars := by
    rw [Frame.chars, List.dropLast_concat]
    rfl
  have last : f.chars.getLast? = some (crc f.raw) := by rw [Frame.chars, List.getLast?_concat]
  simp only [validate, front, last, Frame.raw, if_true, kind, FrameKind.ofCode_code, tag, read]

theorem validate_legal {cs : List Byte} {f : Frame} (formed : validate cs = .wellFormed f) : f.Legal := by
  unfold validate at formed
  split at formed
  case h_2 => cases formed
  case h_1 h len body check front last =>
    split at formed
    case isFalse => cases formed
    case isTrue =>
      split at formed
      case h_2 => cases formed
      case h_1 k kind =>
        split at formed
        case h_2 => cases formed
        case h_1 b parsed =>
          cases formed
          exact parseBody_legal parsed

/-! ### The layouts (sections 2.2 and 12.2) -/

/-- R21: a frame by the numbers of its tag and kind, and its body. -/
def framedChars (tag : Tag) (kind : Nat) (body : List Byte) : List Byte :=
  let raw := BitVec.ofNat 8 (32 * tag.toNat + kind) :: BitVec.ofNat 8 body.length :: body
  raw ++ [crc raw]

theorem Frame.chars_framed {tag : Tag} {b : FrameBody} {kind : Nat} {body : List Byte} (code : b.kind.code.toNat = kind)
    (chars : b.chars = body) : (Frame.mk tag b).chars = framedChars tag kind body := by
  subst chars code
  simp only [Frame.chars, Frame.raw, framedChars, headerByte_eq]
  rfl

/-- Settles O45: reading undoes writing; what is read is in its ranges; each body by its layout. -/
theorem legalFramesAreReadBack : Obligations.LegalFramesAreReadBack := by
  unfold Obligations.LegalFramesAreReadBack
  intro pair quad bit framed
  refine ⟨fun f => validate_chars, fun cs f => validate_legal, rfl, rfl, rfl, rfl, fun tag => ?_⟩
  intro sent
  have quads : ∀ n, be32 n = quad n := be32_eq
  refine ⟨fun cls rc ans idn level => ?_, fun rc points => ?_, fun k => Frame.chars_framed rfl rfl, fun _ _ => Frame.chars_framed rfl rfl,
    fun _ => Frame.chars_framed rfl rfl, fun _ => Frame.chars_framed rfl rfl, fun _ _ => Frame.chars_framed rfl rfl,
    fun _ => Frame.chars_framed rfl rfl, fun _ => Frame.chars_framed rfl rfl, fun _ _ => Frame.chars_framed rfl rfl,
    fun _ => Frame.chars_framed rfl rfl, Frame.chars_framed rfl rfl, fun w r st v c => ?_, fun _ => Frame.chars_framed rfl rfl⟩
  · refine Frame.chars_framed rfl ?_
    have flags : flagBits [rc, false, false, false, false, false, false, ans] = bit rc 0 + bit ans 7 := by
      cases rc <;> cases ans <;> rfl
    rw [FrameBody.chars, flags, quads]
    rfl
  · refine Frame.chars_framed rfl ?_
    have flag : rc.toNat = bit rc 0 := by cases rc <;> rfl
    have kinds : Point.chars = fun p => BitVec.ofNat 8 (if p.kind = .window then 1 else 0) ::
        (pair p.v1 ++ pair p.v2 ++ pair p.limit) := by
      funext p
      obtain ⟨kind, -⟩ := p
      cases kind <;> rfl
    rw [FrameBody.chars, flag, kinds]
    rfl
  · refine Frame.chars_framed rfl ?_
    rw [FrameBody.chars, Nat.mul_comm r.code 16]
    rfl

end Sys2Proof.Machine
end

section
/-! SUPPORT. Requests and verdicts on the system link (R157 to R160, R164), and what is refused of them. -/

namespace Sys2Proof.Machine

/-! ### A request or verdict taken (R157 to R160) -/

section Taken
variable {s : State}

/-- R158 to R160: a request or verdict with its right check acts, and its RESPONSE is queued. -/
theorem State.taken_framed (takes : s.Takes) (raw : List Byte) (addr : Addr) (num code : Byte) (act : State → Reply) :
    s.taken raw (crc raw) addr num code act =
      (act s.acting).state.respond ⟨addr, num, code, (act s.acting).result, (act s.acting).data⟩ := by
  obtain ⟨receiving, room⟩ := takes
  have sound : ¬(crc raw ≠ crc raw ∨ 4 ≤ (s.onLink fun u => { u with receiver := .idle }).link.responses.length) := by
    simpa using room
  simp only [State.taken, if_pos receiving, if_neg sound]
  rfl

/-- R158, R160: a frame whose check differs, or that finds the response queue full, is dropped. -/
theorem State.taken_dropped (receiving : s.link.receiver = .receiving) {raw : List Byte} {check : Byte}
    (bad : check ≠ crc raw ∨ 4 ≤ s.link.responses.length) (addr : Addr) (num code : Byte) (act : State → Reply) :
    s.taken raw check addr num code act = { s with link := { s.link with receiver := .idle, linkError := true } } := by
  have unsound : crc raw ≠ check ∨ 4 ≤ (s.onLink fun u => { u with receiver := .idle }).link.responses.length :=
    bad.imp Ne.symm id
  simp only [State.taken, if_pos receiving, if_pos unsound]
  rfl

/-- R159: a REQUEST of a line with its right check and length acts. -/
theorem State.lineRequest_framed (takes : s.Takes) (code : Byte) (l : Line) (num : Byte) (args : List Byte)
    (act : Line → State → Reply) : s.lineRequest code args.length (Req.framed code (.line l) num args) act =
      .next ((act l s.acting).state.respond ⟨.line l, num, code, (act l s.acting).result, (act l s.acting).data⟩) := by
  simp only [State.lineRequest, State.request, Req.framed, State.taken_framed takes, lineReply, if_true]

/-- R63, R159: a LINE_CTRL action with its right check acts. -/
theorem State.lineControl_framed (takes : s.Takes) (action : Byte) (l : Line) (num a b : Byte) (act : Line → State → Reply) :
    s.lineControl action (Req.control action (.line l) num [a, b]) act =
      .next ((act l s.acting).state.respond ⟨.line l, num, 0x31, (act l s.acting).result, (act l s.acting).data⟩) := by
  simp only [State.lineControl, Req.control, State.taken_framed takes, lineReply, List.length_cons, List.length_nil,
    Nat.zero_add, Nat.reduceAdd, if_true]

/-- R159: a wrong address or length is answered BAD_REQUEST. -/
theorem State.deviceRequest_refused (takes : s.Takes) {addr : Addr} {args : List Byte} {len : Nat}
    (wrong : addr ≠ .device ∨ args.length ≠ len) (code num : Byte) (act : State → Reply) :
    s.deviceRequest code len (Req.framed code addr num args) act =
      .next (s.acting.respond ⟨addr, num, code, .badRequest, []⟩) := by
  have refused : deviceReply len (Req.framed code addr num args) act s.acting = s.acting.answer .badRequest := by
    cases addr with
    | device => exact if_neg (wrong.resolve_left fun other => other rfl)
    | line l => rfl
  simp only [State.deviceRequest, State.request, Req.framed, State.taken_framed takes]
  rw [show deviceReply len ⟨addr, num, args, crc (requestRaw addr num code args)⟩ act s.acting = _ from refused]
  rfl

theorem lineReply_refused {r : Req} {len : Nat} (wrong : r.addr = .device ∨ r.args.length ≠ len) (act : Line → State → Reply)
    (t : State) : lineReply len r act t = t.answer .badRequest := by
  obtain ⟨addr, num, args, check⟩ := r
  cases addr with
  | device => rfl
  | line l => exact if_neg (wrong.resolve_left nofun)

theorem State.lineRequest_refused (takes : s.Takes) {addr : Addr} {args : List Byte} {len : Nat}
    (wrong : addr = .device ∨ args.length ≠ len) (code num : Byte) (act : Line → State → Reply) :
    s.lineRequest code len (Req.framed code addr num args) act =
      .next (s.acting.respond ⟨addr, num, code, .badRequest, []⟩) := by
  have refused := lineReply_refused (r := Req.framed code addr num args) wrong act s.acting
  simp only [State.lineRequest, State.request, Req.framed, State.taken_framed takes] at refused ⊢
  rw [refused]
  rfl

theorem State.lineControl_refused (takes : s.Takes) {addr : Addr} {args : List Byte}
    (wrong : addr = .device ∨ args.length ≠ 2) (action num : Byte) (act : Line → State → Reply) :
    s.lineControl action (Req.control action addr num args) act =
      .next (s.acting.respond ⟨addr, num, 0x31, .badRequest, []⟩) := by
  have refused := lineReply_refused (r := Req.control action addr num args) wrong act s.acting
  simp only [State.lineControl, Req.control, State.taken_framed takes] at refused ⊢
  rw [refused]
  rfl

/-- R164: a VERDICT of a line with its right check. -/
theorem State.verdict_framed (takes : s.Takes) (decision : Byte) (addr : Addr) (tag point : Byte) (value : BitVec 16)
    (judge : Line → VerdictEntry → State → State × Result) {rep : Reply}
    (judged : (match addr with
      | .device => s.acting.answer .badRequest
      | .line l => match s.acting.verdictOf l with
        | some e => if e.tag = tag then (judge l e s.acting).1.answer (judge l e s.acting).2 else s.acting.answer .unknownTag
        | none => s.acting.answer .unknownTag) = rep) :
    s.verdict decision (VerdictReq.framed decision addr tag point value) judge =
      rep.state.respond ⟨addr, tag, 0x00, rep.result, rep.data⟩ := by
  subst judged
  exact State.taken_framed takes ..

end Taken

/-- R157: what a command of the controller is taken as. -/
theorem exec_of_asks {c : Instr} (asks : c.asks = true) (sound : c.wellFormed = true) :
    ∃ raw check addr num code act, linkCheck? c = some (raw, check) ∧
      ∀ s, exec c s = .next (s.taken raw check addr num code act) := by
  cases c
  case requestUnassigned code r =>
    have outside : code ∉ requestCodes := by
      simp only [Instr.wellFormed, Bool.and_eq_true, decide_eq_true_eq] at sound
      exact sound.2
    exact ⟨_, _, _, _, _, _, rfl, fun s => if_neg outside⟩
  case lineCtrlUnassigned r =>
    have outside : actionAssigned r.args = false := by
      simp only [Instr.wellFormed, Bool.and_eq_true, Bool.not_eq_true'] at sound
      exact sound.2
    exact ⟨_, _, _, _, _, _, rfl, fun s => if_neg (by simp [outside])⟩
  case verdictUnassigned code v =>
    have outside : 5 < code.toNat := of_decide_eq_true sound
    exact ⟨_, _, _, _, _, _, rfl, fun s => if_neg (by omega)⟩
  case identify | resetPart | quiet | stanceSet | tablePut | tableGet | prefPut | prefGet | menuPut | menuGet | budgetSet |
    budgetGet | budgetClear | lineSet | pause | release | mute | unmute | endLine | restart | renegotiate |
    recallRequest | contractGet | faultGet | faultAck | healthGet | healthClear | verdictAuto | verdictRefuse |
    verdictChoose | verdictGrant | verdictDeny | verdictWait =>
    exact ⟨_, _, _, _, _, _, rfl, fun s => rfl⟩
  all_goals exact absurd asks Bool.false_ne_true

/-- R164: a VERDICT of the device's address names no line. -/
theorem State.verdict_device {s : State} (takes : s.Takes) (decision tag point : Byte) (value : BitVec 16)
    (judge : Line → VerdictEntry → State → State × Result) :
    Host.Outcome.next (φ := Fault) (ρ := Refusal) (s.verdict decision (VerdictReq.framed decision .device tag point value) judge) =
      .next (s.acting.respond ⟨.device, tag, 0x00, .badRequest, []⟩) :=
  congrArg _ (State.verdict_framed takes decision .device tag point value judge rfl)

/-- Settles O47: what is refused, by the framing of each request; what is dropped, by the way every command of the controller
is taken. -/
theorem badRequestsAreRefused : Obligations.BadRequestsAreRefused := by
  intro s dropped
  refine ⟨fun takes addr num args => ?_, fun takes vtag point value => ?_, fun receiving c asks sound => ?_⟩
  · intro bad q r
    refine ⟨fun code outside => (if_neg outside).trans (congrArg _ (State.taken_framed takes ..)),
      fun outside => (if_neg (by simp [q, Req.framed, outside])).trans (congrArg _ (State.taken_framed takes ..)),
      fun n wrong => ?_, fun n wrong => ?_⟩
    · have device := fun code act => State.deviceRequest_refused takes wrong code num act
      refine ⟨?_, ?_, ?_, ?_, ?_, ?_, ?_, ?_⟩ <;> rintro rfl
      · exact ⟨device 0x01 _, device 0x02 _, device 0x21 _, device 0x22 _⟩
      · exact ⟨device 0x03 _, device 0x13 _, device 0x15 _⟩
      · exact device 0x11 _
      · exact device 0x04 _
      · exact device 0x20 _
      · exact device 0x14 _
      · exact device 0x12 _
      · exact device 0x10 _
    · have line := fun code act => State.lineRequest_refused takes wrong code num act
      refine ⟨?_, ?_, ?_, ?_⟩ <;> rintro rfl
      · exact ⟨line 0x33 _, line 0x34 _, line 0x35 _, line 0x36 _⟩
      · exact line 0x32 _
      · exact line 0x30 _
      · have control := fun action act => State.lineControl_refused takes wrong action num act
        simp only [List.forall_mem_cons, List.not_mem_nil, false_implies, implies_true, and_true]
        exact ⟨control 1 _, control 2 _, control 3 _, control 4 _, control 5 _, control 6 _, control 7 _, control 8 _⟩
  · intro v bad
    have device := fun decision judge => State.verdict_device takes decision vtag point value judge
    refine ⟨?_, fun code outside => (if_neg (by omega)).trans (device code _)⟩
    simp only [List.forall_mem_cons, List.not_mem_nil, false_implies, implies_true, and_true]
    exact ⟨device 0 _, device 1 _, device 2 _, device 3 _, device 4 _, device 5 _⟩
  · obtain ⟨raw, check, addr, num, code, act, given, taken⟩ := exec_of_asks asks sound
    refine ⟨⟨raw, check, given, fun differs => ?_⟩, fun full => ?_⟩
    · rw [taken, State.taken_dropped receiving (.inl differs)]
    · rw [taken, State.taken_dropped receiving (.inr full)]

end Sys2Proof.Machine
end

section
/-! SUPPORT. Proofs for the entries that requests store (R62, R70, R88, R119, R130, sections 12.5 and 12.6). -/

namespace Sys2Proof.Machine

/-! ### Masks and flags (R177) -/

/-- R177: the characters of an entry with the bits that carry a field. -/
def keepBits (masks cs : List Byte) : List Byte := cs.zipWith (· &&& ·) (masks ++ List.replicate 24 0xFF)

theorem zipWith_ones {cs : List Byte} {n : Nat} (few : cs.length ≤ n) : cs.zipWith (· &&& ·) (List.replicate n 0xFF) = cs := by
  induction cs generalizing n with
  | nil => rfl
  | cons c cs ih =>
    cases n with
    | zero => simp at few
    | succ n =>
      rw [List.replicate_succ, List.zipWith_cons_cons, ih (Nat.le_of_succ_le_succ few)]
      exact congrArg (· :: cs) (BitVec.and_allOnes (x := c))

/-- R177: the characters after the masked ones stand. -/
theorem keepBits_append {masks front back : List Byte} (same : front.length = masks.length) (few : back.length ≤ 24) :
    keepBits masks (front ++ back) = front.zipWith (· &&& ·) masks ++ back := by
  rw [keepBits, List.zipWith_append same, zipWith_ones few]

theorem nat16_lt (a b : Byte) : nat16 a b < 65536 := by
  have high := a.isLt
  have low := b.isLt
  simp only [nat16]
  omega

/-- R177: the two characters of the number that they carry. -/
theorem be16_nat16 (a b : Byte) : byte (nat16 a b / 256) = a ∧ byte (nat16 a b) = b := by
  have high := a.isLt
  have low := b.isLt
  refine ⟨BitVec.eq_of_toNat_eq ?_, BitVec.eq_of_toNat_eq ?_⟩
  all_goals
    simp only [nat16, byte, BitVec.toNat_ofNat]
    omega

theorem nat24_be24 {n : Nat} (fits : n < 16777216) : nat24 (byte (n / 65536)) (byte (n / 256)) (byte n) = n := by
  simp only [nat24, byte, BitVec.toNat_ofNat]
  omega

theorem be24_nat24 (a b c : Byte) : byte (nat24 a b c / 65536) = a ∧ byte (nat24 a b c / 256) = b ∧ byte (nat24 a b c) = c := by
  have high := a.isLt
  have mid := b.isLt
  have low := c.isLt
  refine ⟨BitVec.eq_of_toNat_eq ?_, BitVec.eq_of_toNat_eq ?_, BitVec.eq_of_toNat_eq ?_⟩
  all_goals
    simp only [nat24, byte, BitVec.toNat_ofNat]
    omega

theorem be32_word32 (a b c d : Byte) : be32 (word32 a b c d).toNat = [a, b, c, d] := by
  have h1 := a.isLt
  have h2 := b.isLt
  have h3 := c.isLt
  have h4 := d.isLt
  have number : (word32 a b c d).toNat = ((a.toNat * 256 + b.toNat) * 256 + c.toNat) * 256 + d.toNat := by
    simp only [word32, toNat_append_byte]
  simp only [be32, number, List.cons.injEq, and_true]
  refine ⟨BitVec.eq_of_toNat_eq ?_, BitVec.eq_of_toNat_eq ?_, BitVec.eq_of_toNat_eq ?_, BitVec.eq_of_toNat_eq ?_⟩
  all_goals
    simp only [byte, BitVec.toNat_ofNat]
    omega

theorem byte_toNat (b : Byte) : byte b.toNat = b := by simp [byte]

/-- Bit 0 alone. -/
theorem flag_and_one (b : Byte) : byte (b.getLsbD 0).toNat = b &&& 0x01 := by
  revert b
  decide

theorem getLsbD_and_one (b : Byte) : (b &&& 0x01).getLsbD 0 = b.getLsbD 0 := by
  revert b
  decide

theorem getLsbD_flag (b : Bool) : (byte b.toNat).getLsbD 0 = b := by cases b <;> rfl

/-! ### Preferences (R70) -/

theorem keepBits_pref (e : Byte) {back : List Byte} (few : back.length ≤ 24) : keepBits [0x01] (e :: back) = (e &&& 0x01) :: back :=
  keepBits_append (front := [e]) rfl few

theorem parsePref_legal {p : Preference} : ∀ {cs : List Byte}, parsePref cs = some p → p.Legal ∧ p.chars = keepBits [0x01] cs
  | [e, a, b, c, d, w1, w2, l1, l2], parsed => by
    rw [parsePref, Option.ite_none_right_eq_some] at parsed
    obtain ⟨ranges, ⟨⟩⟩ := parsed
    dsimp only [Preference.Legal] at ranges ⊢
    refine ⟨by omega, ?_⟩
    simp only [keepBits_pref e (back := [a, b, c, d, w1, w2, l1, l2]) (by simp), Preference.chars, be16, be16_nat16,
      flag_and_one, List.cons_append, List.nil_append]

theorem parsePref_keep : ∀ {cs : List Byte}, cs.length = 9 → parsePref (keepBits [0x01] cs) = parsePref cs
  | [e, a, b, c, d, w1, w2, l1, l2], _ => by
    simp only [keepBits_pref e (back := [a, b, c, d, w1, w2, l1, l2]) (by simp), parsePref, getLsbD_and_one]

theorem parsePref_chars {p : Preference} (legal : p.Legal) : parsePref p.chars = some p := by
  obtain ⟨enabled, vMin, vMax, wanted, least⟩ := p
  obtain ⟨r1, r2, r3, r4, r5, r6⟩ : 200 ≤ vMin ∧ vMin ≤ vMax ∧ vMax ≤ 1300 ∧ 1 ≤ least ∧ least ≤ wanted ∧ wanted ≤ 2500 := legal
  simp only [Preference.chars, be16, List.cons_append, List.nil_append, parsePref, getLsbD_flag,
    nat16_be16 (n := vMin) (by omega), nat16_be16 (n := vMax) (by omega), nat16_be16 (n := wanted) (by omega),
    nat16_be16 (n := least) (by omega)]
  exact if_pos (by omega)

/-! ### Supply entries (R87, R88) -/

theorem parseSupply_eq (e k a b c d m1 m2 : Byte) : parseSupply [e, k, a, b, c, d, m1, m2] =
    if 250 ≤ nat16 a b ∧ nat16 a b ≤ 1000 ∧ 250 ≤ nat16 c d ∧ nat16 c d ≤ 1000 then
      if k = 0 ∧ nat16 a b = nat16 c d ∧ nat16 m1 m2 ≤ 120 then
        some ⟨e.getLsbD 0, ⟨.fixed, nat16 a b, nat16 c d, nat16 m1 m2⟩⟩
      else if k = 1 ∧ nat16 a b < nat16 c d ∧ nat16 m1 m2 ≤ 600 then
        some ⟨e.getLsbD 0, ⟨.window, nat16 a b, nat16 c d, nat16 m1 m2⟩⟩
      else none
    else none := rfl

theorem parseSupply_legal {entry : SupplyEntry} : ∀ {cs : List Byte}, parseSupply cs = some entry →
    entry.Legal ∧ entry.chars = keepBits [0x01] cs
  | [e, k, a, b, c, d, m1, m2], parsed => by
    rw [parseSupply_eq, Option.ite_none_right_eq_some] at parsed
    obtain ⟨⟨low1, high1, low2, high2⟩, parsed⟩ := parsed
    have chars : ∀ kind : PointKind, byte kind.code = k →
        (⟨e.getLsbD 0, ⟨kind, nat16 a b, nat16 c d, nat16 m1 m2⟩⟩ : SupplyEntry).chars =
          keepBits [0x01] [e, k, a, b, c, d, m1, m2] := by
      rintro kind rfl
      simp only [keepBits_pref e (back := [byte kind.code, a, b, c, d, m1, m2]) (by simp), SupplyEntry.chars, Point.chars, be16,
        be16_nat16, flag_and_one, List.cons_append, List.nil_append]
    split at parsed
    case isTrue fixed =>
      obtain ⟨rfl, same, limit⟩ := fixed
      cases parsed
      exact ⟨⟨low1, high1, low2, high2, .inl ⟨rfl, same, limit⟩⟩, chars .fixed rfl⟩
    case isFalse =>
      rw [Option.ite_none_right_eq_some] at parsed
      obtain ⟨⟨rfl, wide, limit⟩, ⟨⟩⟩ := parsed
      exact ⟨⟨low1, high1, low2, high2, .inr ⟨rfl, wide, limit⟩⟩, chars .window rfl⟩

theorem parseSupply_keep : ∀ {cs : List Byte}, cs.length = 8 → parseSupply (keepBits [0x01] cs) = parseSupply cs
  | [e, k, a, b, c, d, m1, m2], _ => by
    simp only [keepBits_pref e (back := [k, a, b, c, d, m1, m2]) (by simp), parseSupply_eq, getLsbD_and_one]

theorem parseSupply_chars {entry : SupplyEntry} (legal : entry.Legal) : parseSupply entry.chars = some entry := by
  obtain ⟨enabled, kind, v1, v2, limit⟩ := entry
  obtain ⟨low1, high1, low2, high2, ranges⟩ : 250 ≤ v1 ∧ v1 ≤ 1000 ∧ 250 ≤ v2 ∧ v2 ≤ 1000 ∧
    ((kind = .fixed ∧ v1 = v2 ∧ limit ≤ 120) ∨ (kind = .window ∧ v1 < v2 ∧ limit ≤ 600)) := legal
  simp only [SupplyEntry.chars, Point.chars, be16, List.cons_append, List.nil_append, parseSupply_eq, getLsbD_flag,
    nat16_be16 (n := v1) (by omega), nat16_be16 (n := v2) (by omega), nat16_be16 (n := limit) (by omega), low1, high1, low2,
    high2, and_self, if_true]
  rcases ranges with ⟨rfl, same, small⟩ | ⟨rfl, wide, small⟩
  · exact if_pos ⟨rfl, same, small⟩
  · have other : ¬(byte PointKind.window.code = 0 ∧ v1 = v2 ∧ limit ≤ 120) := by omega
    exact (if_neg other).trans (if_pos ⟨rfl, wide, small⟩)

/-! ### Rule entries (R119) -/

theorem Action.code_of_ofCode {n : Nat} {a : Action} (named : Action.ofCode n = some a) : a.code = n := by
  unfold Action.ofCode at named
  split at named <;> cases named <;> rfl

/-- Section 12.6: the first character of a rule entry, written and read. -/
theorem ruleHead_written (h : Byte) : byte ((h.getLsbD 7).toNat * 128 + (h.getLsbD 6).toNat * 64 + h.toNat / 8 % 8 * 8 +
    h.toNat % 8) = h := by
  revert h
  decide

theorem ruleHead_read (enabled report : Bool) (act fallback : Action) :
    let h := byte (enabled.toNat * 128 + report.toNat * 64 + act.code * 8 + fallback.code)
    h.getLsbD 7 = enabled ∧ h.getLsbD 6 = report ∧ Action.ofCode (h.toNat / 8 % 8) = some act ∧
      Action.ofCode (h.toNat % 8) = some fallback := by
  cases enabled <;> cases report <;> cases act <;> cases fallback <;> exact ⟨rfl, rfl, rfl, rfl⟩

/-- Section 12.6: the flags of the conditions. -/
theorem conditionFlags_written (b : Byte) : byte (flagBits [b.getLsbD 0, b.getLsbD 1, b.getLsbD 2, b.getLsbD 3, b.getLsbD 4]) =
    b &&& 0x1F := by
  revert b
  decide

theorem conditionFlags_read (f0 f1 f2 f3 f4 : Bool) : let b := byte (flagBits [f0, f1, f2, f3, f4])
    b.getLsbD 0 = f0 ∧ b.getLsbD 1 = f1 ∧ b.getLsbD 2 = f2 ∧ b.getLsbD 3 = f3 ∧ b.getLsbD 4 = f4 := by
  revert f0 f1 f2 f3 f4
  decide

theorem conditionFlags_kept (b : Byte) : (b &&& 0x1F).getLsbD 0 = b.getLsbD 0 ∧ (b &&& 0x1F).getLsbD 1 = b.getLsbD 1 ∧
    (b &&& 0x1F).getLsbD 2 = b.getLsbD 2 ∧ (b &&& 0x1F).getLsbD 3 = b.getLsbD 3 ∧ (b &&& 0x1F).getLsbD 4 = b.getLsbD 4 := by
  revert b
  decide

/-- Section 12.6: the marks of lines, kinds and classes. -/
theorem narrow_written (b : Byte) : byte (b.setWidth 4).toNat = b &&& 0x0F ∧ byte (b.setWidth 3).toNat = b &&& 0x07 := by
  revert b
  decide

theorem narrow_kept (b : Byte) : (b &&& 0x0F).setWidth 4 = b.setWidth 4 ∧ (b &&& 0x07).setWidth 3 = b.setWidth 3 := by
  revert b
  decide

theorem lines_read (x : BitVec 4) : (byte x.toNat).setWidth 4 = x := by
  revert x
  decide

theorem kinds_read (x : BitVec 3) : (byte x.toNat).setWidth 3 = x := by
  revert x
  decide

/-- Section 12.6: the record that the characters of a rule entry lay out. -/
def ruleRead (h lm km pm cm i1 i2 i3 i4 m1 m2 m3 m4 v1 v2 v3 v4 p1 p2 p3 p4 st c1 c2 : Byte) (act fallback : Action) :
    RuleEntry where
  enabled := h.getLsbD 7
  report := h.getLsbD 6
  action := act
  fallback := fallback
  lines := lm.setWidth 4
  kinds := km.setWidth 3
  hasVoltage := pm.getLsbD 0
  hasPower := pm.getLsbD 1
  hasStance := pm.getLsbD 2
  hasClass := pm.getLsbD 3
  hasIdentity := pm.getLsbD 4
  classes := cm.setWidth 4
  identity := word32 i1 i2 i3 i4
  mask := word32 m1 m2 m3 m4
  vMin := nat16 v1 v2
  vMax := nat16 v3 v4
  pMin := nat16 p1 p2
  pMax := nat16 p3 p4
  stance := st
  clamp := nat16 c1 c2
  hits := 0

/-- R119: what makes TABLE_PUT refuse a rule entry. -/
def RuleEntry.OutOfRange (e : RuleEntry) : Prop :=
  e.fallback = .forward ∨ (e.enabled = true ∧ e.kinds = 0) ∨
    (e.hasVoltage = true ∧ (e.vMin < 200 ∨ 1300 < e.vMin ∨ e.vMax < 200 ∨ 1300 < e.vMax ∨ e.vMax < e.vMin)) ∨
    (e.hasPower = true ∧ (2500 < e.pMin ∨ 2500 < e.pMax ∨ e.pMax < e.pMin)) ∨
    (e.hasStance = true ∧ 1 < e.stance.toNat) ∨ 2500 < e.clamp ∨
    ((e.action = .clamp ∨ (e.action = .forward ∧ e.fallback = .clamp)) ∧ e.clamp = 0)

theorem parseRule_eq_some_iff {e : RuleEntry} (h lm km pm cm i1 i2 i3 i4 m1 m2 m3 m4 v1 v2 v3 v4 p1 p2 p3 p4 st c1 c2 : Byte) :
    parseRule [h, lm, km, pm, cm, i1, i2, i3, i4, m1, m2, m3, m4, v1, v2, v3, v4, p1, p2, p3, p4, st, c1, c2] = some e ↔
      ∃ act fallback, Action.ofCode (h.toNat / 8 % 8) = some act ∧ Action.ofCode (h.toNat % 8) = some fallback ∧
        ¬e.OutOfRange ∧
        e = ruleRead h lm km pm cm i1 i2 i3 i4 m1 m2 m3 m4 v1 v2 v3 v4 p1 p2 p3 p4 st c1 c2 act fallback := by
  cases act : Action.ofCode (h.toNat / 8 % 8) with
  | none => simp [parseRule, act]
  | some act =>
    cases fallback : Action.ofCode (h.toNat % 8) with
    | none => simp [parseRule, act, fallback]
    | some fallback =>
      simp only [parseRule, act, fallback, Option.ite_none_left_eq_some, Option.some.injEq]
      refine ⟨?_, ?_⟩
      · rintro ⟨sound, rfl⟩
        exact ⟨_, _, rfl, rfl, sound, rfl⟩
      · rintro ⟨_, _, rfl, rfl, sound, rfl⟩
        exact ⟨sound, rfl⟩

theorem RuleEntry.legal_iff (e : RuleEntry) :
    e.Legal ↔ ¬e.OutOfRange ∧ e.hits = 0 ∧ e.vMin < 65536 ∧ e.vMax < 65536 ∧ e.pMin < 65536 ∧ e.pMax < 65536 := by
  refine ⟨fun legal => ⟨fun bad => ?_, legal.hits, legal.fits⟩, fun sound => ?_⟩
  · obtain ⟨fallback, kinds, voltage, power, stance, ⟨clamp, clamps⟩, -, -⟩ := legal
    rcases bad with back | ⟨on, none⟩ | ⟨uses, range⟩ | ⟨uses, range⟩ | ⟨uses, range⟩ | range | ⟨uses, zero⟩
    · exact fallback back
    · exact kinds on none
    · have := voltage uses
      omega
    · have := power uses
      omega
    · have := stance uses
      omega
    · omega
    · have := clamps uses
      omega
  · obtain ⟨sound, hits, fits⟩ := sound
    simp only [RuleEntry.OutOfRange, not_or, not_and, Nat.not_lt] at sound
    obtain ⟨fallback, kinds, voltage, power, stance, clamp, clamps⟩ := sound
    exact ⟨fallback, kinds, fun uses => ⟨(voltage uses).1, (voltage uses).2.2.2.2, (voltage uses).2.2.2.1⟩,
      fun uses => ⟨(power uses).2.2, (power uses).2.1⟩, stance, ⟨clamp, fun uses => Nat.one_le_iff_ne_zero.2 (clamps uses)⟩, hits,
      fits⟩

theorem keepBits_rule {h lm km pm cm : Byte} {back : List Byte} (few : back.length ≤ 24) :
    keepBits [0xFF, 0x0F, 0x07, 0x1F, 0x0F] (h :: lm :: km :: pm :: cm :: back) =
      h :: (lm &&& 0x0F) :: (km &&& 0x07) :: (pm &&& 0x1F) :: (cm &&& 0x0F) :: back := by
  refine (keepBits_append (masks := [0xFF, 0x0F, 0x07, 0x1F, 0x0F]) (front := [h, lm, km, pm, cm]) rfl few).trans ?_
  exact congrArg (· :: _) (BitVec.and_allOnes (x := h))

theorem parseRule_legal {e : RuleEntry} : ∀ {cs : List Byte}, parseRule cs = some e →
    e.Legal ∧ e.chars = keepBits [0xFF, 0x0F, 0x07, 0x1F, 0x0F] cs
  | [h, lm, km, pm, cm, i1, i2, i3, i4, m1, m2, m3, m4, v1, v2, v3, v4, p1, p2, p3, p4, st, c1, c2], parsed => by
    obtain ⟨act, fallback, isAct, isFallback, sound, rfl⟩ := (parseRule_eq_some_iff ..).1 parsed
    refine ⟨(RuleEntry.legal_iff _).2 ⟨sound, rfl, nat16_lt .., nat16_lt .., nat16_lt .., nat16_lt ..⟩, ?_⟩
    rw [keepBits_rule (by simp)]
    simp only [RuleEntry.chars, ruleRead, Action.code_of_ofCode isAct, Action.code_of_ofCode isFallback, ruleHead_written,
      conditionFlags_written, narrow_written, be32_word32, be16, be16_nat16, List.cons_append, List.nil_append]

theorem parseRule_keep : ∀ {cs : List Byte}, cs.length = 24 →
    parseRule (keepBits [0xFF, 0x0F, 0x07, 0x1F, 0x0F] cs) = parseRule cs
  | [h, lm, km, pm, cm, i1, i2, i3, i4, m1, m2, m3, m4, v1, v2, v3, v4, p1, p2, p3, p4, st, c1, c2], _ => by
    rw [keepBits_rule (by simp)]
    simp only [parseRule, conditionFlags_kept, narrow_kept]

theorem parseRule_chars {e : RuleEntry} (legal : e.Legal) : parseRule e.chars = some e := by
  obtain ⟨sound, hits, v1, v2, p1, p2⟩ := e.legal_iff.1 legal
  have zero : e = { e with hits := 0 } := by rw [← hits]
  have clamp := legal.clamp.1
  obtain ⟨head7, head6, act, fallback⟩ := ruleHead_read e.enabled e.report e.action e.fallback
  obtain ⟨f0, f1, f2, f3, f4⟩ := conditionFlags_read e.hasVoltage e.hasPower e.hasStance e.hasClass e.hasIdentity
  refine (parseRule_eq_some_iff ..).2 ⟨e.action, e.fallback, act, fallback, sound, ?_⟩
  simp only [ruleRead, head7, head6, f0, f1, f2, f3, f4, lines_read, kinds_read, word32_be32, nat16_be16 v1, nat16_be16 v2,
    nat16_be16 p1, nat16_be16 p2, nat16_be16 (n := e.clamp) (by omega)]
  exact zero

/-! ### Options (R62) -/

/-- Section 12.5: the characters of a line's options. -/
def Options.written (o : Options) : List Byte :=
  [byte o.timeoutIndex, byte o.lease, byte o.baseline,
    byte ((if o.holdAfterActive then 2 ^ 0 else 0) + 2 * o.capMode.code + (if o.roles.draw then 2 ^ 4 else 0) +
      (if o.roles.supply then 2 ^ 5 else 0)), byte (o.allowance / 65536), byte (o.allowance / 256), byte o.allowance]

theorem CapMode.code_of_ofCode {n : Nat} {mode : CapMode} (named : CapMode.ofCode n = some mode) : mode.code = n := by
  unfold CapMode.ofCode at named
  split at named <;> cases named <;> rfl

theorem optionFlags_written {f : Byte} {mode : CapMode} (named : CapMode.ofCode (f.toNat / 2 % 4) = some mode) :
    byte ((if f.getLsbD 0 then 2 ^ 0 else 0) + 2 * mode.code + (if f.getLsbD 4 then 2 ^ 4 else 0) +
      (if f.getLsbD 5 then 2 ^ 5 else 0)) = f &&& 0x37 := by
  rw [CapMode.code_of_ofCode named]
  clear named
  revert f
  decide

theorem optionFlags_read (hold draw supply : Bool) (mode : CapMode) :
    let f := byte ((if hold then 2 ^ 0 else 0) + 2 * mode.code + (if draw then 2 ^ 4 else 0) + (if supply then 2 ^ 5 else 0))
    f.getLsbD 0 = hold ∧ f.getLsbD 4 = draw ∧ f.getLsbD 5 = supply ∧ CapMode.ofCode (f.toNat / 2 % 4) = some mode := by
  cases hold <;> cases draw <;> cases supply <;> cases mode <;> exact ⟨rfl, rfl, rfl, rfl⟩

theorem optionFlags_kept (f : Byte) : (f &&& 0x37).getLsbD 0 = f.getLsbD 0 ∧ (f &&& 0x37).getLsbD 4 = f.getLsbD 4 ∧
    (f &&& 0x37).getLsbD 5 = f.getLsbD 5 ∧ (f &&& 0x37).toNat / 2 % 4 = f.toNat / 2 % 4 := by
  revert f
  decide

theorem keepBits_options {t lease base f : Byte} {back : List Byte} (few : back.length ≤ 24) :
    keepBits [0xFF, 0xFF, 0xFF, 0x37] (t :: lease :: base :: f :: back) = t :: lease :: base :: (f &&& 0x37) :: back := by
  refine (keepBits_append (masks := [0xFF, 0xFF, 0xFF, 0x37]) (front := [t, lease, base, f]) rfl few).trans ?_
  show (t &&& BitVec.allOnes 8) :: (lease &&& BitVec.allOnes 8) :: (base &&& BitVec.allOnes 8) :: (f &&& 0x37) :: back = _
  simp only [BitVec.and_allOnes]

theorem parseOptions_legal {o : Options} : ∀ {cs : List Byte}, parseOptions cs = some o →
    o.Legal ∧ o.written = keepBits [0xFF, 0xFF, 0xFF, 0x37] cs
  | [t, lease, base, f, a1, a2, a3], parsed => by
    simp only [parseOptions] at parsed
    split at parsed
    case h_2 => cases parsed
    case h_1 mode named =>
      rw [Option.ite_none_right_eq_some] at parsed
      obtain ⟨⟨index, short, long, low, high⟩, ⟨⟩⟩ := parsed
      rw [keepBits_options (by simp)]
      have bound : nat24 a1 a2 a3 ≤ 16777215 := by
        have h1 := a1.isLt
        have h2 := a2.isLt
        have h3 := a3.isLt
        simp only [nat24]
        omega
      refine ⟨⟨index, short, long, low, high, bound⟩, ?_⟩
      simp only [Options.written, byte_toNat, optionFlags_written named, be24_nat24]

theorem parseOptions_keep : ∀ {cs : List Byte}, cs.length = 7 →
    parseOptions (keepBits [0xFF, 0xFF, 0xFF, 0x37] cs) = parseOptions cs
  | [t, lease, base, f, a1, a2, a3], _ => by
    rw [keepBits_options (by simp)]
    simp only [parseOptions, optionFlags_kept]

theorem parseOptions_written {o : Options} (legal : o.Legal) : parseOptions o.written = some o := by
  obtain ⟨index, lease, base, hold, mode, allowance, draw, supply⟩ := o
  obtain ⟨small, short, long, low, high, bound⟩ : index ≤ 3 ∧ 1 ≤ lease ∧ lease ≤ 120 ∧ 4 ≤ base ∧ base ≤ 60 ∧
    allowance ≤ 16777215 := legal
  obtain ⟨flag0, flag4, flag5, named⟩ := optionFlags_read hold draw supply mode
  simp only [Options.written, parseOptions, named, flag0, flag4, flag5, byte_toNat_of_lt (n := index) (by omega),
    byte_toNat_of_lt (n := lease) (by omega), byte_toNat_of_lt (n := base) (by omega), nat24_be24 (n := allowance) (by omega),
    small, short, long, low, high, and_self, if_true]

/-! ### Ceilings and rank (R130) -/

/-- Section 12.5 note 2: the character of a rank. -/
theorem parseRank_byte (r0 r1 r2 r3 : Line) :
    parseRank (byte (64 * r0.index + 16 * r1.index + 4 * r2.index + r3.index)) = [r0, r1, r2, r3] := by
  cases r0 <;> cases r1 <;> cases r2 <;> cases r3 <;> rfl

theorem lineOf_index (n : Nat) : (lineOf n).index = n % 4 := by
  have four : n % 4 = 0 ∨ n % 4 = 1 ∨ n % 4 = 2 ∨ n % 4 = 3 := by omega
  rcases four with low | low | low | low <;> simp [lineOf, low, Line.index]

theorem rank_written (r : Byte) : byte (64 * (lineOf (r.toNat / 64)).index + 16 * (lineOf (r.toNat / 16)).index +
    4 * (lineOf (r.toNat / 4)).index + (lineOf r.toNat).index) = r := by
  refine BitVec.eq_of_toNat_eq ?_
  have bound := r.isLt
  simp only [lineOf_index, byte, BitVec.toNat_ofNat]
  omega

theorem parseBudget_eq_some_iff (a b c d r : Byte) (input supply : Nat) (rank : List Line) :
    parseBudget [a, b, c, d, r] = some (input, supply, rank) ↔
      (nat16 a b ≤ 2500 ∧ nat16 c d ≤ 1000 ∧ (parseRank r).Nodup) ∧ nat16 a b = input ∧ nat16 c d = supply ∧
        parseRank r = rank := by
  simp only [parseBudget, Option.ite_none_right_eq_some, Option.some.injEq, Prod.mk.injEq]

theorem parseBudget_iff {input supply : Nat} {r0 r1 r2 r3 : Line} : ∀ {cs : List Byte}, cs.length = 5 →
    (parseBudget cs = some (input, supply, [r0, r1, r2, r3]) ↔
      input ≤ 2500 ∧ supply ≤ 1000 ∧ [r0, r1, r2, r3].Nodup ∧
        cs = be16 input ++ be16 supply ++ [byte (64 * r0.index + 16 * r1.index + 4 * r2.index + r3.index)])
  | [a, b, c, d, r], _ => by
    rw [parseBudget_eq_some_iff]
    refine ⟨?_, ?_⟩
    · rintro ⟨⟨small, low, distinct⟩, rfl, rfl, rank⟩
      rw [rank] at distinct
      simp only [parseRank, List.cons.injEq, and_true] at rank
      obtain ⟨rfl, rfl, rfl, rfl⟩ := rank
      refine ⟨small, low, distinct, ?_⟩
      simp only [be16, be16_nat16, rank_written, List.cons_append, List.nil_append]
    · rintro ⟨small, low, distinct, chars⟩
      simp only [be16, List.cons_append, List.nil_append, List.cons.injEq, and_true] at chars
      obtain ⟨rfl, rfl, rfl, rfl, rfl⟩ := chars
      rw [nat16_be16 (by omega), nat16_be16 (by omega), parseRank_byte]
      exact ⟨⟨small, low, distinct⟩, rfl, rfl, rfl⟩

theorem parseBudget_rank {input supply : Nat} {rank : List Line} : ∀ {cs : List Byte},
    parseBudget cs = some (input, supply, rank) → rank.length = 4
  | [a, b, c, d, r], parsed => by
    obtain ⟨-, -, -, rfl⟩ := (parseBudget_eq_some_iff ..).1 parsed
    rfl

/-- Settles O48: each reading is legal and gives back the characters; each legal entry is read back from them. -/
theorem entriesHaveTheirLayouts : Obligations.EntriesHaveTheirLayouts := by
  unfold Obligations.EntriesHaveTheirLayouts
  intro pair bit keep
  refine ⟨rfl, rfl, rfl, fun e => ?_, fun p => ?_, fun e => ?_, fun cs e length => ⟨parseRule_legal, fun written => ?_⟩,
    fun cs p length => ⟨parsePref_legal, fun written => ?_⟩, fun cs e length => ⟨parseSupply_legal, fun written => ?_⟩,
    fun cs o length => ⟨parseOptions_legal, fun written => ?_⟩, fun cs input supply r0 r1 r2 r3 length => parseBudget_iff length,
    fun cs input supply rank => parseBudget_rank⟩
  · have head : e.enabled.toNat * 128 + e.report.toNat * 64 + e.action.code * 8 + e.fallback.code =
        bit e.enabled 7 + bit e.report 6 + 8 * e.action.code + e.fallback.code := by
      rw [Nat.mul_comm e.action.code]
      cases e.enabled <;> cases e.report <;> rfl
    have flags : flagBits [e.hasVoltage, e.hasPower, e.hasStance, e.hasClass, e.hasIdentity] =
        bit e.hasVoltage 0 + bit e.hasPower 1 + bit e.hasStance 2 + bit e.hasClass 3 + bit e.hasIdentity 4 := by
      cases e.hasVoltage <;> cases e.hasPower <;> cases e.hasStance <;> cases e.hasClass <;> cases e.hasIdentity <;> rfl
    rw [RuleEntry.chars, head, flags, be32_eq, be32_eq]
    rfl
  · have flag : p.enabled.toNat = bit p.enabled 0 := by cases p.enabled <;> rfl
    rw [Preference.chars, flag]
    rfl
  · have flag : e.enabled.toNat = bit e.enabled 0 := by cases e.enabled <;> rfl
    rw [SupplyEntry.chars, flag]
    obtain ⟨enabled, kind, v1, v2, limit⟩ := e
    cases kind <;> rfl
  · rw [← parseRule_keep length]
    exact (congrArg parseRule written.2.symm).trans (parseRule_chars written.1)
  · rw [← parsePref_keep length]
    exact (congrArg parsePref written.2.symm).trans (parsePref_chars written.1)
  · rw [← parseSupply_keep length]
    exact (congrArg parseSupply written.2.symm).trans (parseSupply_chars written.1)
  · rw [← parseOptions_keep length]
    exact (congrArg parseOptions written.2.symm).trans (parseOptions_written written.1)

end Sys2Proof.Machine
end

section
/-! SUPPORT. Proofs for the records that requests read (R133, R153, R156, R177, R179, sections 12.4, 12.5 and 12.7). -/

namespace Sys2Proof.Machine

/-- The weight of a flag at a bit (R177). -/
def flagWeight (b : Bool) (i : Nat) : Nat := if b then 2 ^ i else 0

theorem flagWeight_eq (b : Bool) (i : Nat) : flagWeight b i = b.toNat * 2 ^ i := by
  cases b <;> simp [flagWeight]

theorem flagWeight_zero (b : Bool) : flagWeight b 0 = b.toNat := by
  rw [flagWeight_eq, pow_zero, Nat.mul_one]

theorem flagBits_eight (b0 b1 b2 b3 b4 b5 b6 b7 : Bool) : flagBits [b0, b1, b2, b3, b4, b5, b6, b7] =
    flagWeight b0 0 + flagWeight b1 1 + flagWeight b2 2 + flagWeight b3 3 + flagWeight b4 4 + flagWeight b5 5 +
      flagWeight b6 6 + flagWeight b7 7 := by
  simp only [flagBits, flagWeight_eq]
  omega

theorem flagBits_four (b0 b1 b2 b3 : Bool) : flagBits [b0, b1, b2, b3] =
    flagWeight b0 0 + flagWeight b1 1 + flagWeight b2 2 + flagWeight b3 3 := by
  simp only [flagBits, flagWeight_eq]
  omega

theorem flagBits_three (b0 b1 b2 : Bool) : flagBits [b0, b1, b2] =
    flagWeight b0 0 + flagWeight b1 1 + flagWeight b2 2 := by
  simp only [flagBits, flagWeight_eq]
  omega

/-- Section 12.5 note 2: the rank character. -/
theorem packLines_eq (ls : List Line) : packLines ls = 64 * orZero ls[0]? Line.index + 16 * orZero ls[1]? Line.index +
    4 * orZero ls[2]? Line.index + orZero ls[3]? Line.index := by
  have written : packLines ls = orZero ls[0]? Line.index * 64 + (orZero ls[1]? Line.index * 16 +
    (orZero ls[2]? Line.index * 4 + (orZero ls[3]? Line.index * 1 + 0))) := rfl
  omega

theorem orZero_map {α β : Type} (x : Option α) (f : α → β) (g : β → Nat) : orZero (x.map f) g = orZero x fun a => g (f a) := by
  cases x <;> rfl

/-- The budget record, written line by line (section 12.7). -/
theorem Budget.chars_eq (b : Budget) : b.chars = be16 b.inputCeiling ++ be16 b.supplyCeiling ++ [byte (packLines b.rank)] ++
    be16 b.committedDraw ++ be16 b.committedSupply ++ be16 b.drawHeadroom ++ be16 b.supplyHeadroom ++
    [byte (flagBits [b.drawOver, b.supplyOver, false, false, (b.alloc.get .l0).isSome, (b.alloc.get .l1).isSome,
      (b.alloc.get .l2).isSome, (b.alloc.get .l3).isSome])] ++
    (([Line.l0, .l1, .l2, .l3].map fun l => be16 (b.drawCommit.get l) ++ be16 (orZero (b.alloc.get l) Allocation.power) ++
      be16 (orZero (b.alloc.get l) Allocation.current)).flatten) ++
    [byte b.order.length, byte (packLines (b.order.map GrantEntry.line))] ++
    (([0, 1, 2, 3].map fun i => be16 (orZero b.order[i]? GrantEntry.commitment) ++
      be16 (orZero b.order[i]? GrantEntry.recallVoltage)).flatten) := rfl

theorem outcomeCode_eq (x : Option Outcome) : outcomeCode x = orZero x Outcome.code := by
  cases x <;> rfl

theorem roles_code (r : RoleSet) : 32 * r.code = flagWeight r.draw 5 + flagWeight r.supply 6 := by
  simp only [RoleSet.code, flagBits, flagWeight_eq]
  omega

theorem getD_toNat (x : Option Bool) : (x.getD false).toNat = flagWeight (x == some true) 0 := by
  obtain _ | _ | _ := x <;> rfl

theorem map_getD_any {α : Type} (x : Option α) (p : α → Bool) : (x.map p).getD false = x.any p := by
  cases x <;> rfl

theorem tagPoint_eq (tag : Tag) (pt : Nat) : tagPoint tag pt = byte (32 * tag.toNat + pt) := by
  rw [tagPoint, Nat.mul_comm]

/-- Section 12.7: the agreement's characters, with 0 for an absent one. -/
def agreementChars : Option Agreement → List Byte
  | some a => be16 a.voltage ++ be16 a.current ++ [byte a.lease, byte a.point]
  | none => List.replicate 6 0

theorem agreementChars_eq (x : Option Agreement) : agreementChars x =
    be16 (orZero x Agreement.voltage) ++ be16 (orZero x Agreement.current) ++
      [byte (orZero x Agreement.lease), byte (orZero x Agreement.point)] := by
  cases x <;> rfl

/-- Section 12.7: the claim's characters, with 0 for an absent one. -/
def claimChars : Option OutClaim → List Byte
  | some k => be16 k.fields.voltage ++ be16 k.fields.claimed ++ be16 k.fields.least ++ [tagPoint k.tag k.fields.point]
  | none => List.replicate 7 0

theorem claimChars_eq (x : Option OutClaim) : claimChars x =
    be16 (orZero x fun k => k.fields.voltage) ++ be16 (orZero x fun k => k.fields.claimed) ++
      be16 (orZero x fun k => k.fields.least) ++ [byte (orZero x fun k => 32 * k.tag.toNat + k.fields.point)] := by
  cases x with
  | none => rfl
  | some k => rw [claimChars, tagPoint_eq]; rfl

/-- Section 12.7: the grant's characters, with 0 for an absent one. -/
def grantChars : Option PowerGrant → List Byte
  | some g => be16 g.voltage ++ be16 g.current ++ [byte g.lease, tagPoint g.tag g.point]
  | none => List.replicate 6 0

theorem grantChars_eq (x : Option PowerGrant) : grantChars x =
    be16 (orZero x fun g => g.voltage) ++ be16 (orZero x fun g => g.current) ++
      [byte (orZero x fun g => g.lease), byte (orZero x fun g => 32 * g.tag.toNat + g.point)] := by
  cases x with
  | none => rfl
  | some g => rw [grantChars, tagPoint_eq]; rfl

theorem quad_eq : be32 = fun n => [BitVec.ofNat 8 (n / 65536 / 256), BitVec.ofNat 8 (n / 65536)] ++
    [BitVec.ofNat 8 (n / 256), BitVec.ofNat 8 n] :=
  funext be32_eq

/-- Section 12.7: part 0 of a contract record, with its three absent or present records by their own layouts. -/
theorem Contract.part0_eq (c : Contract) (st : Straps) : c.part0 st =
    [byte c.state.code, byte c.role.code,
      byte (flagBits [c.far.isSome, c.farMenu.isSome, c.offered.isSome, c.agreement.isSome, c.claim.isSome,
        c.grant.isSome, c.recallOut.isSome, c.target.isSome]),
      byte (flagBits [c.leaseDeadline.isSome, c.lineClamp.isSome, c.lastOutcome.isSome, c.paused, c.deferred, c.unmanaged,
        c.lastFrameFault, (c.offered.map OfferedMenu.held).getD false])] ++
    (byte (orZero c.far fun f => f.cls.code) :: byte (c.farRecall.getD false).toNat ::
      (be32 (orZero c.far fun f => f.identity.toNat) ++ [byte (orZero c.far FarFields.level)])) ++
    agreementChars c.agreement ++ claimChars c.claim ++ grantChars c.grant ++
    [byte (c.cursor.pref * 16 + c.cursor.point),
      byte (c.waitStreak + c.greetingCount * 16 + c.greetingStopped.toNat * 64), byte c.tagCounter.toNat] ++
    be32 (orZero c.leaseDeadline BitVec.toNat) ++ be16 (orZero c.recallOut RecallOut.level) ++
    be32 (orZero (c.recallOut.bind RecallOut.deadline) BitVec.toNat) ++
    [byte ((orZero c.recallOut fun r => r.cause.code) + (orZero c.target fun r => r.cause.code) * 16)] ++
    be16 (orZero c.target RecallTarget.level) ++ be16 (c.lineClamp.getD 0) ++
    [byte (orZero c.lastOutcome Outcome.code),
      byte (c.options.timeoutIndex + c.options.holdAfterActive.toNat * 4 + c.options.capMode.code * 8 +
        c.options.roles.code * 32), byte c.options.lease, byte c.options.baseline] ++
    be24 c.options.allowance ++ [byte st.code] := by
  rw [← outcomeCode_eq]
  rfl

theorem Contract.part0_written (c : Contract) (st : Straps) : c.part0 st =
    [byte c.state.code, byte c.role.code,
      byte (flagWeight c.far.isSome 0 + flagWeight c.farMenu.isSome 1 + flagWeight c.offered.isSome 2 +
        flagWeight c.agreement.isSome 3 + flagWeight c.claim.isSome 4 + flagWeight c.grant.isSome 5 +
        flagWeight c.recallOut.isSome 6 + flagWeight c.target.isSome 7),
      byte (flagWeight c.leaseDeadline.isSome 0 + flagWeight c.lineClamp.isSome 1 + flagWeight c.lastOutcome.isSome 2 +
        flagWeight c.paused 3 + flagWeight c.deferred 4 + flagWeight c.unmanaged 5 + flagWeight c.lastFrameFault 6 +
        flagWeight (c.offered.any OfferedMenu.held) 7),
      byte (orZero c.far fun f => f.cls.code), byte (flagWeight (c.farRecall == some true) 0)] ++
    be32 (orZero c.far fun f => f.identity.toNat) ++ [byte (orZero c.far FarFields.level)] ++
    (be16 (orZero c.agreement Agreement.voltage) ++ be16 (orZero c.agreement Agreement.current) ++
      [byte (orZero c.agreement Agreement.lease), byte (orZero c.agreement Agreement.point)]) ++
    (be16 (orZero c.claim fun k => k.fields.voltage) ++ be16 (orZero c.claim fun k => k.fields.claimed) ++
      be16 (orZero c.claim fun k => k.fields.least) ++ [byte (orZero c.claim fun k => 32 * k.tag.toNat + k.fields.point)]) ++
    (be16 (orZero c.grant fun g => g.voltage) ++ be16 (orZero c.grant fun g => g.current) ++
      [byte (orZero c.grant fun g => g.lease), byte (orZero c.grant fun g => 32 * g.tag.toNat + g.point)]) ++
    [byte (16 * c.cursor.pref + c.cursor.point),
      byte (c.waitStreak + 16 * c.greetingCount + flagWeight c.greetingStopped 6), byte c.tagCounter.toNat] ++
    be32 (orZero c.leaseDeadline BitVec.toNat) ++ be16 (orZero c.recallOut RecallOut.level) ++
    be32 (orZero (c.recallOut.bind RecallOut.deadline) BitVec.toNat) ++
    [byte ((orZero c.recallOut fun r => r.cause.code) + 16 * orZero c.target fun r => r.cause.code)] ++
    be16 (orZero c.target RecallTarget.level) ++ be16 (c.lineClamp.getD 0) ++
    [byte (orZero c.lastOutcome Outcome.code),
      byte (c.options.timeoutIndex + flagWeight c.options.holdAfterActive 2 + 8 * c.options.capMode.code +
        flagWeight c.options.roles.draw 5 + flagWeight c.options.roles.supply 6), byte c.options.lease,
      byte c.options.baseline] ++ be24 c.options.allowance ++ [byte st.code] := by
  have cursor : c.cursor.pref * 16 + c.cursor.point = 16 * c.cursor.pref + c.cursor.point := by omega
  have counts : c.waitStreak + c.greetingCount * 16 + c.greetingStopped.toNat * 64 =
      c.waitStreak + 16 * c.greetingCount + flagWeight c.greetingStopped 6 := by
    rw [flagWeight_eq]
    omega
  have options : c.options.timeoutIndex + c.options.holdAfterActive.toNat * 4 + c.options.capMode.code * 8 +
      c.options.roles.code * 32 = c.options.timeoutIndex + flagWeight c.options.holdAfterActive 2 +
        8 * c.options.capMode.code + flagWeight c.options.roles.draw 5 + flagWeight c.options.roles.supply 6 := by
    have roles := roles_code c.options.roles
    rw [flagWeight_eq c.options.holdAfterActive]
    omega
  rw [Contract.part0_eq, agreementChars_eq, claimChars_eq, grantChars_eq, flagBits_eight, flagBits_eight, map_getD_any,
    getD_toNat, cursor, counts, options, Nat.mul_comm 16 (orZero c.target _)]
  simp only [List.append_assoc, List.cons_append, List.nil_append]

theorem Contract.part0_length (c : Contract) (st : Straps) : (c.part0 st).length = 56 := by
  rw [c.part0_written]
  simp only [List.length_append, List.length_cons, List.length_nil, be16, be24, be32]

/-! ### Contract records, parts 1 and 2 (section 12.7) -/

theorem kind_code (p : Point) : p.kind.code = if p.kind = .window then 1 else 0 := by
  cases p.kind <;> rfl

theorem Contract.part1_written (c : Contract) : c.part1 = (match c.farMenu with
    | none => [0]
    | some m => byte m.points.length :: (m.points.map fun p =>
        byte ((if p.point.kind = .window then 1 else 0) + 16 * p.mark.code) ::
          (be16 p.point.v1 ++ be16 p.point.v2 ++ be16 p.point.limit ++ be16 p.capacity)).flatten) := by
  rw [Contract.part1]
  cases c.farMenu with
  | none => rfl
  | some m => simp only [kind_code, Nat.mul_comm]

theorem Contract.part2_written (c : Contract) : c.part2 = (match c.offered with
    | none => [0, 0]
    | some m => byte m.points.length :: byte (flagWeight m.held 0) :: (m.points.map fun p =>
        byte (if p.kind = .window then 1 else 0) :: (be16 p.v1 ++ be16 p.v2 ++ be16 p.limit)).flatten) := by
  rw [Contract.part2]
  cases c.offered with
  | none => rfl
  | some m =>
    have chars : Point.chars = fun p => byte (if p.kind = .window then 1 else 0) :: (be16 p.v1 ++ be16 p.v2 ++ be16 p.limit) :=
      funext fun p => by rw [Point.chars, kind_code]
    simp only [chars, flagWeight_zero]

/-! ### The budget record (section 12.7) -/

theorem Budget.chars_written (b : Budget) : b.chars = be16 b.inputCeiling ++ be16 b.supplyCeiling ++
    [byte (64 * orZero b.rank[0]? Line.index + 16 * orZero b.rank[1]? Line.index + 4 * orZero b.rank[2]? Line.index +
      orZero b.rank[3]? Line.index)] ++
    be16 b.committedDraw ++ be16 b.committedSupply ++ be16 b.drawHeadroom ++ be16 b.supplyHeadroom ++
    [byte (flagWeight b.drawOver 0 + flagWeight b.supplyOver 1 + flagWeight (b.alloc.get .l0).isSome 4 +
      flagWeight (b.alloc.get .l1).isSome 5 + flagWeight (b.alloc.get .l2).isSome 6 +
      flagWeight (b.alloc.get .l3).isSome 7)] ++
    (([Line.l0, .l1, .l2, .l3].map fun l => be16 (b.drawCommit.get l) ++ be16 (orZero (b.alloc.get l) Allocation.power) ++
      be16 (orZero (b.alloc.get l) Allocation.current)).flatten) ++
    [byte b.order.length, byte (64 * (orZero b.order[0]? fun g => g.line.index) +
      16 * (orZero b.order[1]? fun g => g.line.index) + 4 * (orZero b.order[2]? fun g => g.line.index) +
      orZero b.order[3]? fun g => g.line.index)] ++
    (([0, 1, 2, 3].map fun i => be16 (orZero b.order[i]? GrantEntry.commitment) ++
      be16 (orZero b.order[i]? GrantEntry.recallVoltage)).flatten) := by
  have unset : ∀ i, flagWeight false i = 0 := fun _ => rfl
  rw [Budget.chars_eq, flagBits_eight, packLines_eq, packLines_eq, unset, unset]
  simp only [List.getElem?_map, orZero_map, Nat.add_zero]

/-- Settles O49: the records by their layouts, a field of four characters being two of two, and flags being weights. -/
theorem recordsHaveTheirLayouts : Obligations.RecordsHaveTheirLayouts := by
  refine ⟨rfl, rfl, rfl, rfl, rfl, rfl, rfl, rfl, fun b => ⟨rfl, ?_⟩, fun c st => ⟨c.part0_length st, ?_⟩,
    fun c => ⟨c.part1_written, c.part2_written⟩, fun c => ?_, fun h muted => ?_⟩
  · rw [b.chars_written]
    simp only [List.map_cons, List.map_nil, List.flatten_cons, List.flatten_nil, List.append_nil, List.append_assoc]
    rfl
  · rw [c.part0_written, be32_eq, be32_eq, be32_eq]
    simp only [List.append_assoc]
    rfl
  · rw [Capture.chars, Capture.flags, flagBits_three, be32_eq]
    rfl
  · rw [Health.chars, flagBits_eight, flagBits_four]
    rfl

end Sys2Proof.Machine
end

section
/-! SUPPORT. Proofs for the frames of the system link (R157, R158, R161, R168, sections 12.3 and 12.4). -/

namespace Sys2Proof.Machine

/-! ### The frames that the device sends -/

/-- Section 12.3: a link frame, its header a number. -/
def linkFramed (addr kind : Nat) (body : List Byte) : List Byte :=
  let raw := BitVec.ofNat 8 (32 * addr + kind) :: BitVec.ofNat 8 body.length :: body
  raw ++ [crc raw]

theorem linkHeader_eq (addr : Nat) (k : LinkKind) :
    (BitVec.ofNat 3 addr ++ k.code : Byte) = BitVec.ofNat 8 (32 * addr + k.code.toNat) := by
  refine BitVec.eq_of_toNat_eq ?_
  have low := k.code.isLt
  rw [BitVec.toNat_append, ← Nat.shiftLeft_add_eq_or_of_lt low, Nat.shiftLeft_eq, BitVec.toNat_ofNat, BitVec.toNat_ofNat]
  omega

theorem linkFrame_framed (addr : Nat) {k : LinkKind} {kind : Nat} (code : k.code.toNat = kind) (body : List Byte) :
    linkFrame addr k body = linkFramed addr kind body := by
  subst code
  simp only [linkFrame, linkRaw, linkFramed, linkHeader_eq]
  rfl

theorem Notice.frame_framed {n : Notice} {kind : Nat} {content : List Byte} (code : n.body.kind.code = kind)
    (chars : n.body.chars = content) : n.frame = linkFramed n.source.code 0x13
      (byte kind :: byte content.length :: (be16 (n.time.toNat / 65536) ++ be16 n.time.toNat ++ content)) := by
  subst code chars
  rw [Notice.frame, linkFrame_framed (kind := 0x13) _ rfl, be32_eq]

/-- R168, section 12.4: each notice by its content. -/
theorem Notice.frame_written (n : Notice) :
    let noticed := fun (kind : Nat) (content : List Byte) => linkFramed n.source.code 0x13
      (byte kind :: byte content.length :: (be16 (n.time.toNat / 65536) ++ be16 n.time.toNat ++ content))
    let outcome := fun (o : Option Outcome) => byte (orZero o Outcome.code)
    n.frame = (match n.body with
      | .attach st => noticed 1 [byte st.code]
      | .detach st o => noticed 2 [byte st.code, outcome o]
      | .agreed r st o v i lease point => noticed 3 ([byte r.code, byte st.code, outcome o] ++ be16 v ++ be16 i ++
          be16 (v * i / 200) ++ [byte lease, byte point])
      | .ended r st o => noticed 4 [byte r.code, byte st.code, outcome o]
      | .fault c => noticed 5 ([byte (flagWeight c.held 0 + flagWeight c.overlap 1 + flagWeight c.kind.isSome 2),
          byte (orZero c.cause Cause.code), byte (orZero c.cause fun x => x.cls.code), byte c.state.code,
          byte (orZero c.kind fun k => k.code.toNat)] ++ (be16 (c.time.toNat / 65536) ++ be16 c.time.toNat) ++ [byte c.count])
      | .report rule act kind low high power point => noticed 6 ([byte rule, byte act.code, byte kind.code] ++ be16 low ++
          be16 high ++ be16 power ++ [byte point])
      | .budget drawOver supplyOver input supply draw supplied drawLeft supplyLeft => noticed 7
          (byte (flagWeight drawOver 0 + flagWeight supplyOver 1) :: (be16 input ++ be16 supply ++ be16 draw ++
            be16 supplied ++ be16 drawLeft ++ be16 supplyLeft))) := by
  obtain ⟨source, time, body⟩ := n
  cases body with
  | attach st => exact Notice.frame_framed rfl rfl
  | detach st o => exact Notice.frame_framed rfl (by rw [NoticeBody.chars, outcomeCode_eq])
  | agreed r st o v i lease point => exact Notice.frame_framed rfl (by rw [NoticeBody.chars, outcomeCode_eq])
  | ended r st o => exact Notice.frame_framed rfl (by rw [NoticeBody.chars, outcomeCode_eq])
  | fault c =>
    refine Notice.frame_framed rfl ?_
    rw [NoticeBody.chars, Capture.chars, Capture.flags, flagBits_three, be32_eq]
    rfl
  | report rule act kind low high power point => exact Notice.frame_framed rfl rfl
  | budget drawOver supplyOver input supply draw supplied drawLeft supplyLeft =>
    refine Notice.frame_framed rfl ?_
    have flags : flagBits [drawOver, supplyOver] = flagWeight drawOver 0 + flagWeight supplyOver 1 := by
      cases drawOver <;> cases supplyOver <;> rfl
    rw [NoticeBody.chars, flags]

/-- R163, R177: the far fields with an identification. -/
theorem relayFar_some (far : FarFields) (flag : Option Bool) : relayFar (some far) flag =
    [byte far.cls.code, byte (flagWeight (flag == some true) 0)] ++
      (be16 (far.identity.toNat / 65536) ++ be16 far.identity.toNat) ++ [byte far.level] := by
  rw [relayFar, getD_toNat, be32_eq]
  rfl

theorem relayFar_none (flag : Option Bool) :
    relayFar none flag = [0, byte (128 + flagWeight (flag == some true) 0), 0, 0, 0, 0, 0] := by
  rw [relayFar, getD_toNat, Nat.add_comm]
  rfl

/-! ### The characters that the device receives (R157, R158) -/

/-- R157: a character with a low stop bit or odd parity. -/
theorem LinkChar.bad_iff (c : LinkChar) : c.bad = true ↔
    c.stop = false ∨ (((List.range 8).map fun i => (c.data.getLsbD i).toNat).sum + c.parity.toNat) % 2 = 1 := by
  obtain ⟨start, data, parity, stop⟩ := c
  have parities : (!(parity == (highCount data % 2 == 1))) = true ↔ (highCount data + parity.toNat) % 2 = 1 := by
    cases parity with
    | false => simp
    | true =>
      simp only [Bool.toNat_true, Bool.not_eq_true', beq_eq_false_iff_ne, ne_eq, eq_comm (a := true), beq_iff_eq]
      omega
  rw [← highCount_eq_sum, ← parities]
  simp [LinkChar.bad]

/-- R158: what makes a whole frame of sound characters well formed. -/
def LinkSound (h n check : Byte) (body : List Byte) : Prop :=
  check = crc (h :: n :: body) ∧ ¬(4 ≤ h.toNat / 32 ∧ h.toNat / 32 ≤ 6) ∧
    ((h.toNat % 32 = 1 ∧ 2 ≤ body.length) ∨ (h.toNat % 32 = 2 ∧ body.length = 5))

theorem headerKind_iff (h : Byte) (k : LinkKind) : h.setWidth 5 = k.code ↔ h.toNat % 32 = k.code.toNat := by
  rw [← BitVec.toNat_inj, BitVec.toNat_setWidth]

theorem linkMalformed_iff (h n check : Byte) (body : List Byte) :
    linkMalformed (h :: n :: (body ++ [check])) = true ↔ ¬ LinkSound h n check body := by
  have front : (h :: n :: (body ++ [check])).dropLast = h :: n :: body := List.dropLast_concat (l₁ := h :: n :: body)
  have last : (h :: n :: (body ++ [check])).getLast? = some check := List.getLast?_concat (l := h :: n :: body)
  have request : (h.setWidth 5 == LinkKind.request.code) = decide (h.toNat % 32 = 1) := by
    rw [Bool.eq_iff_iff, beq_iff_eq, headerKind_iff, decide_eq_true_eq]
    rfl
  have verdict : (h.setWidth 5 == LinkKind.verdict.code) = decide (h.toNat % 32 = 2) := by
    rw [Bool.eq_iff_iff, beq_iff_eq, headerKind_iff, decide_eq_true_eq]
    rfl
  simp only [linkMalformed, front, last, request, verdict, LinkSound, Bool.or_eq_true, Bool.not_eq_true', beq_eq_false_iff_ne,
    ne_eq, decide_eq_true_eq, Bool.or_eq_false_iff, Bool.and_eq_false_iff, decide_eq_false_iff_not, not_and_or, not_or, not_not,
    eq_comm (a := check)]
  tauto

theorem judgeLink_whole {h n check : Byte} {body : List Byte} (length : n.toNat = body.length) (short : body.length ≤ 60) :
    judgeLink ((h :: n :: (body ++ [check])).map linkChar) =
      if linkMalformed (h :: n :: (body ++ [check])) = true then some true else none :=
  judgeLink_map_linkChar rfl (length ▸ short) (by simp [length])

/-- R158: a length character above 60 is malformed as it comes. -/
theorem judgeLink_long {h n : LinkChar} {rest : List LinkChar} (long : 60 < n.data.toNat) :
    judgeLink (h :: n :: rest) = some false := by
  have expected : ((h :: n :: rest)[1]?.map fun c => c.data.toNat).getD 0 + 3 = n.data.toNat + 3 := rfl
  rw [judgeLink, expected, if_pos (Or.inl (by omega))]

/-- R158: the first bad character of a frame, before a length character or after one. -/
theorem judgeLink_bad {front : List LinkChar} {c : LinkChar} {expected : Nat} (sound : ∀ d ∈ front, d.bad = false)
    (bad : c.bad = true) (length : ((front ++ [c])[1]?.map fun n => n.data.toNat).getD 0 + 3 = expected)
    (short : expected ≤ 63) : judgeLink (front ++ [c]) = some (decide (front.length + 1 = expected)) := by
  have before : ¬ (63 < expected ∨ (front ++ [c]).dropLast.any LinkChar.bad = true) := by
    rw [List.dropLast_concat, List.any_eq_true]
    rintro (long | ⟨d, among, isBad⟩)
    · omega
    · exact Bool.false_ne_true ((sound d among).symm.trans isBad)
  have among : (front ++ [c]).any LinkChar.bad = true := List.any_eq_true.mpr ⟨c, by simp, bad⟩
  rw [judgeLink, length, if_neg before, if_pos among, List.length_append, List.length_singleton]

theorem judgeLink_bad_early {front : List LinkChar} {c : LinkChar} (sound : ∀ d ∈ front, d.bad = false) (bad : c.bad = true)
    (few : front.length < 2) : judgeLink (front ++ [c]) = some false := by
  by_cases long : 60 < c.data.toNat ∧ front.length = 1
  · obtain ⟨long, one⟩ := long
    obtain ⟨h, rfl⟩ := List.length_eq_one_iff.mp one
    exact judgeLink_long long
  · have short : ((front ++ [c])[1]?.map fun n => n.data.toNat).getD 0 + 3 ≤ 63 := by
      match front, few with
      | [], _ => simp
      | [h], _ =>
        have upTo : ¬ 60 < c.data.toNat := fun above => long ⟨above, rfl⟩
        simp
        omega
    rw [judgeLink_bad sound bad rfl short]
    refine congrArg some (decide_eq_false fun full => ?_)
    omega

theorem judgeLink_bad_late {front : List LinkChar} {c n : LinkChar} (sound : ∀ d ∈ front, d.bad = false) (bad : c.bad = true)
    (second : front[1]? = some n) (short : n.data.toNat ≤ 60) :
    judgeLink (front ++ [c]) = some (decide (front.length + 1 = n.data.toNat + 3)) := by
  obtain ⟨inside, -⟩ := List.getElem?_eq_some_iff.mp second
  refine judgeLink_bad sound bad ?_ (by omega)
  rw [List.getElem?_append_left inside, second]
  rfl

/-! ### The transmitter's choice (R161) -/

/-- R161: the oldest RELAY frame, behind the entries that have none. -/
theorem takeRelay_of_first {older younger : List VerdictEntry} {v : VerdictEntry} {body : List Byte} {rest : List (List Byte)}
    (none : ∀ u ∈ older, u.relays = []) (first : v.relays = body :: rest) : takeRelay (older ++ v :: younger) =
      some (linkFrame v.line.index .relay body, older ++ { v with relays := rest } :: younger) := by
  induction older with
  | nil => simp only [List.nil_append, takeRelay, first]
  | cons u older ih =>
    obtain ⟨head, tail⟩ := List.forall_mem_cons.mp none
    simp only [List.cons_append, takeRelay, head, ih tail, Option.map_some]

theorem takeRelay_of_none {vs : List VerdictEntry} (none : ∀ u ∈ vs, u.relays = []) : takeRelay vs = .none := by
  induction vs with
  | nil => rfl
  | cons u vs ih =>
    obtain ⟨head, tail⟩ := List.forall_mem_cons.mp none
    simp only [takeRelay, head, ih tail, Option.map_none]

theorem LinkUnit.choose_response {u : LinkUnit} {r : Response} {rs : List Response} (first : u.responses = r :: rs) :
    u.choose = { u with responses := rs }.send r.frame := by
  simp only [LinkUnit.choose, first]

theorem LinkUnit.choose_relay {u : LinkUnit} {f : List Byte} {vs : List VerdictEntry} (empty : u.responses = [])
    (first : takeRelay u.verdicts = some (f, vs)) : u.choose = { u with verdicts := vs }.send f := by
  simp only [LinkUnit.choose, empty, first]

theorem LinkUnit.choose_notice {u : LinkUnit} {n : Notice} {ns : List Notice} (empty : u.responses = [])
    (none : takeRelay u.verdicts = .none) (running : u.mode = .running) (first : u.notices = n :: ns) :
    u.choose = { u with notices := ns }.send n.frame := by
  simp only [LinkUnit.choose, empty, none, running, first]

theorem LinkUnit.choose_nothing {u : LinkUnit} (empty : u.responses = []) (none : takeRelay u.verdicts = .none)
    (silent : u.mode = .autonomous ∨ u.notices = []) : u.choose = u := by
  obtain autonomous | nothing := silent
  · simp only [LinkUnit.choose, empty, none, autonomous]
  · simp only [LinkUnit.choose, empty, none, nothing]
    cases u.mode <;> rfl

theorem execTransmitChoice_of_free {s : State} (free : s.link.stx = none) :
    exec .transmitChoice s = .next { s with link := s.link.choose } :=
  if_pos (by simp [free])

theorem exec_linkFrameMalformed {s : State} {cs : List LinkChar} {c : LinkChar} {atEnd : Bool}
    (receiving : s.link.receiver = .receiving) (judged : judgeLink (cs ++ [c]) = some atEnd) :
    exec (.linkFrameMalformed cs c) s =
      .next (s.onLink fun u => { u with receiver := if atEnd then .idle else .skipping, linkError := true }) := by
  change execLinkFrameMalformed cs c s = _
  simp only [execLinkFrameMalformed, receiving, judged]

/-- Settles O46: the frames by their layouts; a frame of the link judged by its first bad character or at its end; the rows of
the receiver and the transmitter, which takes a RESPONSE, then the oldest RELAY, then a notice. -/
theorem linkFramesComeAndGo : Obligations.LinkFramesComeAndGo := by
  refine ⟨⟨rfl, rfl, rfl, rfl, fun r => linkFrame_framed _ rfl _, fun l body => linkFrame_framed _ rfl _,
    fun flag => ⟨fun far => relayFar_some far flag, relayFar_none flag⟩, fun n => n.frame_written⟩, LinkChar.bad_iff,
    fun h n check body length short => ⟨fun sound => ?_, fun sound => ?_⟩, fun h n rest long => judgeLink_long long,
    fun front c sound bad => ⟨judgeLink_bad_early sound bad, fun n second short => ⟨fun early => ?_, fun full => ?_⟩⟩, fun s => ?_⟩
  · rw [judgeLink_whole length short, if_neg fun malformed => (linkMalformed_iff h n check body).mp malformed sound]
  · rw [judgeLink_whole length short, if_pos ((linkMalformed_iff h n check body).mpr sound)]
  · rw [judgeLink_bad_late sound bad second short, decide_eq_false (by omega)]
  · rw [judgeLink_bad_late sound bad second short, decide_eq_true (by omega)]
  · refine ⟨fun idle => ⟨if_pos idle, if_pos idle⟩, fun receiving => ⟨fun cs c =>
      ⟨exec_linkFrameMalformed receiving, exec_linkFrameMalformed receiving⟩, if_pos receiving⟩, fun skipping => if_pos skipping,
      fun free => ⟨fun r rs first => ?_, fun older v younger body rest empty queue none first => ?_,
        fun empty none => ⟨fun n ns running first => ?_, fun silent => ?_⟩⟩, fun sending => if_neg (by
          rw [Option.isNone_iff_eq_none]
          exact Option.isSome_iff_ne_none.mp sending), rfl⟩
    · rw [execTransmitChoice_of_free free, LinkUnit.choose_response first]
      rfl
    · have taken := takeRelay_of_first (younger := younger) none first
      rw [← queue] at taken
      rw [execTransmitChoice_of_free free, LinkUnit.choose_relay empty taken]
      rfl
    · rw [execTransmitChoice_of_free free, LinkUnit.choose_notice empty (takeRelay_of_none none) running first]
      rfl
    · rw [execTransmitChoice_of_free free, LinkUnit.choose_nothing empty (takeRelay_of_none none) silent]

end Sys2Proof.Machine
end

section
/-! SUPPORT. Proofs for the requests that read and that write one entry (R64, R70, R88 to R91, R119 to R121, R133, R153, R156,
R170, R179). -/

namespace Sys2Proof.Machine

section Framed
variable {s : State}

/-- R159: a reply sent as the RESPONSE to a request. -/
def Reply.sent (rep : Reply) (addr : Addr) (num code : Byte) : StepOutcome :=
  .next (rep.state.respond ⟨addr, num, code, rep.result, rep.data⟩)

/-- R159: what a REQUEST of the device answers, from what its action replies. -/
theorem State.deviceRequest_sent (takes : s.Takes) {code num : Byte} {args : List Byte} {act : State → Reply} {rep : Reply}
    (acts : act s.acting = rep) : s.deviceRequest code args.length (Req.framed code .device num args) act =
      rep.sent .device num code :=
  acts ▸ State.deviceRequest_framed takes code num args act

/-- R159: what a REQUEST of a line answers, from what its action replies. -/
theorem State.lineRequest_sent (takes : s.Takes) {code num : Byte} {l : Line} {args : List Byte} {act : Line → State → Reply}
    {rep : Reply} (acts : act l s.acting = rep) : s.lineRequest code args.length (Req.framed code (.line l) num args) act =
      rep.sent (.line l) num code :=
  acts ▸ State.lineRequest_framed takes code l num args act

/-- R173: a request that acts has ended AUTONOMOUS mode. -/
@[simp] theorem State.acting_mode (s : State) : s.acting.link.mode = .running := by
  change (LinkUnit.endAutonomous _).mode = _
  unfold LinkUnit.endAutonomous
  split
  · next running => exact running
  · rfl

@[simp] theorem State.acting_linkError (s : State) : s.acting.link.linkError = s.link.linkError := by
  change (LinkUnit.endAutonomous _).linkError = _
  unfold LinkUnit.endAutonomous
  split <;> rfl

/-- R170, section 12.5: what IDENTIFY answers once its frame has ended AUTONOMOUS mode. -/
theorem identifyChars_acting (s : State) : identifyChars s.acting.straps (s.acting.contracts.map fun c => c.options.roles)
    s.acting.link.mode s.acting.link.linkError s.acting.now = [0x0E, 0x40, 0x00, 0x02, byte (packCodes (s.straps.map Straps.code)),
      byte (packCodes (s.contracts.map fun c => c.options.roles.code)), 0x00, if s.link.linkError then 0x01 else 0x00] ++
      be32 s.now.toNat := by
  have error : byte s.link.linkError.toNat = if s.link.linkError then 0x01 else 0x00 := by cases s.link.linkError <;> rfl
  rw [State.acting_mode, State.acting_linkError, ← error]
  rfl

theorem contractGet_part (l : Line) (t : State) {p : Byte} (beyond : 3 ≤ p.toNat) :
    (match p.toNat with
      | 0 => Reply.mk t .ok ((t.contract l).part0 (t.straps.get l))
      | 1 => ⟨t, .ok, (t.contract l).part1⟩
      | 2 => ⟨t, .ok, (t.contract l).part2⟩
      | _ => t.answer .badIndex) = t.answer .badIndex := by
  match p.toNat, beyond with
  | n + 3, _ => rfl

theorem getEntry_of_lt {i flags : Byte} (below : i.toNat < 32) (t : State) : getEntry [i, flags] t =
    ⟨if flags.getLsbD 0 then { t with rules := t.rules.set i.toNat { t.rules[i.toNat] with hits := 0 } } else t, .ok,
      t.rules[i.toNat].chars ++ be16 t.rules[i.toNat].hits⟩ :=
  dif_pos below

theorem getEntry_of_not_lt {i flags : Byte} (above : 32 ≤ i.toNat) (t : State) : getEntry [i, flags] t = t.answer .badIndex :=
  dif_neg (by omega)

end Framed

/-- Settles O50: each request by what its action replies at the state its frame leaves. -/
theorem readsAreAnswered : Obligations.ReadsAreAnswered := by
  intro s num takes q part
  have device := fun (code : Byte) (args : List Byte) {act : State → Reply} {rep : Reply} =>
    State.deviceRequest_sent (s := s) takes (code := code) (num := num) (args := args) (act := act) (rep := rep)
  refine ⟨(device 0x01 [] rfl).trans ?_, fun i flags => ⟨fun below => device 0x11 [i, flags] (getEntry_of_lt below s.acting),
      fun above => device 0x11 [i, flags] (getEntry_of_not_lt above s.acting)⟩,
    fun i => ⟨fun below => (device 0x13 [i] rfl).trans ?_, fun above => (device 0x13 [i] rfl).trans ?_,
      fun below => (device 0x15 [i] rfl).trans ?_, fun above => (device 0x15 [i] rfl).trans ?_⟩, device 0x21 [] rfl, fun l => ?_⟩
  · exact congrArg (fun data => Reply.sent ⟨_, .ok, data⟩ .device num 0x01) (identifyChars_acting s)
  · exact congrArg (Reply.sent · .device num 0x13) (dif_pos below)
  · exact congrArg (Reply.sent · .device num 0x13) (dif_neg (Nat.not_lt.mpr above))
  · exact congrArg (Reply.sent · .device num 0x15) (dif_pos below)
  · exact congrArg (Reply.sent · .device num 0x15) (dif_neg (Nat.not_lt.mpr above))
  · intro q line
    have part := fun (p : Byte) {act : Line → State → Reply} {rep : Reply} =>
      State.lineRequest_sent (s := s) takes (code := 0x32) (num := num) (l := l) (args := [p]) (act := act) (rep := rep)
    exact ⟨part 0 rfl, part 1 rfl, part 2 rfl, fun p beyond => (part p rfl).trans
        (congrArg (Reply.sent · (.line l) num 0x32) (contractGet_part l s.acting beyond)),
      State.lineRequest_sent takes (args := []) rfl, State.lineRequest_sent takes (args := []) rfl⟩

end Sys2Proof.Machine
end

section
/-! SUPPORT. Menus built again (R89 to R91, R127), and proofs for the requests that store an entry (R40, R70, R88, R119, R120,
R153, R156). -/

namespace Sys2Proof.Machine

/-! ### What a supply entry offers (R89) -/

/-- R89: the greatest limit that a room of supply power leaves a point. -/
def SupplyEntry.offeredLimit (e : SupplyEntry) (room : Nat) : Nat :=
  if e.point.kind = .fixed then min e.point.limit (room * 200 / e.point.v1) else min e.point.limit room

theorem SupplyEntry.offer_eq (e : SupplyEntry) (room : Nat) : e.offer room =
    if e.enabled = true ∧ (if e.point.kind = .fixed then 4 else 5) ≤ e.offeredLimit room then
      some { e.point with limit := e.offeredLimit room } else none := by
  unfold SupplyEntry.offer SupplyEntry.offeredLimit
  cases e.enabled with
  | false => simp
  | true =>
    cases kind : e.point.kind with
    | fixed =>
      by_cases low : min e.point.limit (current room e.point.v1) < 4
      · simp only [if_true, if_pos low]
        exact (if_neg fun fits => absurd fits.2 (Nat.not_le.mpr low)).symm
      · simp only [if_true, if_neg low]
        exact (if_pos ⟨trivial, Nat.not_lt.mp low⟩).symm
    | window =>
      by_cases low : min e.point.limit room < 5
      · simp only [if_true, if_pos low]
        exact (if_neg fun fits => absurd fits.2 (Nat.not_le.mpr low)).symm
      · simp only [if_true, if_neg low]
        exact (if_pos ⟨trivial, Nat.not_lt.mp low⟩).symm

theorem Point.eq_iff (p q : Point) : p = q ↔ p.kind = q.kind ∧ p.v1 = q.v1 ∧ p.v2 = q.v2 ∧ p.limit = q.limit := by
  cases p
  cases q
  simp

theorem SupplyEntry.offer_eq_some_iff (e : SupplyEntry) (room : Nat) (p : Point) : e.offer room = some p ↔
    e.enabled = true ∧ p.kind = e.point.kind ∧ p.v1 = e.point.v1 ∧ p.v2 = e.point.v2 ∧
      ((e.point.kind = .fixed ∧ p.limit = min e.point.limit (room * 200 / e.point.v1) ∧ 4 ≤ p.limit) ∨
        (e.point.kind = .window ∧ p.limit = min e.point.limit room ∧ 5 ≤ p.limit)) := by
  rw [SupplyEntry.offer_eq, Option.ite_none_right_eq_some, Option.some_inj, eq_comm (b := p), Point.eq_iff, SupplyEntry.offeredLimit]
  cases kind : e.point.kind with
  | fixed =>
    simp only [if_true, true_and, reduceCtorEq, false_and, or_false]
    constructor
    · rintro ⟨⟨on, fits⟩, k, v1, v2, limit⟩
      exact ⟨on, k, v1, v2, limit, limit ▸ fits⟩
    · rintro ⟨on, k, v1, v2, limit, fits⟩
      exact ⟨⟨on, limit ▸ fits⟩, k, v1, v2, limit⟩
  | window =>
    simp only [reduceCtorEq, if_false, true_and, false_and, false_or]
    constructor
    · rintro ⟨⟨on, fits⟩, k, v1, v2, limit⟩
      exact ⟨on, k, v1, v2, limit, limit ▸ fits⟩
    · rintro ⟨on, k, v1, v2, limit, fits⟩
      exact ⟨⟨on, limit ▸ fits⟩, k, v1, v2, limit⟩

/-! ### A menu built again (R89 to R91) -/

section Menus
variable {s : State} {l : Line}

/-- R89: the points that the device offers on a line. -/
def State.offers (s : State) (l : Line) : List Point := s.menu.toList.filterMap fun e => e.offer (s.supplyRoom l)

theorem State.rebuildMenu_of_empty (empty : s.offers l = []) :
    s.rebuildMenu l = s.onContract l fun c => { c with offered := some ⟨[], true⟩ } :=
  if_pos (List.isEmpty_iff.mpr empty)

theorem State.rebuildMenu_of_points (points : s.offers l ≠ []) : s.rebuildMenu l =
    (s.handNew l (.menu true (s.offers l))).onContract l fun c => { c with offered := some ⟨s.offers l, false⟩ } :=
  if_neg fun empty => points (List.isEmpty_iff.mp empty)

/-- R89, R90: what the building of a menu leaves on its line. -/
theorem State.rebuildMenu_rebuilt (s : State) (l : Line) : MenuRebuilt l s (s.rebuildMenu l) s.menu (s.supplyRoom l) := by
  by_cases empty : s.offers l = []
  · have none : (s.menu.toList.filterMap fun e => e.offer (s.supplyRoom l)) = [] := empty
    rw [State.rebuildMenu_of_empty empty]
    refine ⟨?_, fun points => absurd none points, fun _ => rfl, ?_⟩
    · rw [none, State.onContract_contract_self]
      rfl
    · rw [State.onContract_contract_self]
      rfl
  · have some : (s.menu.toList.filterMap fun e => e.offer (s.supplyRoom l)) ≠ [] := empty
    rw [State.rebuildMenu_of_points empty]
    refine ⟨?_, fun _ room => Handed.of_engine ?_ room, fun none => absurd none some, ?_⟩
    · rw [List.isEmpty_eq_false_iff.mpr some, State.onContract_contract_self]
      rfl
    · exact State.handNew_engine_self ..
    · rw [State.onContract_contract_self, State.handNew_contract_self]
      rfl

theorem State.rebuildMenu_of_ne {m : Line} (other : m ≠ l) :
    (s.rebuildMenu m).contract l = s.contract l ∧ (s.rebuildMenu m).engine l = s.engine l := by
  by_cases empty : s.offers m = []
  · rw [State.rebuildMenu_of_empty empty]
    simp [State.onContract_contract, Ne.symm other]
  · rw [State.rebuildMenu_of_points empty]
    simp [State.onContract_contract, State.onEngine_engine, Ne.symm other, State.handNew, State.hand, State.stepTag]

theorem MenuRebuilt.congr {s' t t' : State} {menu : Vector SupplyEntry 4} {room : Nat} (rebuilt : MenuRebuilt l s t menu room)
    (contract : s'.contract l = s.contract l) (engine : s'.engine l = s.engine l) (contractAfter : t'.contract l = t.contract l)
    (engineAfter : t'.engine l = t.engine l) : MenuRebuilt l s' t' menu room := by
  obtain ⟨offered, sent, held, kept⟩ := rebuilt
  refine ⟨contractAfter ▸ offered, fun points accepts => ?_, fun none => ?_, ?_⟩
  · have handed := sent points (engine ▸ accepts)
    simpa only [Handed, contract, engine, engineAfter] using handed
  · rw [engine, engineAfter, held none]
  · rwa [contract, contractAfter]

end Menus

/-! ### The held menus, in turn (R91, R127) -/

/-- R91: a held menu built again. -/
def State.reofferLine (s : State) (l : Line) : State := if (s.contract l).awaitsRise then s.rebuildMenu l else s

section Reoffer
variable {s : State} {l : Line}

theorem State.reofferLine_of_ne {m : Line} (other : m ≠ l) :
    (s.reofferLine m).contract l = s.contract l ∧ (s.reofferLine m).engine l = s.engine l := by
  unfold State.reofferLine
  split
  · exact State.rebuildMenu_of_ne other
  · exact ⟨rfl, rfl⟩

theorem State.reofferLine_menu (s : State) (m : Line) : (s.reofferLine m).menu = s.menu ∧ (s.reofferLine m).budget = s.budget := by
  unfold State.reofferLine
  split
  · rw [State.rebuildMenu_eq]
    exact ⟨rfl, rfl⟩
  · exact ⟨rfl, rfl⟩

theorem State.reoffer_fold (s : State) : s.reoffer = s.budget.rank.foldl State.reofferLine s := rfl

theorem State.reofferLines_of_not_mem {ls : List Line} (outside : l ∉ ls) :
    (ls.foldl State.reofferLine s).contract l = s.contract l ∧ (ls.foldl State.reofferLine s).engine l = s.engine l := by
  induction ls generalizing s with
  | nil => exact ⟨rfl, rfl⟩
  | cons m ms ih =>
    obtain ⟨other, rest⟩ := not_or.mp (List.mem_cons.not.mp outside)
    obtain ⟨contract, engine⟩ := ih (s := s.reofferLine m) rest
    obtain ⟨contract', engine'⟩ := State.reofferLine_of_ne (s := s) (Ne.symm other)
    exact ⟨contract.trans contract', engine.trans engine'⟩

theorem State.reofferLines_menu (ls : List Line) (s : State) :
    (ls.foldl State.reofferLine s).menu = s.menu ∧ (ls.foldl State.reofferLine s).budget = s.budget := by
  induction ls generalizing s with
  | nil => exact ⟨rfl, rfl⟩
  | cons m ms ih =>
    obtain ⟨menu, budget⟩ := ih (s.reofferLine m)
    obtain ⟨menu', budget'⟩ := s.reofferLine_menu m
    exact ⟨menu.trans menu', budget.trans budget'⟩

/-- R91: a line whose menu is not held keeps its record and its engine. -/
theorem State.reoffer_of_settled (settled : (s.contract l).awaitsRise = false) :
    s.reoffer.contract l = s.contract l ∧ s.reoffer.engine l = s.engine l := by
  rw [State.reoffer_fold]
  generalize s.budget.rank = ls
  induction ls generalizing s with
  | nil => exact ⟨rfl, rfl⟩
  | cons m ms ih =>
    obtain ⟨contract', engine'⟩ : (s.reofferLine m).contract l = s.contract l ∧ (s.reofferLine m).engine l = s.engine l := by
      by_cases same : m = l
      · subst same
        rw [State.reofferLine, if_neg (by simp [settled])]
        exact ⟨rfl, rfl⟩
      · exact State.reofferLine_of_ne same
    obtain ⟨contract, engine⟩ := ih (s := s.reofferLine m) (contract' ▸ settled)
    exact ⟨contract.trans contract', engine.trans engine'⟩

theorem State.reoffer_of_none (settled : ∀ l, (s.contract l).awaitsRise = false) : s.reoffer = s := by
  rw [State.reoffer_fold]
  generalize s.budget.rank = ls
  induction ls with
  | nil => rfl
  | cons m ms ih =>
    rw [List.foldl_cons, State.reofferLine, if_neg (by simp [settled]), ih]

theorem Budget.RankOk.mem {b : Budget} (rank : b.RankOk) (l : Line) : l ∈ b.rank :=
  rank.perm.mem_iff.2 (by cases l <;> decide)

/-- R91: a held menu is built again once, from the list and the room that stood before. -/
theorem State.reoffer_rebuilt (rank : s.budget.RankOk) (waits : (s.contract l).awaitsRise = true) :
    MenuRebuilt l s s.reoffer s.menu (s.supplyRoom l) := by
  obtain ⟨older, younger, ranked⟩ := List.append_of_mem (rank.mem l)
  have once := rank.1
  rw [ranked, List.nodup_middle, List.nodup_cons, List.mem_append, not_or] at once
  obtain ⟨⟨notOlder, notYounger⟩, -⟩ := once
  rw [State.reoffer_fold, ranked, List.foldl_append, List.foldl_cons]
  obtain ⟨menu, budget⟩ := State.reofferLines_menu older s
  obtain ⟨contract, engine⟩ := State.reofferLines_of_not_mem (s := s) notOlder
  generalize older.foldl State.reofferLine s = u at *
  obtain ⟨contract', engine'⟩ := State.reofferLines_of_not_mem (s := u.reofferLine l) notYounger
  have rebuilt : u.reofferLine l = u.rebuildMenu l := if_pos (contract ▸ waits)
  have room : u.supplyRoom l = s.supplyRoom l := by rw [State.supplyRoom, State.supplyRoom, contract, budget]
  have here := u.rebuildMenu_rebuilt l
  rw [menu, room] at here
  rw [rebuilt] at contract' engine' ⊢
  exact here.congr contract.symm engine.symm contract' engine'

end Reoffer

end Sys2Proof.Machine
end

section
/-! SUPPORT. Proofs for the requests that store an entry, the stance or an acknowledgement (R40, R70, R88, R89, R91, R119, R120,
R153, R156). -/

namespace Sys2Proof.Machine

section Stores
variable {t : State} {i : Byte} {chars : List Byte}

theorem putEntry_of_parsed (below : i.toNat < 32) {e : RuleEntry} (parsed : parseRule chars = some e) :
    putEntry (i :: chars) t = State.answer { t with rules := t.rules.set i.toNat e } .ok := by
  simp only [putEntry, dif_pos below, parsed]

theorem putEntry_of_unparsed (below : i.toNat < 32) (bad : parseRule chars = none) :
    putEntry (i :: chars) t = t.answer .badEntry := by
  simp only [putEntry, dif_pos below, bad]

theorem putEntry_of_not_lt (above : 32 ≤ i.toNat) : putEntry (i :: chars) t = t.answer .badIndex :=
  dif_neg (Nat.not_lt.mpr above)

/-- R70: what PREF_PUT does. -/
def storePref (args : List Byte) (t : State) : Reply :=
  match args with
  | i :: e =>
      if h : i.toNat < 8 then
        match parsePref e with
        | some entry => State.answer { t with prefs := t.prefs.set i.toNat entry h } .ok
        | none => t.answer .badEntry
      else t.answer .badIndex
  | [] => t.answer .badRequest

theorem execPrefPut_eq (r : Req) (s : State) : exec (.prefPut r) s = s.deviceRequest 0x12 10 r (storePref r.args) := rfl

theorem storePref_of_parsed (below : i.toNat < 8) {e : Preference} (parsed : parsePref chars = some e) :
    storePref (i :: chars) t = State.answer { t with prefs := t.prefs.set i.toNat e } .ok := by
  simp only [storePref, dif_pos below, parsed]

theorem storePref_of_unparsed (below : i.toNat < 8) (bad : parsePref chars = none) :
    storePref (i :: chars) t = t.answer .badEntry := by
  simp only [storePref, dif_pos below, bad]

theorem storePref_of_not_lt (above : 8 ≤ i.toNat) : storePref (i :: chars) t = t.answer .badIndex :=
  dif_neg (Nat.not_lt.mpr above)

/-- R88, R91: what MENU_PUT does. -/
def storeSupply (args : List Byte) (t : State) : Reply :=
  match args with
  | i :: e =>
      if h : i.toNat < 4 then
        match parseSupply e with
        | some entry =>
            let t1 := { t with menu := t.menu.set i.toNat entry h }
            (if entry = t.menu[i.toNat] then t1 else t1.reoffer).answer .ok
        | none => t.answer .badEntry
      else t.answer .badIndex
  | [] => t.answer .badRequest

theorem execMenuPut_eq (r : Req) (s : State) : exec (.menuPut r) s = s.deviceRequest 0x14 9 r (storeSupply r.args) := rfl

theorem storeSupply_of_changed (below : i.toNat < 4) {e : SupplyEntry} (parsed : parseSupply chars = some e)
    (changed : e ≠ t.menu[i.toNat]) :
    storeSupply (i :: chars) t = (State.reoffer { t with menu := t.menu.set i.toNat e }).answer .ok := by
  simp only [storeSupply, dif_pos below, parsed, if_neg changed]

theorem storeSupply_of_settled (below : i.toNat < 4) {e : SupplyEntry} (parsed : parseSupply chars = some e)
    (settled : e = t.menu[i.toNat] ∨ ∀ l, (t.contract l).awaitsRise = false) :
    storeSupply (i :: chars) t = State.answer { t with menu := t.menu.set i.toNat e } .ok := by
  simp only [storeSupply, dif_pos below, parsed]
  by_cases same : e = t.menu[i.toNat]
  · rw [if_pos same]
  · rw [if_neg same]
    exact congrArg (State.answer · .ok) (State.reoffer_of_none (settled.resolve_left same))

theorem storeSupply_of_unparsed (below : i.toNat < 4) (bad : parseSupply chars = none) :
    storeSupply (i :: chars) t = t.answer .badEntry := by
  simp only [storeSupply, dif_pos below, bad]

theorem storeSupply_of_not_lt (above : 4 ≤ i.toNat) : storeSupply (i :: chars) t = t.answer .badIndex :=
  dif_neg (Nat.not_lt.mpr above)

theorem setStance_of_mode {mode a b : Byte} (known : mode.toNat ≤ 1) : setStance [mode, a, b] t =
    State.answer { t with link := { t.link with stance := a ++ b, manualStance := decide (mode.toNat = 1) } } .ok := by
  have manual : (mode == 1) = decide (mode.toNat = 1) := by
    rw [Bool.eq_iff_iff, beq_iff_eq, decide_eq_true_eq, ← BitVec.toNat_inj]
    rfl
  rw [← manual]
  exact if_pos known

theorem setStance_of_unknown {mode a b : Byte} (unknown : 1 < mode.toNat) : setStance [mode, a, b] t = t.answer .badEntry :=
  if_neg (Nat.not_le.mpr unknown)

end Stores

/-- R88, R91: what a changed supply entry leaves, its menus built again from the new list. -/
theorem State.reoffer_leaves (s : State) : s.reoffer.menu = s.menu ∧ s.reoffer.link = s.link ∧ s.reoffer.budget = s.budget ∧
    s.reoffer.channels = s.channels ∧ s.reoffer.rules = s.rules ∧ s.reoffer.prefs = s.prefs ∧
    s.reoffer.captures = s.captures ∧ s.reoffer.strikes = s.strikes := by
  rw [State.reoffer_eq]
  exact ⟨rfl, rfl, rfl, rfl, rfl, rfl, rfl, rfl⟩

/-- Settles O51: each request by what its action replies; a changed supply entry builds every held menu again. -/
theorem writesAreStored : Obligations.WritesAreStored := by
  refine ⟨SupplyEntry.offer_eq_some_iff, fun s num takes => ?_⟩
  intro q part
  have device := fun (code : Byte) (args : List Byte) {act : State → Reply} {rep : Reply} =>
    State.deviceRequest_sent (s := s) takes (code := code) (num := num) (args := args) (act := act) (rep := rep)
  refine ⟨fun i chars length => ?_, fun i chars length => ?_, fun i chars length => ?_, fun mode a b => ?_, fun l => ?_⟩
  · have put := fun {rep : Reply} (acts : putEntry (i :: chars) s.acting = rep) => by
      have sent := device 0x10 (i :: chars) acts
      rw [List.length_cons, length] at sent
      exact sent
    exact ⟨fun below e parsed => ⟨parseRule_hits parsed, put (putEntry_of_parsed below parsed)⟩,
      fun below bad => put (putEntry_of_unparsed below bad), fun above => put (putEntry_of_not_lt above)⟩
  · have put := fun {rep : Reply} (acts : storePref (i :: chars) s.acting = rep) => by
      have sent := device 0x12 (i :: chars) acts
      rw [List.length_cons, length] at sent
      exact sent
    exact ⟨fun below e parsed => put (storePref_of_parsed below parsed),
      fun below bad => put (storePref_of_unparsed below bad), fun above => put (storePref_of_not_lt above)⟩
  · have put := fun {rep : Reply} (acts : storeSupply (i :: chars) s.acting = rep) => by
      have sent := device 0x14 (i :: chars) acts
      rw [List.length_cons, length] at sent
      exact sent
    refine ⟨fun below e parsed changed rank => ?_, fun below e parsed settled => put (storeSupply_of_settled below parsed settled),
      fun below bad => put (storeSupply_of_unparsed below bad), fun above => put (storeSupply_of_not_lt above)⟩
    obtain ⟨menu, link, budget, channels, rules, prefs, captures, strikes⟩ :=
      State.reoffer_leaves { s.acting with menu := s.menu.set i.toNat e }
    refine ⟨_, put (storeSupply_of_changed below parsed changed), menu, ?_, budget, channels, rules, prefs, captures, strikes,
      fun l => ⟨fun settled => State.reoffer_of_settled settled, fun waits => ?_⟩⟩
    · exact congrArg (· ++ [_]) ((congrArg LinkUnit.responses link).trans s.acting_responses)
    · have rebuilt := State.reoffer_rebuilt (s := { s.acting with menu := s.menu.set i.toNat e }) rank waits
      rw [← menu] at rebuilt
      exact rebuilt.congr rfl rfl rfl rfl
  · exact ⟨fun known => device 0x04 [mode, a, b] (setStance_of_mode known),
      fun unknown => device 0x04 [mode, a, b] (setStance_of_unknown unknown)⟩
  · have line := fun (code : Byte) {act : Line → State → Reply} {rep : Reply} =>
      State.lineRequest_sent (s := s) takes (code := code) (num := num) (l := l) (args := []) (act := act) (rep := rep)
    refine ⟨fun held => (line 0x34 rfl).trans ?_, fun clear => (line 0x34 rfl).trans ?_, line 0x36 rfl⟩
    · exact congrArg (Reply.sent · (.line l) num 0x34) (if_pos held)
    · exact congrArg (Reply.sent · (.line l) num 0x34) (if_neg (ne_true_of_eq_false clear))

end Sys2Proof.Machine
end

section
/-! SUPPORT. Proofs for the reset of the part (R20, R65, R171). -/

namespace Sys2Proof.Machine

section ResetLine
variable {s : State} {l : Line}

/-- What handing a frame leaves of a line engine (R9). -/
theorem LineEngine.hand_keeps (e : LineEngine) (chars : List Byte) : (e.hand chars).muted = e.muted ∧
    (e.hand chars).wdCount = e.wdCount ∧ (e.hand chars).health = e.health ∧ (e.hand chars).convention = e.convention ∧
    (e.hand chars).present = e.present ∧ (e.hand chars).presenceRun = e.presenceRun ∧ (e.hand chars).rxSide = e.rxSide ∧
    (e.hand chars).rxChars = e.rxChars := by
  unfold LineEngine.hand
  split <;> exact ⟨rfl, rfl, rfl, rfl, rfl, rfl, rfl, rfl⟩

/-- R20, R65: a line engine before the drain count: its mute, watchdog count and health cleared. -/
def LineEngine.cleared (e : LineEngine) : LineEngine := { e with muted := false, wdCount := 0, health := .clear }

theorem LineEngine.cleared_accepts {e : LineEngine} (present : e.present = true) (room : e.txQueue.length < 4) :
    e.cleared.accepts = true := by
  simp [LineEngine.accepts, LineEngine.cleared, present, room]

/-- R65: the frame that ends a contract at RESET_PART. -/
def State.resetFrame (s : State) (l : Line) : Frame := ⟨(s.contract l).tagCounter, .ending .reset⟩

/-- R20: the frames of the queue counted for the drain. -/
def LineEngine.draining (e : LineEngine) : LineEngine := { e with drain := some e.txQueue.length }

theorem State.resetLine_engine_of_contracted (contracted : (s.contract l).state.contracted = true) :
    (s.resetLine l).engine l = ((s.engine l).cleared.hand (s.resetFrame l).chars).draining := by
  have resets : s.resetLine l = ((s.onEngine l LineEngine.cleared).handNew l (.ending .reset)).onEngine l LineEngine.draining :=
    congrArg (State.onEngine · l LineEngine.draining) (if_pos contracted)
  rw [resets, State.onEngine_engine_self, State.handNew_engine_self, State.onEngine_engine_self]
  rfl

theorem State.resetLine_engine_of_not_contracted (idle : (s.contract l).state.contracted = false) :
    (s.resetLine l).engine l = (s.engine l).cleared.draining := by
  have resets : s.resetLine l = (s.onEngine l LineEngine.cleared).onEngine l LineEngine.draining :=
    congrArg (State.onEngine · l LineEngine.draining) (if_neg (ne_true_of_eq_false idle))
  rw [resets, State.onEngine_engine_self, State.onEngine_engine_self]

/-- R20, R65: what RESET_PART leaves of a line's engine. -/
structure EngineReset (l : Line) (s t : State) : Prop where
  unmuted : (t.engine l).muted = false
  count : (t.engine l).wdCount = 0
  health : (t.engine l).health = .clear
  convention : (t.engine l).convention = (s.engine l).convention
  present : (t.engine l).present = (s.engine l).present
  presenceRun : (t.engine l).presenceRun = (s.engine l).presenceRun
  rxSide : (t.engine l).rxSide = (s.engine l).rxSide
  rxChars : (t.engine l).rxChars = (s.engine l).rxChars
  drain : (t.engine l).drain = some (t.engine l).txQueue.length
  ending : (s.contract l).state.contracted = true → (s.engine l).present = true → (s.engine l).txQueue.length < 4 →
    Handed l s t (s.resetFrame l)
  kept : (s.contract l).state.contracted = false → (t.engine l).txQueue = (s.engine l).txQueue

theorem State.resetLine_reset (s : State) (l : Line) : EngineReset l s (s.resetLine l) := by
  cases contracted : (s.contract l).state.contracted with
  | false =>
    have engine := State.resetLine_engine_of_not_contracted contracted
    refine ⟨?_, ?_, ?_, ?_, ?_, ?_, ?_, ?_, ?_, fun ends => absurd contracted (ne_false_of_eq_true ends), fun _ => ?_⟩ <;>
      rw [engine] <;> rfl
  | true =>
    have engine := State.resetLine_engine_of_contracted contracted
    obtain ⟨muted, count, health, convention, present, run, side, chars⟩ :=
      LineEngine.hand_keeps (s.engine l).cleared (s.resetFrame l).chars
    refine ⟨by rwa [engine], by rwa [engine], by rwa [engine], by rwa [engine], by rwa [engine], by rwa [engine],
      by rwa [engine], by rwa [engine], by rw [engine]; rfl, fun _ here room => ?_,
      fun idle => absurd contracted (ne_true_of_eq_false idle)⟩
    rw [Handed, engine]
    exact (LineEngine.hand_txQueue ..).trans (by rw [if_pos (LineEngine.cleared_accepts here room)]; rfl)

theorem State.resetLine_of_ne {m : Line} (other : m ≠ l) :
    (s.resetLine m).engine l = s.engine l ∧ (s.resetLine m).contract l = s.contract l := by
  unfold State.resetLine
  dsimp only
  split <;> simp [State.onContract_contract, State.onEngine_engine, Ne.symm other, State.handNew, State.hand, State.stepTag]

theorem State.resetLine_keeps (s : State) (m : Line) : (s.resetLine m).straps = s.straps ∧ (s.resetLine m).link = s.link := by
  unfold State.resetLine
  dsimp only
  split <;> exact ⟨rfl, rfl⟩

theorem EngineReset.congr {s' t t' : State} (reset : EngineReset l s t) (before : s'.engine l = s.engine l)
    (contract : s'.contract l = s.contract l) (after : t'.engine l = t.engine l) : EngineReset l s' t' := by
  obtain ⟨unmuted, count, health, convention, present, run, side, chars, drain, ending, kept⟩ := reset
  have frame : s'.resetFrame l = s.resetFrame l := by rw [State.resetFrame, State.resetFrame, contract]
  refine ⟨by rwa [after], by rwa [after], by rwa [after], by rwa [after, before], by rwa [after, before], by rwa [after, before],
    by rwa [after, before], by rwa [after, before], by rwa [after], ?_, by rwa [after, before, contract]⟩
  rw [before, contract, frame]
  simpa only [Handed, before, after] using ending

end ResetLine

/-- R65: the lines are reset one after another, each from its own engine and record. -/
theorem State.resetLines_reset (s : State) (l : Line) : EngineReset l s (Line.everyLine.foldl State.resetLine s) := by
  have folds : ∀ (ls : List Line) (u : State), l ∉ ls → (ls.foldl State.resetLine u).engine l = u.engine l ∧
      (ls.foldl State.resetLine u).contract l = u.contract l := by
    intro ls
    induction ls with
    | nil => exact fun _ _ => ⟨rfl, rfl⟩
    | cons m ms ih =>
      intro u outside
      obtain ⟨other, rest⟩ := not_or.mp (List.mem_cons.not.mp outside)
      obtain ⟨engine, contract⟩ := ih (u.resetLine m) rest
      obtain ⟨engine', contract'⟩ := State.resetLine_of_ne (s := u) (Ne.symm other)
      exact ⟨engine.trans engine', contract.trans contract'⟩
  obtain ⟨older, younger, lines⟩ := List.append_of_mem (by cases l <;> decide : l ∈ Line.everyLine)
  have once : Line.everyLine.Nodup := by decide
  rw [lines, List.nodup_middle, List.nodup_cons, List.mem_append, not_or] at once
  obtain ⟨⟨notOlder, notYounger⟩, -⟩ := once
  rw [lines, List.foldl_append, List.foldl_cons]
  obtain ⟨engine, contract⟩ := folds older s notOlder
  generalize older.foldl State.resetLine s = u at *
  obtain ⟨engine', -⟩ := folds younger (u.resetLine l) notYounger
  exact (u.resetLine_reset l).congr engine.symm contract.symm engine'

theorem State.resetLines_keeps (s : State) (ls : List Line) :
    (ls.foldl State.resetLine s).straps = s.straps ∧ (ls.foldl State.resetLine s).link = s.link := by
  induction ls generalizing s with
  | nil => exact ⟨rfl, rfl⟩
  | cons m ms ih =>
    obtain ⟨straps, link⟩ := ih (s.resetLine m)
    obtain ⟨straps', link'⟩ := s.resetLine_keeps m
    exact ⟨straps.trans straps', link.trans link'⟩

theorem resetContract_eq (st : Straps) (present : Bool) (l : Line) :
    let record := Contract.fresh { (State.reset.contract l).options with roles := st.roles }
    resetContract st present = (if present = false then record
      else if st = .disabled then { record with state := .blocked }
      else { record with state := .greeting, timers := { record.timers with greetingDelay := some 50 } }) := by
  have options : { (State.reset.contract l).options with roles := st.roles } = Options.default st := by cases l <;> rfl
  rw [options]
  cases present with
  | false => rfl
  | true =>
    simp only [resetContract, Bool.true_eq_false, if_false, if_true]
    split <;> rfl

@[simp] theorem State.acting_receiver (s : State) : s.acting.link.receiver = .idle := by
  change (LinkUnit.endAutonomous _).receiver = _
  unfold LinkUnit.endAutonomous
  split <;> rfl

@[simp] theorem State.acting_stx (s : State) : s.acting.link.stx = s.link.stx := by
  change (LinkUnit.endAutonomous _).stx = _
  unfold LinkUnit.endAutonomous
  split <;> rfl

/-- Settles O52: the lines in turn, each from its own engine and record, then the blocks. -/
theorem resetPartResetsTheBlocks : Obligations.ResetPartResetsTheBlocks := by
  intro s num takes
  have sent := State.deviceRequest_sent takes (code := 0x02) (num := num) (args := []) (act := fun t => t.resetPart.answer .ok) rfl
  obtain ⟨straps, link⟩ := s.acting.resetLines_keeps Line.everyLine
  refine ⟨_, sent, rfl, straps, rfl, rfl, rfl, rfl, rfl, rfl, rfl, ?_, fun l => ?_⟩
  · have written : ((State.resetPart s.acting).respond ⟨.device, num, 0x02, .ok, []⟩).link =
        { LinkUnit.powerOn with
          receiver := (Line.everyLine.foldl State.resetLine s.acting).link.receiver
          stx := (Line.everyLine.foldl State.resetLine s.acting).link.stx
          responses := [⟨.device, num, 0x02, .ok, []⟩] } := rfl
    refine written.trans ?_
    rw [link, s.acting_receiver, s.acting_stx]
    rfl
  · have reset : EngineReset l s (Line.everyLine.foldl State.resetLine s.acting) :=
      (s.acting.resetLines_reset l).congr rfl rfl rfl
    refine ⟨reset.unmuted, reset.count, reset.health, reset.convention, reset.present, reset.presenceRun, reset.rxSide,
      reset.rxChars, reset.drain, reset.ending, reset.kept, ?_⟩
    change (Line.everyLine.foldl State.resetLine s.acting).resetBlocks.contract l = _
    rw [State.resetBlocks_contract, reset.present, straps, resetContract_eq _ _ l]
    rfl

end Sys2Proof.Machine
end

section
/-! SUPPORT. What the applying of a decision leaves of the link unit, and proofs for QUIET and LINK_RESTART (R165, R169, R173). -/

namespace Sys2Proof.Machine

/-! ### What an event of a line leaves of the link unit -/

/-- The link unit keeps its receiver, its responses, its mode and its values; an empty verdict queue stays empty, and the setup
stands. -/
structure LinkKept (s t : State) : Prop where
  setup : s.SameSetup t
  receiver : t.link.receiver = s.link.receiver
  responses : t.link.responses = s.link.responses
  mode : t.link.mode = s.link.mode
  wakeSet : t.link.wakeSet = s.link.wakeSet
  linkError : t.link.linkError = s.link.linkError
  stance : t.link.stance = s.link.stance
  verdicts : s.link.verdicts = [] → t.link.verdicts = []

section Kept
variable {s t u : State} {l : Line}

theorem LinkKept.refl (s : State) : LinkKept s s := ⟨⟨rfl, rfl, rfl, rfl, rfl, rfl⟩, rfl, rfl, rfl, rfl, rfl, rfl, id⟩

theorem LinkKept.trans (first : LinkKept s t) (second : LinkKept t u) : LinkKept s u := by
  obtain ⟨⟨pending, now, straps, prefs, menu, free⟩, receiver, responses, mode, wakeSet, linkError, stance, verdicts⟩ := first
  obtain ⟨⟨pending', now', straps', prefs', menu', free'⟩, receiver', responses', mode', wakeSet', linkError', stance',
    verdicts'⟩ := second
  exact ⟨⟨pending'.trans pending, now'.trans now, straps'.trans straps, prefs'.trans prefs, menu'.trans menu,
    free'.trans free⟩, receiver'.trans receiver, responses'.trans responses, mode'.trans mode, wakeSet'.trans wakeSet,
    linkError'.trans linkError, stance'.trans stance, verdicts' ∘ verdicts⟩

theorem LinkKept.of_same (setup : s.SameSetup t) (link : s.SameButNotices t) : LinkKept s t := by
  obtain ⟨receiver, responses, verdicts, mode, wakeSet, linkError, stance, -⟩ := link
  exact ⟨setup, receiver, responses, mode, wakeSet, linkError, stance, fun empty => verdicts.trans empty⟩

/-- A change of engines, records, channels, budget and fault records leaves the link unit. -/
theorem LinkKept.of_link (setup : s.SameSetup t) (link : t.link = s.link) : LinkKept s t :=
  ⟨setup, by rw [link], by rw [link], by rw [link], by rw [link], by rw [link], by rw [link], fun empty => by rw [link, empty]⟩

theorem LinkKept.dropVerdict (s : State) (l : Line) : LinkKept s (s.dropVerdict l) :=
  ⟨⟨rfl, rfl, rfl, rfl, rfl, rfl⟩, rfl, rfl, rfl, rfl, rfl, rfl, fun empty => by rw [State.dropVerdict_link, empty]; rfl⟩

theorem LinkKept.raise (s : State) (src : Source) (body : NoticeBody) : LinkKept s (s.raise src body) :=
  .of_same ⟨rfl, rfl, rfl, rfl, rfl, rfl⟩ (s.raise_sameButNotices src body)

theorem LinkKept.onContract (s : State) (l : Line) (f : Contract → Contract) : LinkKept s (s.onContract l f) :=
  .of_link ⟨rfl, rfl, rfl, rfl, rfl, rfl⟩ rfl

theorem LinkKept.hand (s : State) (l : Line) (f : Frame) : LinkKept s (s.hand l f) :=
  .of_link ⟨rfl, rfl, rfl, rfl, rfl, rfl⟩ rfl

theorem LinkKept.claimDraw (s : State) (l : Line) : LinkKept s (s.claimDraw l) :=
  .of_same (s.claimDraw_setup l) (s.claimDraw_sameButNotices l)

theorem LinkKept.claimSupply (s : State) (l : Line) : LinkKept s (s.claimSupply l) :=
  .of_same (s.claimSupply_setup l) (s.claimSupply_sameButNotices l)

theorem LinkKept.originate (s : State) (l : Line) (r : Request) : LinkKept s (s.originate l r) := by
  rw [(s.originate_slot l r).rest]
  exact .of_link ⟨rfl, rfl, rfl, rfl, rfl, rfl⟩ rfl

theorem LinkKept.endEvent (s : State) (l : Line) : LinkKept s (s.endEvent l) :=
  .of_link (s.endEvent_setup l) rfl

/-- R52: a closing drops the line's verdict entry, and no other line's. -/
theorem LinkKept.closing (s : State) (l : Line) (f : Contract → Contract) : LinkKept s (s.closing l f) := by
  have released : LinkKept s (((s.dropVerdict l).onContract l f).releaseBoth l) :=
    ((LinkKept.dropVerdict s l).trans (.onContract _ l f)).trans (.of_same (State.releaseBoth_setup ..) (State.releaseBoth_sameButNotices ..))
  have ended : LinkKept s ((((s.dropVerdict l).onContract l f).releaseBoth l).onChannel l fun ch => { ch with energy := 0 }) :=
    released.trans (.of_link ⟨rfl, rfl, rfl, rfl, rfl, rfl⟩ rfl)
  unfold State.closing
  dsimp only
  split
  · exact ended
  · exact ended.trans (.raise ..)

theorem LinkKept.endToBlocked (s : State) (l : Line) (r : EndReason) (o : Outcome) : LinkKept s (s.endToBlocked l r o) :=
  LinkKept.trans (t := s.handNew l (.ending r)) (.of_link ⟨rfl, rfl, rfl, rfl, rfl, rfl⟩ rfl) (.closing ..)

theorem LinkKept.rebuildMenu (s : State) (l : Line) : LinkKept s (s.rebuildMenu l) := by
  rw [State.rebuildMenu_eq]
  exact .of_link ⟨rfl, rfl, rfl, rfl, rfl, rfl⟩ rfl

/-- R50: the role decision. -/
theorem LinkKept.decideRole (s : State) (l : Line) : LinkKept s (s.decideRole l) := by
  unfold State.decideRole
  dsimp only
  split
  · exact .onContract ..
  · split
    · exact (LinkKept.onContract ..).trans (.rebuildMenu ..)
    · exact .endToBlocked ..

/-- R49: an action applied to an ANNOUNCE. -/
theorem LinkKept.applyAnnounce (s : State) (l : Line) (answering : Bool) (a : Action) (clamp : Nat) :
    LinkKept s (s.applyAnnounce l answering a clamp) := by
  have accepted : ∀ u : State, LinkKept u ((if answering then u else u.hand l ⟨1, u.announce l true⟩).decideRole l) := by
    intro u
    refine LinkKept.trans ?_ (.decideRole ..)
    split
    · exact .refl u
    · exact .hand ..
  cases a with
  | auto => exact accepted s
  | clamp => exact (LinkKept.onContract ..).trans (accepted _)
  | refuse => exact .endToBlocked ..
  | wait | forward => exact .refl s

/-- R71, R72: a selection claims or ends. -/
theorem LinkKept.select (s : State) (l : Line) (k : Cursor) : LinkKept s (s.select l k) := by
  obtain ⟨n, f, claims⟩ | ends := s.select_cases l k
  · rw [claims]
    exact ((LinkKept.onContract ..).trans (.claimDraw ..)).trans ((LinkKept.onContract ..).trans (.originate ..))
  · rw [ends]
    exact LinkKept.trans (t := s.handNew l (.ending .noSuitablePoint)) (.of_link ⟨rfl, rfl, rfl, rfl, rfl, rfl⟩ rfl)
      (.closing ..)

theorem LinkKept.applyMenu (s : State) (l : Line) (a : Action) (clamp : Nat) : LinkKept s (s.applyMenu l a clamp) :=
  (LinkKept.onContract ..).trans (.select ..)

theorem LinkKept.grantClaim (s : State) (l : Line) (tag : Tag) (f : ClaimFields) (granted : Nat) :
    LinkKept s (s.grantClaim l tag f granted) := by
  have reserved : LinkKept s ((s.onContract l fun c =>
      { c with grant := some ⟨f.voltage, granted, (s.contract l).options.lease, f.point, tag⟩ }).claimSupply l) :=
    (LinkKept.onContract ..).trans (.claimSupply ..)
  exact (reserved.trans (.hand _ l ⟨tag, .grant granted _⟩)).trans (.onContract _ l fun c => c.enter .powering)

/-- R93: an action applied to a CLAIM. -/
theorem LinkKept.applyClaim (s : State) (l : Line) (tag : Tag) (f : ClaimFields) (a : Action) (clamp : Nat) :
    LinkKept s (s.applyClaim l tag f a clamp) := by
  have admitted : ∀ clamp, LinkKept s (s.admission l tag f clamp) := by
    intro clamp
    unfold State.admission
    dsimp only
    split
    · exact .grantClaim ..
    · exact .hand ..
  cases a with
  | auto => exact admitted none
  | clamp => exact admitted (some clamp)
  | refuse | wait | forward => exact .hand ..

theorem LinkKept.applyDecision (s : State) (l : Line) (a : Action) (clamp : Nat) : LinkKept s (s.applyDecision l a clamp) := by
  unfold State.applyDecision
  split
  · exact .refl s
  · next d decided =>
    refine LinkKept.trans ?_ (.endEvent ..)
    cases d.what with
    | announce answering => exact (LinkKept.onContract ..).trans (.applyAnnounce ..)
    | menu => exact (LinkKept.onContract ..).trans (.applyMenu ..)
    | claim f =>
      refine LinkKept.trans (t := s.leaveDeciding l) (.onContract ..) ?_
      dsimp only
      split
      · exact .hand ..
      · exact .applyClaim ..

theorem LinkKept.fallback (s : State) (v : VerdictEntry) : LinkKept s (s.fallback v) :=
  (LinkKept.dropVerdict ..).trans (.applyDecision ..)

theorem LinkKept.fallbacks (vs : List VerdictEntry) (s : State) : LinkKept s (vs.foldl State.fallback s) := by
  induction vs generalizing s with
  | nil => exact .refl s
  | cons v vs ih => exact (LinkKept.fallback s v).trans (ih _)

end Kept

/-! ### The standing entries resolved (R165) -/

theorem permute_perm {α : Type} (k : Nat) (xs : List α) : (permute k xs).Perm xs := by
  match xs with
  | [] => exact .refl _
  | [x] => exact .refl _
  | x :: y :: ys =>
    have tail := permute_perm (k / ((y :: ys).length + 1)) (y :: ys)
    have inside : k % ((y :: ys).length + 1) ≤ (permute (k / ((y :: ys).length + 1)) (y :: ys)).length := by
      rw [tail.length_eq]
      exact Nat.le_of_lt_succ (Nat.mod_lt _ (Nat.succ_pos _))
    exact (List.perm_insertIdx x _ inside).trans (tail.cons x)

/-- R165: an entry alone in the queue, its deadline reached, is resolved as any entry is. -/
theorem exec_verdictDeadline_alone {s : State} (empty : s.link.verdicts = []) (v : VerdictEntry) :
    exec (.verdictDeadline v.line) { s with link := { s.link with verdicts := [{ v with deadline := s.now }] } } =
      .next (s.fallback v) := by
  have entry : State.verdictOf { s with link := { s.link with verdicts := [{ v with deadline := s.now }] } } v.line =
      some { v with deadline := s.now } := by
    simp [State.verdictOf]
  have due : State.reached { s with link := { s.link with verdicts := [{ v with deadline := s.now }] } } s.now = true := by
    simp [State.reached, reachedAt]
  have dropped : State.dropVerdict { s with link := { s.link with verdicts := [{ v with deadline := s.now }] } } v.line =
      s.dropVerdict v.line := by
    simp [State.dropVerdict, State.onLink, empty]
  change execVerdictDeadline v.line _ = _
  simp only [execVerdictDeadline, entry, due, if_true, State.fallback, dropped]

theorem resolvedInTurn_fold {vs : List VerdictEntry} {s : State} (empty : s.link.verdicts = []) :
    ResolvedInTurn vs s (vs.foldl State.fallback s) := by
  induction vs generalizing s with
  | nil => rfl
  | cons v vs ih => exact ⟨_, exec_verdictDeadline_alone empty v, ih ((LinkKept.fallback s v).verdicts empty)⟩

/-- R165: resolving every entry with none standing changes the link unit alone. -/
theorem State.resolveAll_of_none {s : State} (none : s.link.verdicts = []) (change : LinkUnit → LinkUnit) :
    s.resolveAll change = { s with freeCount := s.freeCount + 1, link := { change s.link with verdicts := [] } } := by
  rw [State.resolveAll, none]
  rfl

theorem State.resolveAll_in_turn (s : State) (change : LinkUnit → LinkUnit) : ∃ order, order.Perm s.link.verdicts ∧
    ResolvedInTurn order { s with freeCount := s.freeCount + 1, link := { change s.link with verdicts := [] } }
      (s.resolveAll change) :=
  ⟨_, permute_perm _ _, resolvedInTurn_fold rfl⟩

theorem State.resolveAll_kept (s : State) (change : LinkUnit → LinkUnit) :
    LinkKept { s with freeCount := s.freeCount + 1, link := { change s.link with verdicts := [] } } (s.resolveAll change) :=
  .fallbacks ..

@[simp] theorem State.acting_verdicts (s : State) : s.acting.link.verdicts = s.link.verdicts := by
  change (LinkUnit.endAutonomous _).verdicts = _
  unfold LinkUnit.endAutonomous
  split <;> rfl

/-- R175, R176: a request that acts finds WAKE deasserted. -/
theorem State.acting_wake {s : State} (rests : s.link.wakeRests) : s.acting.link.wake = false := by
  change (LinkUnit.endAutonomous _).wake = _
  unfold LinkUnit.endAutonomous
  split
  · next running => exact (rests running).1
  · rfl

theorem exec_quiet {s : State} (takes : s.Takes) (num wake : Byte) : exec (.quiet (Req.framed 0x03 .device num [wake])) s =
    .next ((s.acting.goQuiet (wake.setWidth 7)).respond ⟨.device, num, 0x03, .ok, []⟩) :=
  State.deviceRequest_sent takes (args := [wake]) rfl

/-- R173: QUIET with no entry standing. -/
theorem State.goQuiet_of_none {t : State} (none : t.link.verdicts = []) (unwoken : t.link.wake = false) (w : BitVec 7) :
    t.goQuiet w = { t with
      freeCount := t.freeCount + 1
      link := { t.link with
        mode := .autonomous
        wakeSet := w
        wake := t.link.notices.any fun n => w.getLsbD (n.body.kind.code - 1) } } := by
  rw [State.goQuiet, State.resolveAll_of_none none]
  simp only [State.onLink, none, unwoken, Bool.false_or]
  rfl

theorem State.goQuiet_wake (t : State) (w : BitVec 7) :
    let u := t.resolveAll fun u => { u with mode := .autonomous, wakeSet := w }
    t.goQuiet w = { u with link := { u.link with
      wake := u.link.wake || u.link.notices.any fun n => w.getLsbD (n.body.kind.code - 1) } } := by
  have judged : ∀ u : State, u.link.wakeSet = w → u.onLink (fun u => { u with wake := u.wake || u.wakeWaiting }) =
      { u with link := { u.link with
        wake := u.link.wake || u.link.notices.any fun n => w.getLsbD (n.body.kind.code - 1) } } := by
    rintro u rfl
    rfl
  exact judged _ (t.resolveAll_kept _).wakeSet

/-- Settles O53: the entries resolved one by one are each resolved as one that stands alone, and none of them opens another. -/
theorem quietAndRestartEmptyTheVerdictQueue : Obligations.QuietAndRestartEmptyTheVerdictQueue := by
  intro s num wake
  refine ⟨fun takes none rests => ?_, fun takes => ?_, fun takes => ?_, fun none => ?_, ?_, ?_⟩
  · rw [exec_quiet takes, State.goQuiet_of_none (s.acting_verdicts.trans none) (State.acting_wake rests), State.acting_notices]
    rfl
  · obtain ⟨order, perm, resolved⟩ :=
      s.acting.resolveAll_in_turn fun u => { u with mode := .autonomous, wakeSet := wake.setWidth 7 }
    rw [State.acting_verdicts] at perm
    exact ⟨order, _, perm, resolved, by rw [exec_quiet takes, State.goQuiet_wake]⟩
  · obtain ⟨⟨-, now, -⟩, -, responses, mode, wakeSet, -, -, verdicts⟩ :=
      s.acting.resolveAll_kept fun u => { u with mode := .autonomous, wakeSet := wake.setWidth 7 }
    exact ⟨_, exec_quiet takes num wake, mode, wakeSet, verdicts rfl, now,
      congrArg (· ++ [_]) (responses.trans s.acting_responses)⟩
  · change Host.Outcome.next (State.onLink (s.resolveAll _) _) = _
    rw [State.resolveAll_of_none none]
    simp only [State.onLink, none]
  · obtain ⟨order, perm, resolved⟩ := s.resolveAll_in_turn fun u => { u with receiver := .skipping, responses := [], notices := [] }
    exact ⟨order, _, perm, resolved, rfl⟩
  · have kept := s.resolveAll_kept fun u => { u with receiver := .skipping, responses := [], notices := [] }
    obtain ⟨⟨-, now, straps, prefs, menu, -⟩, receiver, responses, -, -, linkError, stance, verdicts⟩ := kept
    exact ⟨_, rfl, receiver, responses, verdicts rfl, rfl, rfl, rfl, linkError, stance, now, straps, prefs, menu⟩

end Sys2Proof.Machine
end

section
/-! SUPPORT. The entry to ACTIVE (R80, R98), and proofs for the reports of a channel (R97, R98, R100, R104, R139, R146). -/

namespace Sys2Proof.Machine

/-! ### What both entries to ACTIVE do (R80, R98) -/

section NowActive
variable (s : State) (l : Line)

theorem State.nowActive_contract_self : (s.nowActive l).contract l = { s.contract l with
    lastOutcome := some .done, paused := (s.contract l).paused || (s.contract l).options.holdAfterActive } := by
  rw [State.nowActive, State.onContract_contract_self]
  have reported : (((s.record l .done).raiseAgreed l).clearStrikes l).contract l = { s.contract l with lastOutcome := some .done } :=
    ((State.raiseAgreed_contracts (s.record l .done) l).2 l).trans (s.record_contract_self l .done)
  rw [reported]

@[simp] theorem State.nowActive_setup : s.SameSetup (s.nowActive l) := by
  simp [State.SameSetup, State.nowActive]

@[simp] theorem State.nowActive_engines : s.SameEngines (s.nowActive l) := by
  simp [State.SameEngines, State.nowActive]

@[simp] theorem State.nowActive_channels : s.SameChannels (s.nowActive l) := by
  simp [State.SameChannels, State.nowActive]

@[simp] theorem State.nowActive_budget : (s.nowActive l).budget = s.budget := by
  simp [State.nowActive]

@[simp] theorem State.nowActive_strikes_self : (s.nowActive l).strikes.get l = 0 :=
  State.clearStrikes_strikes_self ..

@[simp] theorem State.nowActive_rules : (s.nowActive l).rules = s.rules := by
  simp [State.nowActive]

@[simp] theorem State.nowActive_sameButNotices : s.SameButNotices (s.nowActive l) := by
  simp [State.SameButNotices, State.nowActive]

variable {s l}

theorem State.nowActive_told {a : Agreement} (agreement : (s.contract l).agreement = some a) : (s.nowActive l).Told l s.now
    (.agreed (s.contract l).role (s.contract l).state (some .done) a.voltage a.current a.lease a.point) := by
  have recorded : ((s.record l .done).contract l).agreement = some a := by simpa using agreement
  have told := State.told_raise (s.record l .done) l (.agreed ((s.record l .done).contract l).role
    ((s.record l .done).contract l).state ((s.record l .done).contract l).lastOutcome a.voltage a.current a.lease a.point)
  rw [← State.raiseAgreed_of recorded, State.record_contract_self] at told
  exact State.Told.of_notices (s := (s.record l .done).raiseAgreed l) told rfl

end NowActive

/-! ### The settle event (R98) -/

section Settled
variable {s : State} {l : Line} {g : PowerGrant} {v : Nat}

/-- R9: whether the transmit side takes a frame behind the one just handed. -/
theorem LineEngine.hand_accepts (e : LineEngine) (chars : List Byte) :
    (e.hand chars).accepts = (e.canSend && decide (e.txQueue.length < 3)) := by
  have can : (e.hand chars).canSend = e.canSend := by
    unfold LineEngine.hand
    split <;> rfl
  change ((e.hand chars).canSend && decide ((e.hand chars).txQueue.length < 4)) = _
  rw [can, LineEngine.hand_txQueue]
  cases sends : e.canSend with
  | false => rfl
  | true =>
    have room : e.accepts = decide (e.txQueue.length < 4) := by
      change (e.canSend && _) = _
      rw [sends, Bool.true_and]
    by_cases fits : e.txQueue.length < 4
    · simp [room, fits]
      omega
    · simp [room, fits]
      omega

theorem LineEngine.hand_nextId (e : LineEngine) (chars : List Byte) : (e.hand chars).nextId = e.nextId + 1 := by
  unfold LineEngine.hand
  split <;> rfl

/-- R98: the grant becomes the agreement. -/
def PowerGrant.agreed (g : PowerGrant) : Agreement := ⟨g.voltage, g.current, g.lease, g.point⟩

/-- R98: the record as ACTIVE is entered. -/
def Contract.settled (c : Contract) (g : PowerGrant) (deadline : Time) : Contract :=
  { ({ c with agreement := some g.agreed, grant := none }).enter .active with leaseDeadline := some deadline }

/-- R98: the READY sent, the grant agreed and committed. -/
def State.settling (s : State) (l : Line) (g : PowerGrant) (v : Nat) : State :=
  ((s.hand l ⟨g.tag, .ready v g.current⟩).onContract l fun c =>
    { c with agreement := some g.agreed, grant := none }).claimSupply l

/-- R98: ACTIVE entered, before the pending target is taken up. -/
def State.settledActive (s : State) (l : Line) (g : PowerGrant) (v : Nat) : State :=
  let s3 := (s.settling l g v).onContract l fun c => { c.enter .active with leaseDeadline := some (s.after (1000 * g.lease)) }
  (s3.command l (s3.contract l).path).nowActive l

theorem State.settled_of (grant : (s.contract l).grant = some g) : s.settled l v = (s.settledActive l g v).takeTarget l := by
  simp only [State.settled, grant, State.settledActive, State.settling, PowerGrant.agreed]

theorem State.settling_line (powering : (s.contract l).state = .powering) :
    (s.settling l g v).contract l = { s.contract l with agreement := some g.agreed, grant := none } ∧
      (s.settling l g v).engine l = (s.engine l).hand (Frame.mk g.tag (.ready v g.current)).chars := by
  obtain ⟨contract, engine⟩ := State.claimSupply_line (l := l) (m := l)
    (s := (s.hand l ⟨g.tag, .ready v g.current⟩).onContract l fun c => { c with agreement := some g.agreed, grant := none })
    (Contract.awaitsRise_of_state (by simp [powering]))
  exact ⟨contract.trans (by simp), engine.trans (by simp)⟩

theorem State.settledActive_line (powering : (s.contract l).state = .powering) :
    (s.settledActive l g v).contract l = { (s.contract l).settled g (s.after (1000 * g.lease)) with
        lastOutcome := some .done, paused := (s.contract l).paused || (s.contract l).options.holdAfterActive } ∧
      (s.settledActive l g v).engine l = (s.engine l).hand (Frame.mk g.tag (.ready v g.current)).chars := by
  obtain ⟨contract, engine⟩ := State.settling_line (g := g) (v := v) powering
  exact ⟨by simp [State.settledActive, State.nowActive_contract_self, contract, Contract.settled, Contract.enter],
    by simp [State.settledActive, engine]⟩

theorem State.settledActive_now (s : State) (l : Line) (g : PowerGrant) (v : Nat) : (s.settledActive l g v).now = s.now := by
  simp [State.settledActive, State.settling]

theorem State.settledActive_untripped (untripped : (s.channel l).tripped = false) :
    ((s.settledActive l g v).channel l).tripped = false := by
  simpa [State.settledActive] using (Channel.take_command (by simpa [State.settling] using untripped) ..).2

theorem State.settledActive_supplyCommit :
    (s.settledActive l g v).budget.supplyCommit.get l = g.voltage * g.current / 200 := by
  simp [State.settledActive, State.settling, Contract.supplyCommitment, PowerGrant.agreed, power]

theorem State.settledActive_told (powering : (s.contract l).state = .powering) (supply : (s.contract l).role = .supply) :
    (s.settledActive l g v).Told l s.now (.agreed .supply .active (some .done) g.voltage g.current g.lease g.point) := by
  obtain ⟨contract, -⟩ := State.settling_line (g := g) (v := v) powering
  have told := State.nowActive_told (l := l) (a := g.agreed)
    (s := ((s.settling l g v).onContract l fun c =>
      { c.enter .active with leaseDeadline := some (s.after (1000 * g.lease)) }).command l
        ((s.contract l).settled g (s.after (1000 * g.lease))).path) (by simp [contract, Contract.enter])
  have now : (s.settling l g v).now = s.now := by simp [State.settling]
  simpa [State.settledActive, contract, Contract.settled, Contract.enter, supply, now, PowerGrant.agreed] using told

theorem execSettleEvent_of_powering (report : (s.channel l).settleReport = some v) (powering : (s.contract l).state = .powering) :
    exec (.settleEvent l) s =
      .next (((s.onChannel l fun ch => { ch with settleReport := none }).settled l v).endEvent l) := by
  change execSettleEvent l s = _
  simp only [execSettleEvent, report, if_pos powering]

end Settled

/-! ### The cap event (R104) -/

section Capped
variable {s : State} {l : Line}

/-- R104: the report of the cap is taken. -/
def State.capTaken (s : State) (l : Line) : State := s.onChannel l fun ch => { ch with capReport := false }

theorem execCapEvent_of (report : (s.channel l).capReport = true) :
    exec (.capEvent l) s = .next (((s.capTaken l).takeCap l).endEvent l) := if_pos report

theorem Still.capTaken (s : State) (l : Line) : Still l s (s.capTaken l) := by
  refine ⟨?_, ?_, ?_, rfl, rfl, rfl⟩ <;> simp [State.capTaken]

@[simp] theorem State.capTaken_line (s : State) (l : Line) : (s.capTaken l).contract l = s.contract l ∧
    (s.capTaken l).engine l = s.engine l ∧ (s.capTaken l).now = s.now ∧ ((s.capTaken l).channel l).capReport = false := by
  simp [State.capTaken]

theorem Channel.take_capReport (ch : Channel) {cmd : PathCommand} (unwatched : cmd.watch.settle = false) (now : Time)
    (capped : Bool) : (ch.take cmd now capped).capReport = ch.capReport := by
  unfold Channel.take
  dsimp only
  split
  · rfl
  · simp [unwatched]

/-- R146: the end of an event in a state whose command watches no settling leaves the report of the cap. -/
theorem State.endEvent_capReport (unwatched : ((s.endEvent l).contract l).path.watch.settle = false) :
    ((s.endEvent l).channel l).capReport = (s.channel l).capReport := by
  rw [State.channel_endEvent]
  exact Channel.take_capReport _ unwatched _ _

/-- R100: the target that a recall cause leaves pending. -/
theorem mergeTarget_eq (t : Option RecallTarget) (level : Nat) (cause : RecallCause) :
    mergeTarget t level cause = (match t with
      | some old => if old.level ≤ level then old else ⟨level, cause⟩
      | none => ⟨level, cause⟩) := by
  cases t <;> rfl

/-- R100: a cause whose recall cannot be sent now is left pending. -/
theorem State.recallCause_of_waiting {asked : Nat} {cause : RecallCause} (waits : (s.contract l).state = .powering ∨
      ((s.contract l).state = .active ∧ (s.contract l).role = .supply ∧ (s.contract l).recallOut.isSome = true)) :
    s.recallCause l asked cause = s.onContract l fun c =>
      { c with target := some (mergeTarget c.target (max asked (s.contract l).options.baseline) cause) } := by
  unfold State.recallCause
  dsimp only
  obtain powering | ⟨active, supply, out⟩ := waits
  · rw [if_pos powering]
  · rw [if_neg (by simp [active]), if_pos ⟨active, supply⟩, if_pos out]

theorem State.recallCause_of_agreed {asked : Nat} {cause : RecallCause} {a : Agreement} (active : (s.contract l).state = .active)
    (supply : (s.contract l).role = .supply) (none : (s.contract l).recallOut = none)
    (agreement : (s.contract l).agreement = some a) : s.recallCause l asked cause =
      if max asked (s.contract l).options.baseline < a.current then
        s.sendRecall l (max asked (s.contract l).options.baseline) cause else s := by
  simp [State.recallCause, active, supply, none, agreement]

theorem Still.sendRecall (s : State) (l : Line) (level : Nat) (cause : RecallCause) : Still l s (s.sendRecall l level cause) := by
  obtain ⟨rest, record, -⟩ := s.sendRecall_slot l level cause
  obtain ⟨state, role, -⟩ := record.fields
  have channel : (s.sendRecall l level cause).channel l = s.channel l := by rw [rest]; rfl
  exact ⟨by rw [channel], by rw [channel], by rw [channel], record.path, state, role⟩

/-- R104: the states in which the cap event is taken. -/
def Contract.Powers (c : Contract) : Prop := c.state = .powering ∨ (c.state = .active ∧ c.role = .supply)

theorem State.takeCap_of_powers (powers : (s.contract l).Powers) : s.takeCap l =
    (match (s.contract l).options.capMode with
      | .uncapped => s
      | .endAtCap => s.endToGreeting l .capReached .capReached
      | .recallAtCap => s.recallCause l (s.contract l).options.baseline .cap) :=
  if_pos powers

theorem State.takeCap_of_ignored (ignored : ¬(s.contract l).Powers ∨ (s.contract l).options.capMode = .uncapped) :
    s.takeCap l = s := by
  unfold State.takeCap
  dsimp only
  split
  · next powers => rw [ignored.resolve_left (not_not_intro powers)]
  · rfl

/-- R104: the cap event under RECALL_AT_CAP is a recall cause at the baseline current. -/
theorem State.takeCap_of_recallAtCap (powers : (s.contract l).Powers) (mode : (s.contract l).options.capMode = .recallAtCap) :
    s.takeCap l = s.recallCause l (s.contract l).options.baseline .cap := by
  rw [State.takeCap_of_powers powers, mode]

end Capped

/-- Settles O33: the settle event by the entry to ACTIVE and the take-up of the target; the cap event by the cap mode. -/
theorem channelReportsAreTaken : Obligations.ChannelReportsAreTaken := by
  refine ⟨fun l s v report => ⟨fun elsewhere => ?_, fun g powering grant settled => ?_⟩, fun l s report settled => ?_⟩
  · change execSettleEvent l s = _
    simp only [execSettleEvent, report, if_neg elsewhere]
  · have row := execSettleEvent_of_powering report powering
    have supply : (s.contract l).role = .supply := by
      have role := settled.2.2
      rw [powering] at role
      exact role.symm
    have untripped : ((s.onChannel l fun ch => { ch with settleReport := none }).channel l).tripped = false := by
      simpa using settled.1
    generalize taken : (s.onChannel l fun ch => { ch with settleReport := none }) = u at row untripped
    have contract : u.contract l = s.contract l := by simp [← taken]
    have engine : u.engine l = s.engine l := by simp [← taken]
    have now : u.now = s.now := by simp [← taken]
    rw [State.settled_of (by rw [contract, grant])] at row
    obtain ⟨record, side⟩ := State.settledActive_line (s := u) (g := g) (v := v) (by rw [contract, powering])
    rw [contract, State.after, now] at record
    rw [engine] at side
    have told := State.settledActive_told (s := u) (g := g) (v := v) (by rw [contract, powering]) (by rw [contract, supply])
    have commit := State.settledActive_supplyCommit (s := u) (l := l) (g := g) (v := v)
    have strikes : (u.settledActive l g v).strikes.get l = 0 := State.nowActive_strikes_self ..
    have time : (u.settledActive l g v).now = s.now := (u.settledActive_now l g v).trans now
    have stored := State.settledActive_untripped (g := g) (v := v) untripped
    generalize u.settledActive l g v = w at *
    have agreement : (w.contract l).agreement = some g.agreed := by rw [record]; rfl
    obtain ⟨agreed, target, active, supplies, outcome, command, met⟩ := State.takeTarget_ends agreement (by rw [record]; rfl)
      (by rw [record]; exact supply) stored
    have kept := w.takeTarget_taken l
    obtain ⟨-, -, -, -, paused, noGrant, lease, -⟩ := kept.record.fields
    refine ⟨_, row, active, supplies, agreed, ?_, outcome.trans (by rw [record]), ?_, ?_, target, fun satisfied => ?_,
      fun none free => ?_, command, ?_, ?_, ?_, linesDoNotInterfere (.settleEvent l) l s _ rfl row⟩
    · rw [State.endEvent_contract_self]
      exact noGrant.trans (by rw [record]; rfl)
    · rw [State.endEvent_contract_self]
      exact paused.trans (by rw [record])
    · rw [State.endEvent_contract_self]
      exact lease.trans (by rw [record]; rfl)
    · obtain ⟨out, -, queue⟩ := met fun r pending => satisfied r (by rw [record] at pending; exact pending)
      exact ⟨out.trans (by rw [record]; rfl), fun room => Handed.of_engine (queue.trans side) room⟩
    · have recalled := State.takeTarget_recalled (s := s) agreement (by rw [record]; rfl) (by rw [record]; exact none)
        (by rw [record]; exact free) (by rw [record]; rfl) (by rw [record]; rfl) time
      rw [side, LineEngine.hand_accepts, LineEngine.hand_txQueue, LineEngine.hand_nextId] at recalled
      exact recalled.endEvent
    · rw [State.endEvent_budget, kept.budget, commit]
    · rw [(State.endEvent_records _ _).2.2, kept.records.2.2, strikes]
    · exact State.Told.of_notices (s := w.takeTarget l) (State.Told.takeTarget (now ▸ told) l) rfl
  · intro c taken supplying
    have row := execCapEvent_of report
    have u : s.capTaken l = taken := rfl
    obtain ⟨contract, engine, now, report'⟩ := s.capTaken_line l
    refine ⟨fun ignored => ?_, fun powers mode accepts => ?_, fun mode => ⟨fun waits => ?_, fun a active supply none agreement =>
      ⟨fun low => ?_, fun high free => ?_⟩⟩⟩
    · rw [row, State.takeCap_of_ignored (by rw [contract]; exact ignored), State.endEvent_of_still (.capTaken s l) settled, u]
    · have ends : (s.capTaken l).takeCap l = (s.capTaken l).endToGreeting l .capReached .capReached := by
        rw [State.takeCap_of_powers (by rw [contract]; exact powers), contract, mode]
      rw [ends] at row
      have closed : ClosedTo l s _ .greeting .none (some .capReached) :=
        State.endToGreeting_closedTo (u := s.capTaken l) (by rw [contract]) now .capReached .capReached
      refine ⟨_, row, closed, ?_, ?_, Handed.of_engine ?_ accepts, linesDoNotInterfere (.capEvent l) l s _ rfl row⟩
      · rw [State.endEvent_capReport (by rw [Contract.path_of_uncontracted (by rw [closed.state]; rfl)]; rfl)]
        simp [State.endToGreeting, State.closeToGreeting]
      · rw [State.endEvent_contract_self, State.endToGreeting_contract_self, State.after, now]
        rfl
      · rw [(State.endEvent_engines _ _).2, State.endToGreeting_engine_self, contract, engine]
    · have powers : (s.contract l).Powers := waits.imp_right fun ⟨active, supply, _⟩ => ⟨active, supply⟩
      rw [row, State.takeCap_of_recallAtCap (by rw [contract]; exact powers) (by rw [contract]; exact mode),
        State.recallCause_of_waiting (by rw [contract]; exact waits),
        State.endEvent_of_still ((Still.capTaken s l).onContract l _) settled]
      refine congrArg Host.Outcome.next (State.onContract_congr ?_)
      rw [contract, max_self]
      exact congrArg (fun target => { s.contract l with target := some target }) (mergeTarget_eq ..)
    · rw [row, State.takeCap_of_recallAtCap (by rw [contract]; exact .inr ⟨active, supply⟩) (by rw [contract]; exact mode),
        State.recallCause_of_agreed (a := a) (by rw [contract]; exact active) (by rw [contract]; exact supply)
          (by rw [contract]; exact none) (by rw [contract]; exact agreement), contract, max_self,
        if_neg (Nat.not_lt.mpr low), State.endEvent_of_still (.capTaken s l) settled, u]
    · obtain ⟨room, idle, free⟩ := free
      rw [State.takeCap_of_recallAtCap (by rw [contract]; exact .inr ⟨active, supply⟩) (by rw [contract]; exact mode),
        State.recallCause_of_agreed (a := a) (by rw [contract]; exact active) (by rw [contract]; exact supply)
          (by rw [contract]; exact none) (by rw [contract]; exact agreement), contract, max_self, if_pos high,
        State.endEvent_of_still ((Still.capTaken s l).trans (.sendRecall ..)) settled] at row
      have record := State.sendRecall_contract (s := s.capTaken l) (l := l) (by rw [contract]; exact idle)
        (by rw [contract]; exact free) (s.contract l).options.baseline .cap
      have side := State.sendRecall_engine (s := s.capTaken l) (l := l) (by rw [contract]; exact idle)
        (by rw [contract]; exact free) (s.contract l).options.baseline .cap
      rw [contract, engine] at record side
      refine ⟨_, row, ?_, ?_, ?_, Handed.of_engine side room, linesDoNotInterfere (.capEvent l) l s _ rfl row⟩
      · rw [((s.capTaken l).sendRecall_slot l _ _).1]
        exact report'
      · rw [record]
        simp only [room, if_true]
        rfl
      · rw [record]
        exact agreement

end Sys2Proof.Machine
end

section
/-! SUPPORT. Refutations for the verdicts on a CLAIM (R93, R95, R96, R127). A claim's admission releases what the line had
reserved above its grant; where the line's own menu is held, that rise of the supply headroom builds the menu again, so that a MENU
is handed before the GRANT. -/

namespace Sys2Proof.Machine

/-- A CLAIM is being decided on L1 while the line's menu is held, and the line has reserved more than the claim asks. -/
def heldMenuDeciding : State :=
  let s := State.powerOn (.all .both) (.all false)
  let c : Contract := { Contract.fresh (.default .both) with
    state := .deciding
    role := .supply
    offered := some ⟨[], true⟩
    decision := some ⟨.claim ⟨0, 450, 30, 10⟩, 5, 980, .offering⟩ }
  { s with
    now := 1000
    contracts := s.contracts.set .l1 c
    engines := s.engines.set .l1 { LineEngine.powerOn true with present := true, convention := .direct }
    channels := s.channels.set .l1 { Channel.powerOn with command := c.path }
    menu := s.menu.set 0 ⟨true, ⟨.fixed, 250, 250, 120⟩⟩
    budget := { s.budget with
      supplyCommit := s.budget.supplyCommit.set .l1 150
      order := [⟨.l1, 150, 450⟩]
      committedSupply := 150
      supplyHeadroom := 0 }
    link := { LinkUnit.powerOn with
      receiver := .receiving
      verdicts := [⟨9, .l1, .claim, 3, .auto, 30, 1000, []⟩] } }

/-- The frames queued on L1 after an outcome. -/
def queuedAfter (o : StepOutcome) : Nat :=
  match o with
  | .next t => (t.engine .l1).txQueue.length
  | _ => 0

theorem queuedAfter_of_next {o : StepOutcome} {t : State} (runs : o = .next t) :
    queuedAfter o = (t.engine .l1).txQueue.length := by
  rw [runs]
  rfl

/-- R96: one frame is handed by a grant as the statements have it. -/
theorem GrantGiven.queued {t : State} {tag : Tag} {f : ClaimFields} {granted : Nat} {o : StepOutcome} (runs : o = .next t)
    (given : GrantGiven .l1 heldMenuDeciding t tag f granted) : queuedAfter o = 1 := by
  have handed := given.handed
  rw [Handed] at handed
  rw [queuedAfter_of_next runs, handed]
  rfl

/-- Refutes O59: the fallback AUTO of a CLAIM on a line whose menu is held hands a MENU and then the GRANT. -/
theorem not_verdictsAreApplied : ¬ Obligations.VerdictsAreApplied := by
  unfold Obligations.VerdictsAreApplied
  intro holds
  obtain ⟨-, applied⟩ := holds .l1 heldMenuDeciding 9 0 0
  obtain ⟨-, decided⟩ := applied ⟨9, .l1, .claim, 3, .auto, 30, 1000, []⟩ rfl (by decide +kernel) (by decide +kernel)
  obtain ⟨-, -, claims⟩ := decided ⟨.claim ⟨0, 450, 30, 10⟩, 5, 980, .offering⟩ (.verdictDeadline .l1) .auto [] rfl
    (.inr ⟨rfl, rfl, nofun, rfl, by decide⟩)
  obtain ⟨granted, -⟩ := claims ⟨0, 450, 30, 10⟩ rfl rfl (.inl rfl) rfl
  obtain ⟨given, -⟩ := granted (.inl rfl)
  obtain ⟨t, runs, -, grant⟩ := given (by decide +kernel)
  have one := grant.queued runs
  have two : queuedAfter (exec (.verdictDeadline .l1) heldMenuDeciding) = 2 := by decide +kernel
  omega

/-- Refutes O60: VERDICT_GRANT on a line whose menu is held hands a MENU and then the GRANT. -/
theorem not_chooseAndGrantAreCarriedOut : ¬ Obligations.ChooseAndGrantAreCarriedOut := by
  unfold Obligations.ChooseAndGrantAreCarriedOut
  intro holds
  obtain ⟨-, grants⟩ := holds .l1 heldMenuDeciding 9 0 30 ⟨9, .l1, .claim, 3, .auto, 30, 1000, []⟩ (by decide) rfl rfl
    (by decide +kernel) (by decide +kernel)
  obtain ⟨-, granted⟩ := grants ⟨0, 450, 30, 10⟩ 5 980 .offering rfl (.inl rfl) rfl
  obtain ⟨given, -⟩ := granted (by decide) rfl
  obtain ⟨t, runs, grant, -⟩ := given (by decide +kernel)
  have one := grant.queued runs
  have two : queuedAfter (exec (.verdictGrant (VerdictReq.framed 3 (.line .l1) 9 0 30)) heldMenuDeciding) = 2 := by
    decide +kernel
  exact absurd (one.symm.trans two) (by decide)

end Sys2Proof.Machine
end

section
/-! SUPPORT. Proofs for a CLAIM that is turned down (R35, R37, R92, R94, R97), and the superseding of a decision. -/

namespace Sys2Proof.Machine

/-! ### What a query leaves (R112, R118) -/

section Queried
variable (s : State) (q : Query)

/-- R112, R118: a query changes the rule table and the notices alone. -/
theorem State.afterQuery_eq : s.afterQuery q = { s with
    rules := (s.afterQuery q).rules, link := (s.afterQuery q).link } := by
  unfold State.afterQuery
  split
  · rfl
  · dsimp only
    split <;> rfl

@[simp] theorem State.afterQuery_setup : s.SameSetup (s.afterQuery q) := by
  rw [State.afterQuery_eq]; exact ⟨rfl, rfl, rfl, rfl, rfl, rfl⟩
@[simp] theorem State.afterQuery_engines : s.SameEngines (s.afterQuery q) := by
  rw [State.afterQuery_eq]; exact ⟨rfl, fun _ => rfl⟩
@[simp] theorem State.afterQuery_contracts : s.SameContracts (s.afterQuery q) := by
  rw [State.afterQuery_eq]; exact ⟨rfl, fun _ => rfl⟩
@[simp] theorem State.afterQuery_channels : s.SameChannels (s.afterQuery q) := by
  rw [State.afterQuery_eq]; exact ⟨rfl, fun _ => rfl⟩
@[simp] theorem State.afterQuery_budget : (s.afterQuery q).budget = s.budget := by
  rw [State.afterQuery_eq]
@[simp] theorem State.afterQuery_captures : (s.afterQuery q).captures = s.captures ∧ (s.afterQuery q).strikes = s.strikes := by
  rw [State.afterQuery_eq]; exact ⟨rfl, rfl⟩

@[simp] theorem State.afterQuery_sameButNotices : s.SameButNotices (s.afterQuery q) := by
  unfold State.afterQuery
  split
  · exact ⟨rfl, rfl, rfl, rfl, rfl, rfl, rfl, rfl, rfl, rfl, fun _ => rfl⟩
  · dsimp only
    split
    · exact State.raise_sameButNotices ..
    · exact ⟨rfl, rfl, rfl, rfl, rfl, rfl, rfl, rfl, rfl, rfl, fun _ => rfl⟩

theorem State.Told.afterQuery {s : State} {m : Line} {time : Time} {body : NoticeBody} (told : s.Told m time body)
    (kind : body.kind ≠ .report) (q : Query) : (s.afterQuery q).Told m time body := by
  unfold State.afterQuery
  split
  · exact told
  · dsimp only
    split
    · refine State.Told.raise (s := { s with rules := _ }) told ?_ _
      exact kind
    · exact told

theorem Still.afterQuery (l : Line) : Still l s (s.afterQuery q) :=
  .ofBlocks ((State.afterQuery_contracts s q).2 l) ((State.afterQuery_channels s q).2 l)

end Queried

/-! ### Whether a CLAIM fits (R92) -/

theorem Point.limitAt_eq_some (p : Point) (v limit : Nat) : p.limitAt v = some limit ↔
    (p.kind = .fixed ∧ v = p.v1 ∧ limit = p.limit) ∨
      (p.kind = .window ∧ p.v1 ≤ v ∧ v ≤ p.v2 ∧ limit = p.limit * 200 / v) := by
  unfold Point.limitAt
  cases p.kind with
  | fixed => simp [eq_comm]
  | window => simp [eq_comm, current, and_assoc]

theorem ClaimFields.fitsMenu_iff (f : ClaimFields) (pts : List Point) : f.fitsMenu pts = true ↔
    ∃ p, pts[f.point]? = some p ∧ 1 ≤ f.claimed ∧ f.least ≤ f.claimed ∧
      ((p.kind = .fixed ∧ f.voltage = p.v1 ∧ f.claimed ≤ p.limit) ∨
        (p.kind = .window ∧ p.v1 ≤ f.voltage ∧ f.voltage ≤ p.v2 ∧ f.claimed ≤ p.limit * 200 / f.voltage)) := by
  have judged : f.fitsMenu pts = true ↔ ∃ p limit, pts[f.point]? = some p ∧ p.limitAt f.voltage = some limit ∧
      f.claimed ≠ 0 ∧ f.claimed ≤ limit ∧ f.least ≤ f.claimed := by
    unfold ClaimFields.fitsMenu
    cases pts[f.point]? with
    | none => simp
    | some p => cases h : p.limitAt f.voltage <;> simp [h]
  rw [judged]
  constructor
  · rintro ⟨p, limit, offered, at?, positive, below, least⟩
    obtain ⟨fixed, on, rfl⟩ | ⟨window, low, high, rfl⟩ := (p.limitAt_eq_some _ _).mp at?
    · exact ⟨p, offered, Nat.one_le_iff_ne_zero.mpr positive, least, .inl ⟨fixed, on, below⟩⟩
    · exact ⟨p, offered, Nat.one_le_iff_ne_zero.mpr positive, least, .inr ⟨window, low, high, below⟩⟩
  · rintro ⟨p, offered, positive, least, ⟨fixed, on, below⟩ | ⟨window, low, high, below⟩⟩
    · exact ⟨p, _, offered, (p.limitAt_eq_some _ _).mpr (.inl ⟨fixed, on, rfl⟩), Nat.one_le_iff_ne_zero.mp positive, below, least⟩
    · exact ⟨p, _, offered, (p.limitAt_eq_some _ _).mpr (.inr ⟨window, low, high, rfl⟩), Nat.one_le_iff_ne_zero.mp positive,
        below, least⟩

/-! ### The taker of a CLAIM, by its cases (R35, R92) -/

section Takers
variable {s : State} {l : Line} {tag : Tag} {f : ClaimFields} {raw : List Byte}

/-- R92: a line that takes CLAIMs. -/
def Contract.Claimable (c : Contract) : Prop := c.state = .offering ∨ (c.state = .active ∧ c.role = .supply)

theorem takeFarClaim_of_claimable (free : (s.contract l).decision = none) (claimable : (s.contract l).Claimable) :
    takeFarClaim l ⟨tag, .claim f⟩ raw s = s.takeClaim l tag f raw := by
  simp only [takeFarClaim, State.supersede_of_none free]
  exact if_pos claimable

theorem takeFarClaim_of_draw (free : (s.contract l).decision = none) (draws : (s.contract l).role = .draw)
    (sound : (s.contract l).state ≠ .faulted) (left : (s.contract l).state ≠ .offering) :
    takeFarClaim l ⟨tag, .claim f⟩ raw s = s.hand l ⟨tag, .deny .role⟩ := by
  simp [takeFarClaim, State.supersede_of_none free, draws, sound, left, State.deny]

theorem takeFarClaim_of_powering (free : (s.contract l).decision = none) (powering : (s.contract l).state = .powering)
    (role : (s.contract l).role ≠ .draw) :
    takeFarClaim l ⟨tag, .claim f⟩ raw s = s.hand l ⟨tag, .deny .notOffered⟩ := by
  simp [takeFarClaim, State.supersede_of_none free, powering, role, State.deny]

theorem takeFarClaim_of_stray (free : (s.contract l).decision = none) (state : (s.contract l).state = .greeting ∨
      (s.contract l).state = .blocked ∨ (s.contract l).state = .faulted)
    (role : (s.contract l).role ≠ .draw ∨ (s.contract l).state = .faulted) :
    takeFarClaim l ⟨tag, .claim f⟩ raw s = s.stray l := by
  rcases state with state | state | state <;>
    simp_all [takeFarClaim, State.supersede_of_none free]

theorem State.takeClaim_of_none (none : (s.contract l).offered = none) :
    s.takeClaim l tag f raw = s.hand l ⟨tag, .deny .noMenu⟩ := by
  simp only [State.takeClaim, none, State.deny]

theorem State.takeClaim_of_held {m : OfferedMenu} (offered : (s.contract l).offered = some m) (held : m.held = true) :
    s.takeClaim l tag f raw = s.hand l ⟨tag, .deny .noMenu⟩ := by
  simp only [State.takeClaim, offered, held, if_true, State.deny]

theorem State.takeClaim_of_unfit {m : OfferedMenu} (offered : (s.contract l).offered = some m) (stands : m.held = false)
    (unfit : f.fitsMenu m.points = false) : s.takeClaim l tag f raw =
      (s.hand l ⟨tag, .deny .badPoint⟩).onContract l fun c => { c with lastFrameFault := true } := by
  simp only [State.takeClaim, offered, stands, unfit, if_true, State.deny, Bool.false_eq_true, if_false]

theorem State.takeClaim_of_busy {m : OfferedMenu} (offered : (s.contract l).offered = some m) (stands : m.held = false)
    (fit : f.fitsMenu m.points = true)
    (busy : s.link.busy = true ∨ (s.contract l).paused = true ∨ (s.contract l).recalling = true) :
    s.takeClaim l tag f raw = s.hand l ⟨tag, .wait 50⟩ := by
  simp only [State.takeClaim, offered, stands, fit, Bool.false_eq_true, if_false, Bool.true_eq_false, if_pos busy,
    State.answerWait]

theorem State.takeClaim_of_free {m : OfferedMenu} (offered : (s.contract l).offered = some m) (stands : m.held = false)
    (fit : f.fitsMenu m.points = true) (idle : s.link.busy = false) (runs : (s.contract l).paused = false)
    (free : (s.contract l).recalling = false) : s.takeClaim l tag f raw = s.queryClaim l tag f raw := by
  simp [State.takeClaim, offered, stands, fit, idle, runs, free]

end Takers

/-! ### Superseding (R37) -/

section Supersede
variable {s : State} {l : Line} {d : Decision}

theorem State.supersede_superseded (decided : (s.contract l).decision = some d) : Superseded l s (s.supersede l) d := by
  have rest := State.supersede_rest decided
  have record := State.supersede_contract decided
  have dropped : (s.supersede l).link.verdicts = s.link.verdicts.filter fun v => !(v.line == l) := by rw [rest]
  refine ⟨record, ?_, by rw [rest], fun m other => ⟨?_, ?_⟩⟩
  · simp [State.verdictOf, dropped]
  · rw [rest]
    simp [State.contract, other]
  · rw [State.verdictOf, State.verdictOf, dropped, List.find?_filter]
    refine congrArg (List.find? · _) (funext fun v => ?_)
    by_cases here : v.line = m <;> simp [here, other]

/-- R37: the states that a decision pends in are not left to DETACHED. -/
theorem Decision.Pends.began_attached {c : Contract} (pends : d.Pends c) : d.began ≠ .detached := by
  unfold Decision.Pends at pends
  split at pends
  · rw [pends.2]; decide
  · rcases pends.2 with began | began | began | began | began <;> rw [began] <;> decide
  · rcases pends with ⟨-, began⟩ | ⟨-, -, began⟩ <;> rw [began] <;> decide

theorem State.supersede_state (decided : (s.contract l).decision = some d) : ((s.supersede l).contract l).state = d.began := by
  rw [State.supersede_contract decided]
  rfl

theorem State.supersede_engine (decided : (s.contract l).decision = some d) (m : Line) :
    (s.supersede l).engine m = s.engine m := by
  rw [State.supersede_rest decided]
  rfl

/-- R37: outside CHOOSING the superseding of a decision leaves the path and the role of the state. -/
theorem State.supersede_settled (decided : (s.contract l).decision = some d) (pends : d.Pends (s.contract l))
    (elsewhere : (s.contract l).state ≠ .choosing) (settled : s.LineSettled l) : (s.supersede l).LineSettled l := by
  obtain ⟨untripped, command, role⟩ := settled
  have channel : (s.supersede l).channel l = s.channel l := by rw [State.supersede_rest decided]; rfl
  have kept : ((s.supersede l).contract l).path = (s.contract l).path ∧
      roleOf ((s.supersede l).contract l).state ((s.supersede l).contract l).role = roleOf (s.contract l).state (s.contract l).role := by
    rw [State.supersede_contract decided]
    unfold Decision.Pends at pends
    split at pends
    · obtain ⟨state, began⟩ := pends
      simp [Contract.path, Contract.enter, state, began]
    · exact absurd pends.1 elsewhere
    · rcases pends with ⟨state, began⟩ | ⟨state, -, began⟩ <;> simp [Contract.path, Contract.enter, state, began, roleOf]
  have same : ((s.supersede l).contract l).role = (s.contract l).role := by
    rw [State.supersede_contract decided]
    rfl
  exact ⟨by rw [channel, untripped], by rw [channel, command, kept.1], by rw [kept.2, role, same]⟩

/-- R37: the state that a decision on a MENU began in has the role DRAW, and no greeting. -/
theorem Decision.Pends.began_draw {c : Contract} (pends : d.Pends c) (choosing : c.state = .choosing) :
    roleOf d.began .draw = .draw ∧ d.began ≠ .faulted ∧ d.began ≠ .offering ∧ d.began ≠ .greeting := by
  unfold Decision.Pends at pends
  split at pends
  · exact absurd (choosing.symm.trans pends.1) (by decide)
  · rcases pends.2 with began | began | began | began | began <;> rw [began] <;> decide
  · rcases pends with ⟨state, -⟩ | ⟨state, -⟩ <;> exact absurd (choosing.symm.trans state) (by decide)

theorem roleOf_roleOf (st : CState) (held : Role) : roleOf st (roleOf st held) = roleOf st held := by
  cases st <;> rfl

/-- R43: an untripped line is settled at the end of every event. -/
theorem State.endEvent_settled (untripped : (s.channel l).tripped = false) : (s.endEvent l).LineSettled l := by
  obtain ⟨command, still⟩ := State.endEvent_command untripped
  refine ⟨still, command, ?_⟩
  rw [State.endEvent_contract_self]
  exact roleOf_roleOf ..

/-- R37: an arriving frame whose row supersedes the pending decision. -/
theorem State.deliver_of_superseding {kind : FrameKind} {act : Frame → List Byte → State → State} {f : Frame}
    (arrives : s.Arrives l f) (same : f.body.kind = kind) (decided : (s.contract l).decision = some d)
    (pends : d.Pends (s.contract l)) (supersedes : ∀ raw (t : State), (t.contract l).state = (s.contract l).state →
      ((t.supersede l).contract l).state = ((s.supersede l).contract l).state → act f raw t = act f raw (t.supersede l)) :
    s.deliver l kind act = (s.supersede l).deliver l kind act := by
  obtain ⟨ready, valid, attached⟩ := arrives
  exact State.deliver_supersede ready valid same attached (by
    rw [State.supersede_state decided]
    exact pends.began_attached) supersedes

/-- R37: a frame that supersedes the pending decision arrives where that has led. -/
theorem State.Arrives.superseded {f : Frame} (arrives : s.Arrives l f) (decided : (s.contract l).decision = some d)
    (pends : d.Pends (s.contract l)) : (s.supersede l).Arrives l f := by
  obtain ⟨ready, valid, attached⟩ := arrives
  have engine := State.supersede_engine decided l
  exact ⟨by rwa [engine], by rwa [engine], by
    rw [State.supersede_state decided]
    exact pends.began_attached⟩

end Supersede

/-- Settles O37: the takers of a CLAIM by the state of the line, and where superseding leads. -/
theorem unfitClaimsAreTurnedDown : Obligations.UnfitClaimsAreTurnedDown := by
  refine ⟨fun l s tag f arrives free settled => ?_, fun l s tag f d arrives decided pends settled => ?_, ClaimFields.fitsMenu_iff⟩
  · intro c denied
    have here := s.arrived_contract_self l
    have freed : ((s.arrived l).contract l).decision = none := by rw [here]; exact free
    have answer : ∀ g, Still l (s.arrived l) ((s.arrived l).hand l g) := fun g => (Still.refl l _).onEngine l _
    have claimed := fun (claimable : (s.contract l).Claimable) =>
      takeFarClaim_of_claimable (tag := tag) (f := f) (raw := (s.engine l).rxChars.dropLast) freed (by rw [here]; exact claimable)
    refine ⟨fun claimable => ⟨fun none => ?_, fun m offered => ⟨fun held => ?_, fun stands unfit => ?_,
      fun stands fit busy => ?_⟩⟩, fun powering => ?_, fun draws sound => ?_, fun state => ?_⟩
    · exact congrArg _ (State.deliver_of_still settled arrives rfl
        ((claimed claimable).trans (State.takeClaim_of_none (by rw [here]; exact none))) (answer _))
    · exact congrArg _ (State.deliver_of_still settled arrives rfl
        ((claimed claimable).trans (State.takeClaim_of_held (by rw [here]; exact offered) held)) (answer _))
    · exact congrArg _ (State.deliver_of_still settled arrives rfl
        ((claimed claimable).trans (State.takeClaim_of_unfit (by rw [here]; exact offered) stands unfit))
        ((answer _).onContract l _))
    · refine congrArg _ (State.deliver_of_still settled arrives rfl
        ((claimed claimable).trans (State.takeClaim_of_busy (by rw [here]; exact offered) stands fit ?_)) (answer _))
      rw [here]
      simpa [LinkUnit.busy, Contract.recalling] using busy
    · refine congrArg _ (State.deliver_of_still settled arrives rfl
        (takeFarClaim_of_powering freed (by rw [here]; exact powering) ?_) (answer _))
      have role := settled.2.2
      rw [here, ← role, powering]
      nofun
    · refine congrArg _ (State.deliver_of_still settled arrives rfl
        (takeFarClaim_of_draw freed (by rw [here]; exact draws) (by rw [here]; exact sound) ?_) (answer _))
      have role := settled.2.2
      rw [here]
      rintro offering
      rw [show (s.contract l).state = .offering from offering] at role
      exact nomatch (show Role.supply = .draw from role.trans draws)
    · refine congrArg _ (State.deliver_of_stray settled arrives rfl
        (takeFarClaim_of_stray freed (by rw [here]; exact state) ?_))
      have role := settled.2.2
      rw [here]
      rcases state with state | state | state
      · exact .inl (by rw [← role, state]; nofun)
      · exact .inl (by rw [← role, state]; nofun)
      · exact .inr state
  · intro left
    have same : exec (.claimReceived l) s = exec (.claimReceived l) left :=
      congrArg Host.Outcome.next (State.deliver_of_superseding arrives rfl decided pends fun raw t _ _ => takeFarClaim_supersede rfl raw)
    have superseded : Superseded l s left d := State.supersede_superseded decided
    refine ⟨superseded, same, fun elsewhere => State.supersede_settled decided pends elsewhere settled, fun choosing room => ?_⟩
    have draws : (s.contract l).role = .draw := by
      have role := settled.2.2
      rw [choosing] at role
      exact role.symm
    obtain ⟨roles, sound, unoffered, ungreeted⟩ := pends.began_draw choosing
    have record : left.contract l = _ := superseded.record
    have channel : left.channel l = s.channel l := by rw [superseded.rest]; rfl
    have engine : left.engine l = s.engine l := State.supersede_engine decided l
    have state : (left.contract l).state = d.began := State.supersede_state decided
    have role : (left.contract l).role = .draw := by rw [record]; exact draws
    have delay : (left.contract l).timers.greetingDelay = none := by
      rw [record]
      exact if_neg ungreeted
    have arrived : (left.arrived l).contract l = left.contract l := by
      have stays : ((left.contract l).timers.greetingDelay.map fun _ => left.now + 50) =
          (left.contract l).timers.greetingDelay := by
        rw [delay]
        rfl
      rw [State.arrived_contract_self, stays]
    have row : exec (.claimReceived l) s =
        .next (((left.arrived l).hand l ⟨tag, .deny .role⟩).endEvent l) := by
      rw [same]
      refine congrArg Host.Outcome.next
        ((State.deliver_of_arrives (kind := .claim) (arrives.superseded decided pends) rfl _).trans ?_)
      rw [takeFarClaim_of_draw] <;> rw [arrived]
      · rw [record]
      · exact role
      · rw [state]; exact sound
      · rw [state]; exact unoffered
    refine ⟨_, row, ?_, superseded.entry, Handed.of_arrived ?_ room, ?_, State.endEvent_settled ?_,
      linesDoNotInterfere (.claimReceived l) l s _ rfl row⟩
    · rw [State.endEvent_contract_self]
      change { (left.arrived l).contract l with role := roleOf ((left.arrived l).contract l).state ((left.arrived l).contract l).role } = _
      rw [arrived, state, role, roles, ← role]
    · rw [(State.endEvent_engines _ _).2, State.hand_engine_self]
      simp [State.arrived, engine]
    · rw [superseded.rest]
      rfl
    · change (left.channel l).tripped = false
      rw [channel, settled.1]

end Sys2Proof.Machine
end

section
/-! SUPPORT. Proofs for a CLAIM admitted by the headroom (R93, R94, R96, R116, R146). -/

namespace Sys2Proof.Machine

section Granting
variable {s : State} {l : Line} {tag : Tag} {f : ClaimFields} {granted : Nat}

/-- Section 8.1: only the path of POWERING watches the settling. -/
theorem Contract.path_unwatched {c : Contract} (elsewhere : c.state ≠ .powering) : c.path.watch.settle = false := by
  unfold Contract.path
  repeat' split
  all_goals first
    | rfl
    | next powering _ _ _ => exact absurd powering elsewhere

/-- R136, R139, R146: a command that begins a settle watch reaches an untripped channel that watches none. -/
theorem Channel.take_watching {ch : Channel} {cmd : PathCommand} (untripped : ch.tripped = false)
    (unwatched : ch.command.watch.settle = false) (watches : cmd.watch.settle = true) (now : Time) (capped : Bool) :
    (ch.take cmd now capped).settleStart = some now ∧
      (ch.take cmd now capped).capReport = (ch.capReport || (capped && ch.allowance == 0)) := by
  have other : cmd ≠ ch.command := by
    rintro rfl
    exact Bool.false_ne_true (unwatched.symm.trans watches)
  simp [Channel.take, untripped, other, watches]

/-- R96: the line's record with the grant being powered. -/
def Contract.granting (c : Contract) (tag : Tag) (f : ClaimFields) (granted : Nat) : Contract :=
  { c with grant := some ⟨f.voltage, granted, c.options.lease, f.point, tag⟩ }

/-- R96: the reservation of a grant. -/
def State.reserving (s : State) (l : Line) (tag : Tag) (f : ClaimFields) (granted : Nat) : State :=
  (s.onContract l fun c => { c with grant := some ⟨f.voltage, granted, (s.contract l).options.lease, f.point, tag⟩ }).claimSupply l

theorem State.grantClaim_eq (s : State) (l : Line) (tag : Tag) (f : ClaimFields) (granted : Nat) :
    s.grantClaim l tag f granted = ((s.reserving l tag f granted).hand l
      ⟨tag, .grant granted (s.contract l).options.lease⟩).enter l .powering := rfl

theorem State.reserving_line (stands : (s.contract l).awaitsRise = false) :
    (s.reserving l tag f granted).contract l = (s.contract l).granting tag f granted ∧
      (s.reserving l tag f granted).engine l = s.engine l := by
  obtain ⟨contract, engine⟩ := State.claimSupply_line (l := l) (m := l) (s := s.onContract l fun c =>
    { c with grant := some ⟨f.voltage, granted, (s.contract l).options.lease, f.point, tag⟩ })
    (by simpa [Contract.awaitsRise] using stands)
  exact ⟨contract.trans (by simp [Contract.granting]), engine.trans (by simp)⟩

theorem State.reserving_channel (s : State) (l : Line) (tag : Tag) (f : ClaimFields) (granted : Nat) :
    (s.reserving l tag f granted).channels = s.channels := by
  simp [State.reserving]

theorem State.grantClaim_contract_self (stands : (s.contract l).awaitsRise = false) :
    (s.grantClaim l tag f granted).contract l = ((s.contract l).granting tag f granted).enter .powering := by
  rw [State.grantClaim_eq, State.enter_contract_self, State.hand_contract, (State.reserving_line stands).1]

theorem State.grantClaim_engine_self (stands : (s.contract l).awaitsRise = false) : (s.grantClaim l tag f granted).engine l =
    (s.engine l).hand (Frame.mk tag (.grant granted (s.contract l).options.lease)).chars := by
  change ((s.reserving l tag f granted).hand l ⟨tag, .grant granted (s.contract l).options.lease⟩).engine l = _
  rw [State.hand_engine_self, (State.reserving_line stands).2]

theorem State.grantClaim_reserved : (s.grantClaim l tag f granted).budget.supplyCommit.get l =
    max (((s.contract l).agreement.map fun a => a.voltage * a.current / 200).getD 0) (f.voltage * granted / 200) := by
  change (s.reserving l tag f granted).budget.supplyCommit.get l = _
  simp [State.reserving, Contract.supplyCommitment, power]

theorem State.grantClaim_rules : (s.grantClaim l tag f granted).rules = s.rules := by
  change (s.reserving l tag f granted).rules = _
  simp [State.reserving]

/-- R112: the rule table that a query leaves depends on the rule table and the stance. -/
theorem State.afterQuery_rules_congr {t : State} (rules : t.rules = s.rules) (link : t.link = s.link) (q : Query) :
    (t.afterQuery q).rules = (s.afterQuery q).rules := by
  cases wins : winner s.rules q s.link.batteryLow with
  | none => rw [State.afterQuery_of_none wins, State.afterQuery_of_none (by rw [rules, link, wins]), rules]
  | some i =>
    rw [State.afterQuery_rules wins, State.afterQuery_rules (by rw [rules, link, wins]), rules]

/-- R96, R139, R146: what a grant leaves of the line's channel at the end of its event. -/
theorem State.grantClaim_channel (stands : (s.contract l).awaitsRise = false) (untripped : (s.channel l).tripped = false)
    (unwatched : (s.channel l).command.watch.settle = false) :
    let t := (s.grantClaim l tag f granted).endEvent l
    (t.channel l).command = ⟨.supply, f.voltage, granted, false, ⟨false, true, true, true, none⟩⟩ ∧
      (t.channel l).settleStart = some s.now ∧ ((t.channel l).capReport = true ↔ (s.channel l).capReport = true ∨
        ((s.contract l).options.capMode ≠ .uncapped ∧ (s.channel l).allowance = 0)) := by
  intro t
  have contract : t.contract l = _ := State.endEvent_contract_self ..
  rw [State.grantClaim_contract_self stands] at contract
  have path : (t.contract l).path = ⟨.supply, f.voltage, granted, false, ⟨false, true, true, true, none⟩⟩ := by
    rw [contract]
    rfl
  have channel : (s.grantClaim l tag f granted).channel l = s.channel l :=
    congrArg (fun x : Four Channel => x.get l) (s.reserving_channel l tag f granted)
  have now : (s.grantClaim l tag f granted).now = s.now := by
    change (s.reserving l tag f granted).now = _
    simp [State.reserving]
  have options : (t.contract l).options = (s.contract l).options := by
    rw [contract]
    rfl
  obtain ⟨start, report⟩ := Channel.take_watching (cmd := (t.contract l).path) untripped unwatched (by rw [path])
    s.now (s.contract l).options.capped
  have taken : t.channel l = (s.channel l).take (t.contract l).path s.now (s.contract l).options.capped := by
    rw [← options, ← channel, ← now]
    exact State.channel_endEvent ..
  refine ⟨?_, by rw [taken, start], ?_⟩
  · rw [taken, (Channel.take_command untripped ..).1, path]
  · rw [taken, report]
    simp [Options.capped]

end Granting

section Applying
variable {s : State} {l : Line} {tag : Tag} {f : ClaimFields} {raw : List Byte} {act : Action}

/-- R94, R116: a CLAIM's query applied, unless it is forwarded. -/
theorem State.queryClaim_of_action (acts : s.actionOf ((s.contract l).claimQuery l f) = act) (decided : act ≠ .forward) :
    s.queryClaim l tag f raw = (s.afterQuery ((s.contract l).claimQuery l f)).applyClaim l tag f act
      (s.answerOf ((s.contract l).claimQuery l f)).clamp := by
  generalize asked : (s.contract l).claimQuery l f = q at acts ⊢
  subst acts
  unfold State.queryClaim
  rw [asked]
  simp only [State.actionOf] at decided ⊢
  cases forwards : (s.answerOf q).action with
  | forward =>
    cases running : s.link.mode with
    | running => simp [forwards, running] at decided
    | autonomous => simp [running]
  | auto | refuse | clamp | wait => simp

/-- R93: the room that a query leaves. -/
theorem State.supplyRoom_congr {t : State} (budget : t.budget = s.budget)
    (clamp : (t.contract l).lineClamp = (s.contract l).lineClamp) : t.supplyRoom l = s.supplyRoom l := by
  rw [State.supplyRoom, State.supplyRoom, budget, clamp]

theorem State.admission_of_fit {clamp : Option Nat} {granted : Nat} (admits : f.admitted (capBy (s.supplyRoom l) clamp) = granted)
    (positive : 1 ≤ granted) (least : f.least ≤ granted) : s.admission l tag f clamp = s.grantClaim l tag f granted := by
  subst admits
  exact if_pos ⟨positive, least⟩

theorem State.admission_of_unfit {clamp : Option Nat} {granted : Nat} (admits : f.admitted (capBy (s.supplyRoom l) clamp) = granted)
    (unfit : granted < 1 ∨ granted < f.least) : s.admission l tag f clamp = s.hand l ⟨tag, .wait 50⟩ := by
  subst admits
  exact if_neg fun ⟨positive, least⟩ => unfit.elim (Nat.not_lt.mpr positive) (Nat.not_lt.mpr least)

end Applying

/-- Settles O38: the CLAIM's query, and its action on the room that stands. -/
theorem claimIsAdmittedByHeadroom : Obligations.ClaimIsAdmittedByHeadroom := by
  intro l s tag f m arrives claimable free offered stands fit idle runs noRecall noTarget settled q act room
  have here := s.arrived_contract_self l
  have query : ((s.arrived l).contract l).claimQuery l f = q := by rw [here]; rfl
  have answer : (s.arrived l).answerOf q = s.answerOf q := rfl
  have taken : ∀ (act' : Action), act = act' → act' ≠ .forward → ∀ raw, takeFarClaim l ⟨tag, .claim f⟩ raw (s.arrived l) =
      ((s.arrived l).afterQuery q).applyClaim l tag f act' (s.answerOf q).clamp := by
    intro act' acts decided raw
    rw [takeFarClaim_of_claimable (by rw [here]; exact free) (by rw [here]; exact claimable),
      State.takeClaim_of_free (s := s.arrived l) (m := m) (by rw [here]; exact offered) stands fit idle (by rw [here]; exact runs)
        (by rw [here]; simp [Contract.recalling, noRecall, noTarget]), State.queryClaim_of_action (by rw [query]; exact acts) decided,
      query, answer]
  generalize asked : (s.arrived l).afterQuery q = u at *
  have still : Still l (s.arrived l) u := asked ▸ Still.afterQuery (s.arrived l) q l
  have contract : u.contract l = (s.arrived l).contract l := asked ▸ (State.afterQuery_contracts (s.arrived l) q).2 l
  have engine : u.engine l = (s.arrived l).engine l := asked ▸ (State.afterQuery_engines (s.arrived l) q).2 l
  have channel : u.channel l = s.channel l := asked ▸ (State.afterQuery_channels (s.arrived l) q).2 l
  have budget : u.budget = s.budget := asked ▸ State.afterQuery_budget (s.arrived l) q
  have now : u.now = s.now := asked ▸ (State.afterQuery_setup (s.arrived l) q).2.1
  have spare : u.supplyRoom l = room := State.supplyRoom_congr budget (by rw [contract, here])
  refine ⟨fun limit limited => ?_, fun refuse => ?_, fun waits => ?_⟩
  · intro granted
    obtain ⟨clamp, admitted, applied⟩ : ∃ clamp, capBy (u.supplyRoom l) clamp = limit ∧ ∀ raw,
        takeFarClaim l ⟨tag, .claim f⟩ raw (s.arrived l) = u.admission l tag f clamp := by
      rw [spare]
      rcases limited with ⟨auto, rfl⟩ | ⟨clamp, rfl⟩
      · exact ⟨none, rfl, taken .auto auto nofun⟩
      · exact ⟨some _, rfl, taken .clamp clamp nofun⟩
    have admits : f.admitted (capBy (u.supplyRoom l) clamp) = granted := by rw [admitted]; rfl
    refine ⟨fun positive least accepts => ?_, fun unfit => ?_⟩
    · have row : exec (.claimReceived l) s = .next ((u.grantClaim l tag f granted).endEvent l) := by
        refine congrArg Host.Outcome.next ((State.deliver_of_arrives (kind := .claim) arrives rfl _).trans ?_)
        rw [applied, State.admission_of_fit admits positive least]
      have unheld : (u.contract l).awaitsRise = false := by
        rw [contract, here]
        simp [Contract.awaitsRise, offered, stands]
      have untripped : (u.channel l).tripped = false := by rw [channel, settled.1]
      have unwatched : (u.channel l).command.watch.settle = false := by
        rw [channel, settled.2.1]
        refine Contract.path_unwatched fun powering => ?_
        rcases claimable with state | ⟨state, -⟩ <;> exact absurd (state.symm.trans powering) (by decide)
      have record : ((u.grantClaim l tag f granted).endEvent l).contract l = _ := State.endEvent_contract_self ..
      rw [State.grantClaim_contract_self unheld, contract, here] at record
      obtain ⟨command, start, report⟩ := State.grantClaim_channel (tag := tag) (f := f) (granted := granted) unheld untripped unwatched
      rw [channel, contract, here] at report
      refine ⟨_, row, ?_, ?_, ?_, Handed.of_arrived ?_ accepts, ?_, ?_, command, now ▸ start, report, ?_,
        linesDoNotInterfere (.claimReceived l) l s _ rfl row⟩
      · rw [record]; rfl
      · rw [record]; rfl
      · rw [record]; rfl
      · rw [(State.endEvent_engines _ _).2, State.grantClaim_engine_self unheld, engine, contract, here]
      · rw [State.endEvent_budget, State.grantClaim_reserved, contract, here]
      · rw [record]; rfl
      · rw [(State.endEvent_records _ _).1, State.grantClaim_rules, ← asked]
        exact State.afterQuery_rules_congr (s := s) (t := s.arrived l) rfl rfl q
    · refine congrArg _ (State.deliver_of_still settled arrives rfl
        ((applied _).trans (State.admission_of_unfit admits unfit)) (still.onEngine l _))
  · exact congrArg _ (State.deliver_of_still settled arrives rfl (t := u.hand l ⟨tag, .deny .policy⟩)
      (taken .refuse refuse nofun _) (still.onEngine l _))
  · exact congrArg _ (State.deliver_of_still settled arrives rfl (t := u.hand l ⟨tag, .wait 50⟩)
      (taken .wait waits nofun _) (still.onEngine l _))

end Sys2Proof.Machine
end

section
/-! SUPPORT. Proofs for LINE_SET (R60, R61, R62, R104, R129, R146). -/

namespace Sys2Proof.Machine

theorem LinkKept.endToGreeting (s : State) (l : Line) (r : EndReason) (o : Outcome) : LinkKept s (s.endToGreeting l r o) :=
  LinkKept.trans (t := s.handNew l (.ending r)) (.of_link ⟨rfl, rfl, rfl, rfl, rfl, rfl⟩ rfl) (.closing ..)

section Options

/-- R62: what LINE_SET does. -/
def storeLine (args : List Byte) (l : Line) (t : State) : Reply :=
  match parseOptions args with
  | some o => if o.roles.within (t.straps.get l).roles then (t.setOptions l o).answer .ok else t.answer .refusedStrap
  | none => t.answer .badEntry

theorem execLineSet_eq (r : Req) (s : State) : exec (.lineSet r) s = s.lineRequest 0x30 7 r (storeLine r.args) := rfl

theorem storeLine_of_unparsed {args : List Byte} (bad : parseOptions args = none) {l : Line} {t : State} :
    storeLine args l t = t.answer .badEntry := by
  simp only [storeLine, bad]

theorem storeLine_of_parsed {args : List Byte} {o : Options} {rep : Reply} (parsed : parseOptions args = some o) {l : Line}
    {t : State} (acts : (if o.roles.within (t.straps.get l).roles then (t.setOptions l o).answer .ok
      else t.answer .refusedStrap) = rep) : storeLine args l t = rep := by
  simp only [storeLine, parsed, acts]

variable (s : State) (l : Line) (o : Options)

/-- R62, R129: the options stored, and the allocations that follow a baseline of a copied draw. -/
def State.optionsStored : State :=
  if (s.contract l).options.baseline ≠ o.baseline ∧ (s.budget.drawCopy.get l).isSome = true then
    (s.storeOptions l o).reallocate
  else s.storeOptions l o

theorem State.setOptions_eq : s.setOptions l o =
    (if ((s.optionsStored l o).contract l).state.contracted = true ∧
        o.roles.permits ((s.optionsStored l o).contract l).role = false then
      (s.optionsStored l o).endToGreeting l .policy .noRole else s.optionsStored l o).endEvent l := rfl

/-- R104, R146: the cap event is reported once the options stand. -/
def State.capsAt : Bool :=
  let c := s.contract l
  (s.channel l).capReport || decide ((c.state = .powering ∨ (c.state = .active ∧ c.role = .supply)) ∧
    (s.channel l).command.form = .supply ∧ o.capMode ≠ .uncapped ∧ o.allowance = 0)

theorem State.storeOptions_channel_self : (s.storeOptions l o).channel l =
    { s.channel l with allowance := o.allowance, capReport := s.capsAt l o } := by
  have report : (decide ((s.contract l).state = .powering ∨ ((s.contract l).state = .active ∧ (s.contract l).role = .supply)) &&
      (s.channel l).command.form == .supply && o.capped && o.allowance == 0) =
      decide (((s.contract l).state = .powering ∨ ((s.contract l).state = .active ∧ (s.contract l).role = .supply)) ∧
        (s.channel l).command.form = .supply ∧ o.capMode ≠ .uncapped ∧ o.allowance = 0) := by
    rw [Bool.eq_iff_iff]
    simp [Options.capped, and_assoc]
  rw [State.capsAt, ← report]
  exact State.onChannel_channel_self ..

theorem State.optionsStored_contract_self : (s.optionsStored l o).contract l = { s.contract l with options := o } := by
  unfold State.optionsStored
  split <;> simp [State.storeOptions]

theorem State.optionsStored_keeps : s.SameSetup (s.optionsStored l o) ∧ s.SameRecords (s.optionsStored l o) ∧
    s.SameEngines (s.optionsStored l o) ∧ s.SameLink (s.optionsStored l o) := by
  unfold State.optionsStored
  split <;> simp [State.SameSetup, State.SameRecords, State.SameEngines, State.SameLink, State.storeOptions]

theorem State.optionsStored_budget : (s.optionsStored l o).budget = { s.budget with alloc := (s.optionsStored l o).budget.alloc } := by
  unfold State.optionsStored
  split <;> rfl

theorem State.optionsStored_channel_self : ((s.optionsStored l o).channel l).command = (s.channel l).command ∧
    ((s.optionsStored l o).channel l).tripped = (s.channel l).tripped ∧
    ((s.optionsStored l o).channel l).allowance = o.allowance ∧
    ((s.optionsStored l o).channel l).capReport = s.capsAt l o := by
  have stored := s.storeOptions_channel_self l o
  unfold State.optionsStored
  split <;> simp [stored]

variable {s l o}

theorem State.optionsStored_of_baseline (same : o.baseline = (s.contract l).options.baseline) :
    s.optionsStored l o = s.storeOptions l o := if_neg fun ⟨differs, _⟩ => differs same.symm

/-- R61: the options keep the role held. -/
theorem RoleSet.permits_iff (r : RoleSet) (role : Role) : r.permits role = true ↔
    (role = .draw → r.draw = true) ∧ (role = .supply → r.supply = true) := by
  cases role <;> simp [RoleSet.permits]

theorem State.setOptions_of_permitted (permits : o.roles.permits (s.contract l).role = true) :
    s.setOptions l o = (s.optionsStored l o).endEvent l := by
  rw [State.setOptions_eq, State.optionsStored_contract_self, if_neg (by simp [permits])]

theorem State.setOptions_of_withdrawn (contracted : (s.contract l).state.contracted = true)
    (withdrawn : o.roles.permits (s.contract l).role = false) :
    s.setOptions l o = ((s.optionsStored l o).endToGreeting l .policy .noRole).endEvent l := by
  rw [State.setOptions_eq, State.optionsStored_contract_self, if_pos ⟨contracted, withdrawn⟩]

/-- Section 8.1: the path depends on the options by the baseline alone. -/
theorem Contract.path_options {c : Contract} (same : o.baseline = c.options.baseline) :
    ({ c with options := o } : Contract).path = c.path := by
  simp only [Contract.path, same]

/-- Section 8.1: where the baseline makes another path, that path watches no settling. -/
theorem Contract.path_options_unwatched (c : Contract) (o : Options) :
    ({ c with options := o } : Contract).path = c.path ∨ ({ c with options := o } : Contract).path.watch.settle = false := by
  by_cases powering : c.state = .powering
  · exact .inl (by simp only [Contract.path, powering])
  · exact .inr (Contract.path_unwatched powering)

/-- R62: what an accepted LINE_SET leaves of its line's channel at the end of its event. -/
theorem State.optionsStored_endEvent_channel (settled : s.LineSettled l) :
    (((s.optionsStored l o).endEvent l).channel l).allowance = o.allowance ∧
      (((s.optionsStored l o).endEvent l).channel l).capReport = s.capsAt l o := by
  obtain ⟨untripped, command, role⟩ := settled
  obtain ⟨same, tripped, allowance, report⟩ := s.optionsStored_channel_self l o
  have record : ((s.optionsStored l o).endEvent l).contract l = { s.contract l with options := o } := by
    rw [State.endEvent_contract_self, State.optionsStored_contract_self, role]
  refine ⟨?_, ?_⟩
  · rw [State.channel_endEvent, (Channel.take_keeps ..).2.2.2.2, allowance]
  · obtain path | unwatched := (s.contract l).path_options_unwatched o
    · rw [State.channel_endEvent, record, path, ← command, ← same, Channel.take_same (tripped.trans untripped), report]
    · rw [State.endEvent_capReport (by rw [record]; exact unwatched), report]

/-- R62: an accepted LINE_SET that keeps the baseline keeps the command in force. -/
theorem State.storeOptions_endEvent (settled : s.LineSettled l) (same : o.baseline = (s.contract l).options.baseline) :
    (s.storeOptions l o).endEvent l = s.storeOptions l o := by
  obtain ⟨untripped, command, role⟩ := settled
  have record : (s.storeOptions l o).contract l = { s.contract l with options := o } := by simp [State.storeOptions]
  have channel := s.storeOptions_channel_self l o
  refine State.endEvent_of_settled ⟨?_, ?_, ?_⟩
  · rw [channel]
    exact untripped
  · rw [record, Contract.path_options same, channel]
    exact command
  · rw [record]
    exact role

end Options

/-- Settles O56: the options stored with what follows from them, then the end of the event or of the contract. -/
theorem lineSetStoresTheOptions : Obligations.LineSetStoresTheOptions := by
  intro l s num args takes length q refused
  have answers := fun {rep : Reply} (acts : storeLine args l s.acting = rep) => by
    have sent := State.lineRequest_sent takes (code := 0x30) (num := num) (args := args) acts
    rw [length] at sent
    exact (show exec (.lineSet q) s = _ from sent)
  refine ⟨fun bad => answers (storeLine_of_unparsed bad), fun o parsed => ⟨(parseOptions_legal parsed).1, fun beyond => answers (storeLine_of_parsed parsed (if_neg (ne_true_of_eq_false beyond))), fun within settled => ?_⟩⟩
  intro c supplying capped stored
  have row : exec (.lineSet q) s = (State.answer (s.acting.setOptions l o) .ok).sent (.line l) num 0x30 := answers (storeLine_of_parsed parsed (if_pos within))
  have role : roleOf c.state c.role = c.role := settled.2.2
  obtain ⟨setup, records, engines, link⟩ := s.acting.optionsStored_keeps l o
  have record : (s.acting.optionsStored l o).contract l = { c with options := o } := State.optionsStored_contract_self ..
  have responses : (s.acting.optionsStored l o).link.responses = s.link.responses :=
    (congrArg LinkUnit.responses link.1).trans s.acting_responses
  have now : (s.acting.optionsStored l o).now = s.now := setup.2.1
  refine ⟨fun draw supply => ?_, fun contracted withdrawn room => ?_⟩
  · have permits : o.roles.permits c.role = true := (RoleSet.permits_iff ..).mpr ⟨draw, supply⟩
    rw [State.setOptions_of_permitted (s := s.acting) permits] at row
    have common : stored (((s.acting.optionsStored l o).endEvent l).respond ⟨.line l, num, 0x30, .ok, []⟩) := by
      refine ⟨?_, ?_, ?_, linesDoNotInterfere (.lineSet q) l s _ rfl row⟩
      · change ((s.acting.optionsStored l o).endEvent l).contract l = _
        rw [State.endEvent_contract_self, record, role]
      · exact engines.2 l
      · exact congrArg (· ++ [_]) responses
    refine ⟨fun same => ⟨_, row, common, ?_, ?_⟩, fun differs => ⟨_, row, common, ?_, ?_, ?_, ?_, ?_, ?_⟩⟩
    · rw [State.optionsStored_of_baseline (s := s.acting) same]
      exact (congrArg (State.channel · l) (State.storeOptions_endEvent (s := s.acting) settled same)).trans
        (State.storeOptions_channel_self ..)
    · rw [State.optionsStored_of_baseline (s := s.acting) same]
      rfl
    · exact (State.optionsStored_endEvent_channel (s := s.acting) settled).1
    · exact (State.optionsStored_endEvent_channel (s := s.acting) settled).2
    · exact (s.acting.optionsStored_budget l o)
    · exact fun current => (exec_next row).1.keeps (P := State.AllocationsCurrent) (fun _ _ m h => m.allocationsCurrent h)
        (fun _ _ _ k => k) current
    · exact State.endEvent_settled ((State.optionsStored_channel_self s.acting l o).2.1.trans settled.1)
    · have path : (((s.acting.optionsStored l o).endEvent l).channel l).command = ({ c with options := o } : Contract).path := by
        rw [(State.endEvent_command ((State.optionsStored_channel_self s.acting l o).2.1.trans settled.1)).1,
          State.endEvent_contract_self, record, role]
      refine ⟨fun state => path.trans ?_, fun a agreement switching => path.trans ?_, fun state => path.trans ?_⟩
      · obtain state | state := state <;> simp [Contract.path, PathCommand.draw, state]
      · simp [Contract.path, PathCommand.draw, switching, agreement]
      · obtain state | state := state <;> simp [Contract.path, PathCommand.supply, state]
  · have permits : o.roles.permits c.role = false := by
      obtain ⟨role, none⟩ | ⟨role, none⟩ := withdrawn <;> simp [role, RoleSet.permits, none]
    rw [State.setOptions_of_withdrawn (s := s.acting) contracted permits] at row
    have closed := State.endToGreeting_closedTo (s := s) (u := s.acting.optionsStored l o) (l := l) (by rw [record]) now
      .policy .noRole
    have kept : LinkKept (s.acting.optionsStored l o) (((s.acting.optionsStored l o).endToGreeting l .policy .noRole).endEvent l) :=
      (LinkKept.endToGreeting ..).trans (.endEvent ..)
    refine ⟨_, row, closed.later rfl rfl rfl rfl fun _ _ told => told, ?_, Handed.of_engine ?_ room, ?_,
      linesDoNotInterfere (.lineSet q) l s _ rfl row⟩
    · refine (congrArg Contract.options (State.endEvent_contract_self ..)).trans ?_
      rw [State.endToGreeting_contract_self, record]
      rfl
    · change ((s.acting.optionsStored l o).endToGreeting l .policy .noRole).engine l = _
      rw [State.endToGreeting_engine_self, record, engines.2 l]
      rfl
    · exact congrArg (· ++ [_]) (kept.responses.trans responses)

end Sys2Proof.Machine
end

section
/-! SUPPORT. Filtering and selection (R66 to R73, R84, R109): what the queries of a MENU leave, with a request that may fall
between two of them, and what the selection after them does. -/

namespace Sys2Proof.Machine

/-! ### The table's answers to queries in turn (R109, R112) -/

section Table
variable {s t u : State} {l : Line}

/-- R112: the rule table of one state answers as that of another: its entries differ at most in their counts. -/
structure SameTable (s t : State) : Prop where
  rules : ∀ i : Fin 32, { t.rules.get i with hits := 0 } = { s.rules.get i with hits := 0 }
  stance : t.link.stance = s.link.stance

theorem SameTable.refl (s : State) : SameTable s s := ⟨fun _ => rfl, rfl⟩

theorem SameTable.trans (first : SameTable s t) (second : SameTable t u) : SameTable s u :=
  ⟨fun i => (second.rules i).trans (first.rules i), second.stance.trans first.stance⟩

theorem RuleEntry.same_of_uncounted {e d : RuleEntry} (same : { e with hits := 0 } = { d with hits := 0 }) :
    e.action = d.action ∧ e.fallback = d.fallback ∧ e.clamp = d.clamp ∧ ∀ q low, e.meets q low = d.meets q low := by
  cases e
  cases d
  cases same
  exact ⟨rfl, rfl, rfl, fun _ _ => rfl⟩

theorem SameTable.winner (same : SameTable s t) (q : Query) :
    Machine.winner t.rules q t.link.batteryLow = Machine.winner s.rules q s.link.batteryLow := by
  have low : t.link.batteryLow = s.link.batteryLow := congrArg (BitVec.getLsbD · 4) same.stance
  have meets : ∀ i, (t.rules.get i).meets q s.link.batteryLow = (s.rules.get i).meets q s.link.batteryLow :=
    fun i => (RuleEntry.same_of_uncounted (same.rules i)).2.2.2 ..
  simp only [Machine.winner, low, meets]

theorem SameTable.answerOf (same : SameTable s t) (q : Query) : t.answerOf q = s.answerOf q := by
  have entry := fun i => RuleEntry.same_of_uncounted (same.rules i)
  unfold State.answerOf
  rw [same.winner q]
  split
  · rfl
  · next i _ =>
    obtain ⟨action, fallback, clamp, -⟩ := entry i
    rw [action, fallback, clamp]

theorem SameTable.afterQuery (s : State) (q : Query) : SameTable s (s.afterQuery q) := by
  obtain ⟨-, -, -, -, -, -, stance, -⟩ := State.afterQuery_sameButNotices s q
  refine ⟨fun i => ?_, stance⟩
  cases wins : Machine.winner s.rules q s.link.batteryLow with
  | none => rw [State.afterQuery_of_none wins]
  | some j =>
    rw [State.afterQuery_rules wins]
    by_cases same : j = i
    · subst same
      simp [Vector.get_eq_getElem, RuleEntry.hit]
    · rw [Vector.get_eq_getElem, Vector.getElem_set_ne _ _ fun eq => same (Fin.ext eq), ← Vector.get_eq_getElem]

theorem SameTable.markOf (same : SameTable s t) (far : (t.contract l).far = (s.contract l).far)
    (clamp : (t.contract l).lineClamp = (s.contract l).lineClamp) (i : Nat) (p : Point) :
    t.pointAnswer l p i = s.pointAnswer l p i ∧ t.markOf l i p = s.markOf l i p := by
  have answer : t.pointAnswer l p i = s.pointAnswer l p i := by
    simp only [State.pointAnswer, far, same.answerOf]
  exact ⟨answer, by simp only [State.markOf, answer, clamp]⟩

end Table

/-! ### What the queries of a filtering leave (R118) -/

section Queries
variable {s t u : State} {l : Line}

/-- R109, R118: the queries of a filtering, with a request between two of them, change the rule table and the link unit; a
notice other than a REPORT stands. -/
structure Queried (s t : State) : Prop where
  rest : t = { s with rules := t.rules, link := t.link }
  told : ∀ {m time} {body : NoticeBody}, body.kind ≠ .report → s.Told m time body → t.Told m time body

theorem Queried.trans (first : Queried s t) (second : Queried t u) : Queried s u :=
  ⟨by rw [second.rest, first.rest], fun kind told => second.told kind (first.told kind told)⟩

/-- What queries leave of their line. -/
theorem Queried.line (queried : Queried s t) (l : Line) : t.contract l = s.contract l ∧ t.engine l = s.engine l ∧
    t.channel l = s.channel l ∧ t.budget = s.budget ∧ t.prefs = s.prefs ∧ t.now = s.now := by
  rw [queried.rest]
  exact ⟨rfl, rfl, rfl, rfl, rfl, rfl⟩

/-- R112, R118: what the queries leave that no request falls between. -/
structure Judged (s t : State) : Prop where
  queried : Queried s t
  table : SameTable s t
  link : s.SameButNotices t

theorem Judged.refl (s : State) : Judged s s :=
  ⟨⟨rfl, fun _ told => told⟩, .refl s, ⟨rfl, rfl, rfl, rfl, rfl, rfl, rfl, rfl, rfl, rfl, fun _ => rfl⟩⟩

theorem Judged.trans (first : Judged s t) (second : Judged t u) : Judged s u := by
  obtain ⟨receiver, responses, verdicts, mode, wakeSet, linkError, stance, manual, tag, stx, verdict⟩ := first.link
  obtain ⟨receiver', responses', verdicts', mode', wakeSet', linkError', stance', manual', tag', stx', verdict'⟩ := second.link
  exact ⟨first.queried.trans second.queried, first.table.trans second.table, receiver'.trans receiver,
    responses'.trans responses, verdicts'.trans verdicts, mode'.trans mode, wakeSet'.trans wakeSet,
    linkError'.trans linkError, stance'.trans stance, manual'.trans manual, tag'.trans tag, stx'.trans stx,
    fun m => (verdict' m).trans (verdict m)⟩

theorem Judged.afterQuery (s : State) (q : Query) : Judged s (s.afterQuery q) :=
  ⟨⟨State.afterQuery_eq s q, fun kind told => told.afterQuery kind q⟩, .afterQuery s q, State.afterQuery_sameButNotices s q⟩

theorem Judged.markOf (judged : Judged s t) (l : Line) (i : Nat) (p : Point) :
    t.pointAnswer l p i = s.pointAnswer l p i ∧ t.markOf l i p = s.markOf l i p :=
  judged.table.markOf (by rw [(judged.queried.line l).1]) (by rw [(judged.queried.line l).1]) i p

/-- R67: one point of a filtering. -/
theorem State.filter_cons (mid : Option MidRequest) (s : State) (i : Nat) (p : FarPoint) (ps : List FarPoint) :
    ∃ t, Judged (s.midRequest mid l i) t ∧
      (((s.midRequest mid l i).pointAnswer l p.point i).action = .forward → State.filter l mid s i (p :: ps) =
        (t, p :: ps, some ((s.midRequest mid l i).pointAnswer l p.point i))) ∧
      (((s.midRequest mid l i).pointAnswer l p.point i).action ≠ .forward → State.filter l mid s i (p :: ps) =
        let r := State.filter l mid t (i + 1) ps
        (r.1, (s.midRequest mid l i).markOf l i p.point :: r.2.1, r.2.2)) := by
  generalize asked : s.midRequest mid l i = s0
  refine ⟨_, Judged.afterQuery s0 ((s0.contract l).pointQuery l p.point i), fun forwards => ?_, fun decides => ?_⟩
  · rw [State.filter, asked]
    have action : (s0.answerOf ((s0.contract l).pointQuery l p.point i)).action = .forward := forwards
    simp only [action]
    rfl
  · rw [State.filter, asked]
    have mark : p.point.mark (s0.answerOf ((s0.contract l).pointQuery l p.point i)).action
      (s0.answerOf ((s0.contract l).pointQuery l p.point i)).clamp (s0.contract l).lineClamp = s0.markOf l i p.point := rfl
    dsimp only
    rw [← mark]
    split
    · next forwards => exact absurd forwards decides
    · rfl

/-- R67: a filtering in which no point is answered FORWARD marks each point by its own query. -/
theorem State.filter_of_noForward {ps : List FarPoint} {i : Nat}
    (decides : ∀ j p, ps[j]? = some p → (s.pointAnswer l p.point (i + j)).action ≠ .forward) :
    ∃ t, Judged s t ∧ State.filter l none s i ps = (t, ps.mapIdx fun j p => s.markOf l (i + j) p.point, none) := by
  induction ps generalizing s i with
  | nil => exact ⟨s, .refl s, rfl⟩
  | cons p ps ih =>
    obtain ⟨t, judged, -, marked⟩ := s.filter_cons (l := l) none i p ps
    obtain ⟨u, judged', rest⟩ := ih (s := t) (i := i + 1) fun j o at_ => by
      rw [(judged.markOf l _ _).1, Nat.add_right_comm, Nat.add_assoc]
      exact decides (j + 1) o at_
    refine ⟨u, judged.trans judged', (marked (decides 0 p rfl)).trans ?_⟩
    simp only [rest, List.mapIdx_cons, (judged.markOf l _ _).2]
    simp only [Nat.add_zero, Nat.add_comm, Nat.add_left_comm]
    rfl

/-- R68: a filtering stops at the first point answered FORWARD. -/
theorem State.filter_of_forward {ps : List FarPoint} {i j : Nat} {p : FarPoint} (first : ps[j]? = some p)
    (forwards : (s.pointAnswer l p.point (i + j)).action = .forward)
    (before : ∀ k o, k < j → ps[k]? = some o → (s.pointAnswer l o.point (i + k)).action ≠ .forward) :
    ∃ t, Judged s t ∧ State.filter l none s i ps =
      (t, ps.mapIdx fun k o => if k < j then s.markOf l (i + k) o.point else o, some (s.pointAnswer l p.point (i + j))) := by
  induction ps generalizing s i j with
  | nil => simp at first
  | cons o ps ih =>
    obtain ⟨t, judged, stops, marked⟩ := s.filter_cons (l := l) none i o ps
    cases j with
    | zero =>
      obtain rfl : o = p := by simpa using first
      refine ⟨t, judged, (stops forwards).trans ?_⟩
      simp only [Nat.not_lt_zero, if_false, Prod.mk.injEq, true_and]
      refine ⟨List.ext_getElem (by simp) fun n _ _ => ?_, rfl⟩
      cases n <;> simp
    | succ j =>
      obtain ⟨u, judged', rest⟩ := ih (s := t) (i := i + 1) (j := j) (by simpa using first)
        (by rw [(judged.markOf l _ _).1, Nat.add_right_comm, Nat.add_assoc]; exact forwards) fun k o' earlier at_ => by
          rw [(judged.markOf l _ _).1, Nat.add_right_comm, Nat.add_assoc]
          exact before (k + 1) o' (Nat.succ_lt_succ earlier) at_
      refine ⟨u, judged.trans judged', (marked (before 0 o (Nat.succ_pos j) rfl)).trans ?_⟩
      simp only [rest, List.mapIdx_cons, (judged.markOf l _ _).1, (judged.markOf l _ _).2]
      simp [Nat.add_comm, Nat.add_left_comm, State.midRequest]

end Queries

/-! ### A request between two queries (R40, R109, R119, R121) -/

section Mid
variable {s t u v : State} {l : Line} {kind : MidKind}

/-- R109, R121: what one such request leaves as the same request of another state does, but for its RESPONSE, which shows a
count. -/
structure AlikeTable (s t : State) : Prop where
  table : SameTable s t
  receiver : t.link.receiver = s.link.receiver
  responses : t.link.responses = s.link.responses

/-- What the same request replies in both. -/
structure Reply.Alike (kind : MidKind) (a b : Reply) : Prop where
  state : AlikeTable a.state b.state
  result : b.result = a.result
  data : kind ≠ .tableGet → b.data = a.data

/-- R109: what such a request does. -/
def midAct (kind : MidKind) (r : Req) (t : State) : Reply :=
  match kind with
  | .tablePut => deviceReply 25 r (putEntry r.args) t
  | .tableGet => deviceReply 2 r (getEntry r.args) t
  | .stanceSet => deviceReply 3 r (setStance r.args) t

/-- Its code. -/
def midCode (kind : MidKind) : Byte :=
  match kind with
  | .tablePut => 0x10
  | .tableGet => 0x11
  | .stanceSet => 0x04

theorem exec_midRow (kind : MidKind) (r : Req) (s : State) : exec (kind.row r) s = .next (s.request (midCode kind) r (midAct kind r)) := by
  cases kind <;> rfl

theorem State.midRequest_of_met (s : State) (l : Line) (n : Nat) (kind : MidKind) (r : Req) :
    s.midRequest (some ⟨l, n, kind, r⟩) l n = s.request (midCode kind) r (midAct kind r) := by
  rw [State.midRequest, if_pos ⟨rfl, rfl⟩]
  cases kind <;> rfl

theorem State.midRequest_of_ne (s : State) (l : Line) {n i : Nat} (other : n ≠ i) (kind : MidKind) (r : Req) :
    s.midRequest (some ⟨l, n, kind, r⟩) l i = s :=
  if_neg fun met => other met.2

theorem SameTable.set (same : SameTable s t) (i : Nat) (below : i < 32) {e d : RuleEntry}
    (entry : { e with hits := 0 } = { d with hits := 0 }) :
    SameTable { s with rules := s.rules.set i d } { t with rules := t.rules.set i e } := by
  refine ⟨fun j => ?_, same.stance⟩
  have rules := same.rules j
  simp only [Vector.get_eq_getElem, Vector.getElem_set] at rules ⊢
  split
  · exact entry
  · exact rules

theorem putEntry_alike (alike : AlikeTable s t) (args : List Byte) : Reply.Alike .tablePut (putEntry args s) (putEntry args t) := by
  have answered : ∀ r, Reply.Alike .tablePut (s.answer r) (t.answer r) := fun r => ⟨alike, rfl, fun _ => rfl⟩
  unfold putEntry
  split
  · next below =>
    split
    · next below =>
      split
      · exact ⟨⟨alike.table.set _ below rfl, alike.receiver, alike.responses⟩, rfl, fun _ => rfl⟩
      · exact answered _
    · exact answered _
  · exact answered _

theorem getEntry_alike (alike : AlikeTable s t) (args : List Byte) : Reply.Alike .tableGet (getEntry args s) (getEntry args t) := by
  have answered : ∀ r, Reply.Alike .tableGet (s.answer r) (t.answer r) := fun r => ⟨alike, rfl, fun _ => rfl⟩
  unfold getEntry
  split
  · split
    · next below =>
      refine ⟨?_, rfl, fun other => absurd rfl other⟩
      dsimp only
      split
      · refine ⟨alike.table.set _ below ?_, alike.receiver, alike.responses⟩
        exact alike.table.rules ⟨_, below⟩
      · exact alike
    · exact answered _
  · exact answered _

theorem setStance_alike (alike : AlikeTable s t) (args : List Byte) : Reply.Alike .stanceSet (setStance args s) (setStance args t) := by
  have answered : ∀ r, Reply.Alike .stanceSet (s.answer r) (t.answer r) := fun r => ⟨alike, rfl, fun _ => rfl⟩
  unfold setStance
  split
  · split
    · exact ⟨⟨⟨alike.table.rules, rfl⟩, alike.receiver, alike.responses⟩, rfl, fun _ => rfl⟩
    · exact answered _
  · exact answered _

theorem midAct_alike (alike : AlikeTable s t) (kind : MidKind) (r : Req) :
    Reply.Alike kind (midAct kind r s) (midAct kind r t) := by
  have device : ∀ (len : Nat) {act : State → Reply}, Reply.Alike kind (act s) (act t) →
      Reply.Alike kind (deviceReply len r act s) (deviceReply len r act t) := fun len act acts => by
    unfold deviceReply
    split
    · split
      · exact acts
      · exact ⟨alike, rfl, fun _ => rfl⟩
    · exact ⟨alike, rfl, fun _ => rfl⟩
  cases kind with
  | tablePut => exact device 25 (putEntry_alike alike r.args)
  | tableGet => exact device 2 (getEntry_alike alike r.args)
  | stanceSet => exact device 3 (setStance_alike alike r.args)

/-- R109: what such a request of one state leaves as that of another does. -/
structure Answered (kind : MidKind) (s t : State) : Prop where
  table : SameTable s t
  receiver : t.link.receiver = s.link.receiver
  length : t.link.responses.length = s.link.responses.length
  responses : kind ≠ .tableGet → t.link.responses = s.link.responses

theorem AlikeTable.answered (alike : AlikeTable s t) : Answered kind s t :=
  ⟨alike.table, alike.receiver, congrArg List.length alike.responses, fun _ => alike.responses⟩

theorem Reply.Alike.sent {a b : Reply} (alike : Reply.Alike kind a b) (addr : Addr) (num code : Byte) :
    Answered kind (a.state.respond ⟨addr, num, code, a.result, a.data⟩) (b.state.respond ⟨addr, num, code, b.result, b.data⟩) := by
  obtain ⟨⟨table, receiver, responses⟩, result, data⟩ := alike
  refine ⟨⟨table.rules, table.stance⟩, receiver, ?_, fun other => ?_⟩
  · change (b.state.link.responses ++ [_]).length = (a.state.link.responses ++ [_]).length
    rw [responses, List.length_append, List.length_append]
    rfl
  · change b.state.link.responses ++ [_] = a.state.link.responses ++ [_]
    rw [responses, result, data other]

theorem endAutonomous_keeps (u : LinkUnit) : u.endAutonomous.stance = u.stance ∧ u.endAutonomous.receiver = u.receiver ∧
    u.endAutonomous.responses = u.responses ∧ u.endAutonomous.notices = u.notices := by
  unfold LinkUnit.endAutonomous
  split <;> exact ⟨rfl, rfl, rfl, rfl⟩

theorem State.midRequest_answered (alike : AlikeTable s t) (kind : MidKind) (r : Req) :
    Answered kind (s.request (midCode kind) r (midAct kind r)) (t.request (midCode kind) r (midAct kind r)) := by
  have taken : AlikeTable (s.onLink fun u => { u with receiver := .idle }) (t.onLink fun u => { u with receiver := .idle }) :=
    ⟨⟨alike.table.rules, alike.table.stance⟩, rfl, alike.responses⟩
  have ended : AlikeTable ((s.onLink fun u => { u with receiver := .idle }).onLink LinkUnit.endAutonomous)
      ((t.onLink fun u => { u with receiver := .idle }).onLink LinkUnit.endAutonomous) := by
    have before := endAutonomous_keeps { s.link with receiver := .idle }
    have after := endAutonomous_keeps { t.link with receiver := .idle }
    exact ⟨⟨alike.table.rules, after.1.trans (alike.table.stance.trans before.1.symm)⟩, after.2.1.trans before.2.1.symm,
      after.2.2.1.trans (alike.responses.trans before.2.2.1.symm)⟩
  unfold State.request State.taken
  rw [alike.receiver]
  split
  · dsimp only
    rw [taken.responses]
    split
    · exact AlikeTable.answered ⟨⟨alike.table.rules, alike.table.stance⟩, rfl, alike.responses⟩
    · exact (midAct_alike ended kind r).sent ..
  · exact alike.answered

/-- Such a request changes the rule table and the link unit, and no notice. -/
def TableOnly (s t : State) : Prop := t = { s with rules := t.rules, link := t.link } ∧ t.link.notices = s.link.notices

theorem putEntry_tableOnly (args : List Byte) (s : State) : TableOnly s (putEntry args s).state := by
  unfold putEntry
  repeat' split
  all_goals exact ⟨rfl, rfl⟩

theorem getEntry_tableOnly (args : List Byte) (s : State) : TableOnly s (getEntry args s).state := by
  unfold getEntry
  split
  · split
    · dsimp only
      split <;> exact ⟨rfl, rfl⟩
    · exact ⟨rfl, rfl⟩
  · exact ⟨rfl, rfl⟩

theorem setStance_tableOnly (args : List Byte) (s : State) : TableOnly s (setStance args s).state := by
  unfold setStance
  repeat' split
  all_goals exact ⟨rfl, rfl⟩

theorem midAct_tableOnly (kind : MidKind) (r : Req) (s : State) : TableOnly s (midAct kind r s).state := by
  have device : ∀ (len : Nat) {act : State → Reply}, TableOnly s (act s).state → TableOnly s (deviceReply len r act s).state :=
    fun len act acts => by
      unfold deviceReply
      repeat' split
      · exact acts
      all_goals exact ⟨rfl, rfl⟩
  cases kind with
  | tablePut => exact device 25 (putEntry_tableOnly r.args s)
  | tableGet => exact device 2 (getEntry_tableOnly r.args s)
  | stanceSet => exact device 3 (setStance_tableOnly r.args s)

theorem TableOnly.queried (only : TableOnly s t) : Queried s t :=
  ⟨only.1, fun _ told => told.of_notices only.2⟩

theorem State.request_queried (s : State) (kind : MidKind) (r : Req) :
    Queried s (s.request (midCode kind) r (midAct kind r)) := by
  refine TableOnly.queried ?_
  unfold State.request State.taken
  split
  · dsimp only
    split
    · exact ⟨rfl, rfl⟩
    · obtain ⟨rest, notices⟩ := midAct_tableOnly kind r ((s.onLink fun u => { u with receiver := .idle }).onLink LinkUnit.endAutonomous)
      refine ⟨?_, notices.trans (endAutonomous_keeps _).2.2.2⟩
      rw [rest]
      rfl
  · exact ⟨rfl, rfl⟩

/-- What the queries leave of the table and the link unit beside the notices stands beside such a request. -/
theorem Judged.alike (judged : Judged s t) : AlikeTable s t := ⟨judged.table, judged.link.1, judged.link.2.1⟩

theorem Answered.judged (answered : Answered kind s t) (judged : Judged t u) : Answered kind s u := by
  obtain ⟨receiver, responses, -⟩ := judged.link
  exact ⟨answered.table.trans judged.table, receiver.trans answered.receiver, by rw [responses, answered.length],
    fun other => by rw [responses, answered.responses other]⟩

/-- R109: once its point is passed, no request falls between the queries. -/
theorem State.filter_of_passed {n i : Nat} (passed : n < i) (kind : MidKind) (r : Req) (s : State) (ps : List FarPoint) :
    State.filter l (some ⟨l, n, kind, r⟩) s i ps = State.filter l none s i ps := by
  induction ps generalizing s i with
  | nil => rfl
  | cons p ps ih =>
    have here : s.midRequest (some ⟨l, n, kind, r⟩) l i = s.midRequest none l i := s.midRequest_of_ne l (Nat.ne_of_lt passed) kind r
    simp only [State.filter, here, ih (Nat.lt_succ_of_lt passed)]

/-- R109: the points before a request between two queries are judged by the table before it, the others by the table after it. -/
theorem State.filter_of_request {n i : Nat} {r : Req} {s0 u : State} {ps : List FarPoint} (row : exec (kind.row r) s0 = .next u)
    (judged : Judged s0 s) (after : i ≤ n) (before : n < i + ps.length)
    (decides : ∀ j p, ps[j]? = some p → ((if i + j < n then s0 else u).pointAnswer l p.point (i + j)).action ≠ .forward) :
    ∃ t, Queried s0 t ∧ Answered kind u t ∧ State.filter l (some ⟨l, n, kind, r⟩) s i ps =
      (t, ps.mapIdx fun j p => if i + j < n then s0.markOf l (i + j) p.point else u.markOf l (i + j) p.point, none) := by
  induction ps generalizing s i with
  | nil => exact absurd before (Nat.not_lt.mpr after)
  | cons p ps ih =>
    obtain ⟨t, queried, -, marked⟩ := s.filter_cons (l := l) (some ⟨l, n, kind, r⟩) i p ps
    have decided : ((if i < n then s0 else u).pointAnswer l p.point i).action ≠ .forward := decides 0 p rfl
    have later : ∀ j o, ps[j]? = some o →
        ((if i + 1 + j < n then s0 else u).pointAnswer l o.point (i + 1 + j)).action ≠ .forward := fun j o at_ => by
      rw [Nat.add_right_comm, Nat.add_assoc]
      exact decides (j + 1) o at_
    obtain same | earlier := Nat.eq_or_lt_of_le after
    · subst same
      rw [State.midRequest_of_met] at queried marked
      have asked : u = s0.request (midCode kind) r (midAct kind r) :=
        (Host.Outcome.next.inj ((exec_midRow kind r s0).symm.trans row)).symm
      have answered : Answered kind u (s.request (midCode kind) r (midAct kind r)) :=
        asked ▸ State.midRequest_answered judged.alike kind r
      have requested := judged.queried.trans (s.request_queried kind r)
      have contract : (s.request (midCode kind) r (midAct kind r)).contract l = u.contract l := by
        rw [(requested.line l).1, asked, ((s0.request_queried kind r).line l).1]
      have here := answered.table.markOf (by rw [contract]) (by rw [contract]) i p.point
      have record : t.contract l = u.contract l := (queried.queried.line l).1.trans contract
      have there := (answered.judged queried).table.markOf (l := l) (by rw [record]) (by rw [record])
      rw [if_neg (Nat.lt_irrefl i)] at decided
      obtain ⟨w, rest, filtered⟩ := State.filter_of_noForward (l := l) (s := t) (i := i + 1) (ps := ps) fun j o at_ => by
        have ends := later j o at_
        rw [if_neg (by omega)] at ends
        rwa [(there _ _).1]
      refine ⟨w, (requested.trans queried.queried).trans rest.queried, (answered.judged queried).judged rest,
        (marked (by rwa [here.1])).trans ?_⟩
      simp only [State.filter_of_passed (Nat.lt_succ_self i), filtered, List.mapIdx_cons, here.2, (there _ _).2]
      simp [Nat.add_comm, Nat.add_left_comm]
    · rw [State.midRequest_of_ne _ _ (Nat.ne_of_gt earlier)] at queried marked
      have here := judged.markOf l i p.point
      rw [if_pos earlier] at decided
      obtain ⟨w, queried', answered, filtered⟩ := ih (s := t) (i := i + 1) (judged.trans queried) earlier
        (by rw [List.length_cons] at before; omega) later
      refine ⟨w, queried', answered, (marked (by rwa [here.1])).trans ?_⟩
      simp only [filtered, List.mapIdx_cons, here.2]
      simp [earlier, Nat.add_comm, Nat.add_left_comm]

end Mid

/-! ### The points of a stored menu (R66, R67) -/

section Unmarked
variable {s : State} {l : Line} {pts : List Point}

/-- R66: points before their filtering. -/
def unmarked (pts : List Point) : List FarPoint := pts.map fun p => ⟨p, .unqueried, 0⟩

theorem unmarked_getElem? {i : Nat} {p : FarPoint} : (unmarked pts)[i]? = some p ↔
    pts[i]? = some p.point ∧ p = ⟨p.point, .unqueried, 0⟩ := by
  rw [unmarked, List.getElem?_map, Option.map_eq_some_iff]
  constructor
  · rintro ⟨q, found, rfl⟩
    exact ⟨found, rfl⟩
  · rintro ⟨found, same⟩
    exact ⟨p.point, found, same.symm⟩

theorem mapIdx_unmarked (f : Nat → FarPoint → FarPoint) (pts : List Point) :
    (unmarked pts).mapIdx f = pts.mapIdx fun i p => f i ⟨p, .unqueried, 0⟩ := by
  induction pts generalizing f with
  | nil => rfl
  | cons p pts ih =>
    simp only [unmarked, List.map_cons, List.mapIdx_cons]
    exact congrArg (_ :: ·) (ih fun i => f (i + 1))

/-- R67: the filtering of a menu of which no point is forwarded. -/
theorem State.filter_unmarked (decides : s.NoForward l pts) :
    ∃ u, Judged s u ∧ State.filter l none s 0 (unmarked pts) = (u, pts.mapIdx (s.markOf l), none) := by
  obtain ⟨u, judged, filtered⟩ := State.filter_of_noForward (s := s) (l := l) (i := 0) (ps := unmarked pts) fun j p at_ => by
    rw [Nat.zero_add]
    exact decides j p.point (unmarked_getElem?.1 at_).1
  simp only [mapIdx_unmarked, Nat.zero_add] at filtered
  exact ⟨u, judged, filtered⟩

/-- R68: the filtering of a menu of which a point is forwarded. -/
theorem State.filter_unmarked_of_forward {j : Nat} {p : Point} (first : pts[j]? = some p)
    (forwards : (s.pointAnswer l p j).action = .forward)
    (before : ∀ i o, i < j → pts[i]? = some o → (s.pointAnswer l o i).action ≠ .forward) :
    ∃ u, Judged s u ∧ State.filter l none s 0 (unmarked pts) =
      (u, pts.mapIdx fun i o => if i < j then s.markOf l i o else ⟨o, .unqueried, 0⟩, some (s.pointAnswer l p j)) := by
  obtain ⟨u, judged, filtered⟩ := State.filter_of_forward (s := s) (l := l) (i := 0) (ps := unmarked pts) (j := j)
    (p := ⟨p, .unqueried, 0⟩) (unmarked_getElem?.2 ⟨first, rfl⟩) (by rwa [Nat.zero_add]) fun k o earlier at_ => by
      rw [Nat.zero_add]
      exact before k o.point earlier (unmarked_getElem?.1 at_).1
  simp only [mapIdx_unmarked, Nat.zero_add] at filtered
  exact ⟨u, judged, filtered⟩

/-- R67, R109: the filtering of a menu that a request falls within, of which no point is forwarded. -/
theorem State.filter_unmarked_of_request {u : State} {n : Nat} {kind : MidKind} {r : Req} (before : n < pts.length)
    (row : exec (kind.row r) s = .next u) (decides : s.NoForwardUpTo u l n pts) :
    ∃ t, Queried s t ∧ Answered kind u t ∧
      State.filter l (some ⟨l, n, kind, r⟩) s 0 (unmarked pts) = (t, s.marksUpTo u l n pts, none) := by
  obtain ⟨t, queried, answered, filtered⟩ := State.filter_of_request (l := l) (i := 0) (ps := unmarked pts) row (.refl s)
    (Nat.zero_le n) (by simpa [unmarked] using before) fun j p at_ => by
      rw [Nat.zero_add]
      exact decides j p.point (unmarked_getElem?.1 at_).1
  simp only [mapIdx_unmarked, Nat.zero_add] at filtered
  exact ⟨t, queried, answered, filtered⟩

end Unmarked

/-! ### The selection after them (R71, R72) -/

section Selecting
variable {s v : State} {l : Line}

/-- What the candidates of marked points are judged by. -/
theorem State.firstClaim_congr (agreement : (v.contract l).agreement = (s.contract l).agreement)
    (claim : (v.contract l).claim = (s.contract l).claim) (prefs : v.prefs = s.prefs)
    (room : v.budget.drawHeadroom = s.budget.drawHeadroom) (marks : List FarPoint) : v.firstClaim l marks = s.firstClaim l marks := by
  simp only [State.firstClaim, State.claimOf, State.drawRoom, Contract.drawCommitment, agreement, claim, prefs, room]

/-- R72: selection from the start claims the first candidate that can be claimed. -/
theorem State.select_start {raw : List Byte} {marks : List FarPoint} (menu : (s.contract l).farMenu = some ⟨raw, marks⟩) :
    (∀ k f, s.firstClaim l marks = some (k, f) → s.select l ⟨0, 0⟩ = s.sendClaim l k f) ∧
      (s.firstClaim l marks = none → s.select l ⟨0, 0⟩ = s.noSuitablePoint l) := by
  have candidates : ∀ k, s.candidate l k = s.claimOf l marks k := fun k => by rw [State.candidate_eq, menu]; rfl
  have found : s.select l ⟨0, 0⟩ = (match s.firstClaim l marks with
      | some (k, f) => s.sendClaim l k f
      | none => s.noSuitablePoint l) := by
    simp only [State.select, menu, candidates]
    rfl
  refine ⟨fun k f first => ?_, fun none => ?_⟩
  · rw [found, first]
  · rw [found, none]

/-- R71, R72: what the selection leaves at the end of its event. -/
structure SelectionEnded (l : Line) (s t : State) (raw : List Byte) (marks : List FarPoint) : Prop where
  menu : (t.contract l).farMenu = some ⟨raw, marks⟩
  record : (t.contract l).deferred = false ∧ (t.contract l).waitStreak = 0 ∧
    (t.contract l).farRecall = (s.contract l).farRecall ∧ (t.contract l).paused = (s.contract l).paused ∧ t.now = s.now
  claims : ∀ k f, s.firstClaim l marks = some (k, f) →
    ClaimSent l s t k f ∧ (t.contract l).lastOutcome = (s.contract l).lastOutcome
  ends : s.firstClaim l marks = none → (t.contract l).state = .baseline ∧ (t.contract l).role = .draw ∧
    (t.contract l).lastOutcome = some .noSuitablePoint ∧ (t.contract l).agreement = none ∧ (t.contract l).claim = none ∧
    t.budget.drawCommit.get l = 0 ∧ HandedOrDropped l s t ⟨(s.contract l).tagCounter, .ending .noSuitablePoint⟩ ∧
    ((s.contract l).role ≠ .none → t.Told l s.now (.ended (s.contract l).role .baseline (some .noSuitablePoint)))
  told : ∀ {m time} {body : NoticeBody}, body.kind ≠ .ended → body.kind ≠ .report → s.Told m time body → t.Told m time body

theorem State.select_kept (s : State) (l : Line) (k : Cursor) : LinkKept s ((s.select l k).endEvent l) ∧
    ((s.select l k).endEvent l).rules = s.rules := by
  refine ⟨(LinkKept.select s l k).trans (.endEvent _ l), ?_⟩
  obtain ⟨n, f, claims⟩ | ends := s.select_cases l k
  · rw [claims]
    exact (State.sendClaim_records s l n f).1
  · rw [ends]
    exact (State.noSuitablePoint_records s l).1

theorem State.select_ended {raw : List Byte} {marks : List FarPoint} (menu : (s.contract l).farMenu = some ⟨raw, marks⟩)
    (streak : (s.contract l).waitStreak = 0) (undeferred : (s.contract l).deferred = false) :
    SelectionEnded l s ((s.select l ⟨0, 0⟩).endEvent l) raw marks := by
  obtain ⟨claims, ends⟩ := State.select_start menu
  cases first : s.firstClaim l marks with
  | some kf =>
    obtain ⟨k, f⟩ := kf
    rw [claims k f first]
    obtain ⟨-, -, outcome, waits, farMenu, deferred, -, paused, -, -, -, farRecall, -⟩ := (s.sendClaim_record l k f).fields
    refine ⟨?_, ?_, fun n g same => ?_, fun none => ?_, fun _ _ told => (told.sendClaim l k f).of_notices rfl⟩
    · rw [State.endEvent_contract_self, farMenu]
      exact menu
    · rw [State.endEvent_contract_self, waits, deferred, paused, farRecall]
      exact ⟨undeferred, streak, rfl, rfl, (State.sendClaim_setup s l k f).2.1⟩
    · obtain ⟨rfl, rfl⟩ := Prod.mk.inj (Option.some.inj (first.symm.trans same))
      refine ⟨(State.sendClaim_claimSent ..).endEvent, ?_⟩
      rw [State.endEvent_contract_self, outcome]
      rfl
    · exact nomatch first.symm.trans none
  | none =>
    rw [ends first]
    obtain ⟨baseline, role, outcome, agreement, commit, handed, told⟩ := s.noSuitablePoint_leaves l
    have contract : ((s.noSuitablePoint l).endEvent l).contract l = { Contract.unsuited { s.contract l with
        tagCounter := (s.contract l).tagCounter + 1 } with role := .draw } := by
      rw [State.endEvent_contract_self, State.noSuitablePoint_contract_self]
      rfl
    refine ⟨?_, ?_, fun n g some => ?_, fun _ => ⟨baseline, role, outcome, agreement, ?_, commit, handed, told⟩,
      fun kind _ told => (told.noSuitablePoint kind l).of_notices rfl⟩
    · rw [contract]
      exact menu
    · rw [contract]
      exact ⟨rfl, rfl, rfl, rfl, (State.noSuitablePoint_setup s l).2.1⟩
    · exact nomatch first.symm.trans some
    · rw [contract]
      rfl

/-- What a selection leaves, read from the state before the queries. -/
theorem SelectionEnded.of_base {t : State} {raw : List Byte} {marks : List FarPoint} (ended : SelectionEnded l v t raw marks)
    (base : ClaimBase l s v) (first : v.firstClaim l marks = s.firstClaim l marks)
    (record : (v.contract l).farRecall = (s.contract l).farRecall ∧ (v.contract l).paused = (s.contract l).paused ∧
      (v.contract l).lastOutcome = (s.contract l).lastOutcome ∧ (v.contract l).role = (s.contract l).role)
    (told : ∀ {m time} {body : NoticeBody}, body.kind ≠ .report → s.Told m time body → v.Told m time body) :
    SelectionEnded l s t raw marks := by
  obtain ⟨farRecall, paused, outcome, role⟩ := record
  obtain ⟨menu, ⟨deferred, streak, recalls, pauses, now⟩, claims, ends, tells⟩ := ended
  refine ⟨menu, ⟨deferred, streak, recalls.trans farRecall, pauses.trans paused, now.trans base.now⟩, fun k f candidate => ?_,
    fun none => ?_, fun kind other before => tells kind other (told other before)⟩
  · obtain ⟨sent, after⟩ := claims k f (first.trans candidate)
    exact ⟨sent.of_base base, after.trans outcome⟩
  · obtain ⟨baseline, draw, after, agreement, claim, commit, handed, notice⟩ := ends (first.trans none)
    refine ⟨baseline, draw, after, agreement, claim, commit, ?_, ?_⟩
    · rw [base.tag] at handed
      rw [HandedOrDropped, handed, base.engine]
    · rw [role, base.now] at notice
      exact notice

/-- R52, R73: a selection keeps a decision slot empty and a line without a verdict entry, and a claim keeps every entry. -/
theorem State.select_undecided {raw : List Byte} {marks : List FarPoint} (menu : (s.contract l).farMenu = some ⟨raw, marks⟩)
    (free : (s.contract l).decision = none) (undecided : s.verdictOf l = none) :
    (((s.select l ⟨0, 0⟩).endEvent l).contract l).decision = none ∧ ((s.select l ⟨0, 0⟩).endEvent l).verdictOf l = none := by
  obtain ⟨claims, ends⟩ := State.select_start menu
  rw [State.endEvent_contract_self]
  cases first : s.firstClaim l marks with
  | some kf =>
    obtain ⟨k, f⟩ := kf
    obtain ⟨-, -, -, -, -, -, decision, -⟩ := (s.sendClaim_record l k f).fields
    rw [claims k f first]
    exact ⟨decision.trans free, ((State.endEvent_link ..).2 l).trans (((State.sendClaim_sameButNotices s l k f).2.2.2.2.2.2.2.2.2.2 l).trans
      undecided)⟩
  | none =>
    rw [ends first, State.noSuitablePoint_contract_self]
    exact ⟨rfl, ((State.endEvent_link ..).2 l).trans (State.closing_verdictOf_self ..)⟩

theorem State.select_verdicts {raw : List Byte} {marks : List FarPoint} {k : Cursor} {f : ClaimFields}
    (menu : (s.contract l).farMenu = some ⟨raw, marks⟩) (first : s.firstClaim l marks = some (k, f)) :
    ((s.select l ⟨0, 0⟩).endEvent l).link.verdicts = s.link.verdicts := by
  rw [(State.select_start menu).1 k f first]
  exact (State.sendClaim_sameButNotices s l k f).2.2.1

/-- R66, R72, R84: the state in which the selection of a menu begins. -/
def State.menuFiltered (u : State) (l : Line) (raw : List Byte) (marks : List FarPoint) : State :=
  u.onContract l fun c => { c with farMenu := some ⟨raw, marks⟩ }

theorem State.beginMenu_menu {m : FarMenu} (menu : (s.contract l).farMenu = some m) :
    ((s.onContract l Contract.beginMenu).contract l).farMenu =
      some { m with points := unmarked (m.points.map FarPoint.point) } := by
  rw [State.onContract_contract_self, Contract.beginMenu, menu, unmarked, List.map_map]
  rfl

theorem State.processMenu_of_filtered {m : FarMenu} {mid : Option MidRequest} {u : State} {marks : List FarPoint}
    (menu : (s.contract l).farMenu = some m)
    (filtered : State.filter l mid (s.onContract l Contract.beginMenu) 0 (unmarked (m.points.map FarPoint.point)) =
      (u, marks, none)) : s.processMenu l mid = (u.menuFiltered l m.raw marks).select l ⟨0, 0⟩ := by
  unfold State.processMenu
  simp only [State.beginMenu_menu menu, filtered]
  rfl

/-- R72: the selection among filtered points, read from the state before their filtering. -/
theorem State.menuFiltered_selected {u : State} {raw : List Byte} {marks : List FarPoint}
    (queried : Queried (s.onContract l Contract.beginMenu) u) :
    SelectionEnded l s (((u.menuFiltered l raw marks).select l ⟨0, 0⟩).endEvent l) raw marks ∧
      LinkKept u (((u.menuFiltered l raw marks).select l ⟨0, 0⟩).endEvent l) ∧
      (((u.menuFiltered l raw marks).select l ⟨0, 0⟩).endEvent l).rules = u.rules := by
  obtain ⟨kept, rules⟩ := State.select_kept (u.menuFiltered l raw marks) l ⟨0, 0⟩
  obtain ⟨contract, engine, -, budget, prefs, now⟩ := queried.line l
  rw [State.onContract_contract_self] at contract
  have record : (u.menuFiltered l raw marks).contract l = { (s.contract l).beginMenu with farMenu := some ⟨raw, marks⟩ } := by
    rw [State.menuFiltered, State.onContract_contract_self, contract]
  have link : LinkKept u (u.menuFiltered l raw marks) := .onContract ..
  have told : ∀ {n time} {body : NoticeBody}, body.kind ≠ .report → s.Told n time body →
      (u.menuFiltered l raw marks).Told n time body := fun kind told =>
    State.Told.of_notices (queried.told kind (State.Told.of_notices (t := s.onContract l Contract.beginMenu) told rfl)) rfl
  have side : (u.menuFiltered l raw marks).engine l = s.engine l := engine
  have time : (u.menuFiltered l raw marks).now = s.now := now
  have choices : (u.menuFiltered l raw marks).prefs = s.prefs := prefs
  have room : (u.menuFiltered l raw marks).budget.drawHeadroom = s.budget.drawHeadroom := congrArg Budget.drawHeadroom budget
  have sums : (u.menuFiltered l raw marks).rules = u.rules := rfl
  generalize u.menuFiltered l raw marks = v at *
  have base : ClaimBase l s v := by
    refine ⟨side, ?_, ?_, ?_, ?_, ?_, ?_, time⟩ <;> rw [record] <;> rfl
  have first : v.firstClaim l marks = s.firstClaim l marks :=
    State.firstClaim_congr (by rw [record]; rfl) (by rw [record]; rfl) choices room marks
  have ended : SelectionEnded l v ((v.select l ⟨0, 0⟩).endEvent l) raw marks :=
    State.select_ended (by rw [record]) (by rw [record]; rfl) (by rw [record]; rfl)
  exact ⟨ended.of_base base first (by rw [record]; exact ⟨rfl, rfl, rfl, rfl⟩) told, link.trans kept, rules.trans sums⟩

/-- R66, R67, R72, R84: what the processing of a stored menu leaves, of which no point is forwarded. -/
theorem State.processMenu_ended {m : FarMenu} {mid : Option MidRequest} {u : State} {marks : List FarPoint}
    (menu : (s.contract l).farMenu = some m) (queried : Queried (s.onContract l Contract.beginMenu) u)
    (filtered : State.filter l mid (s.onContract l Contract.beginMenu) 0 (unmarked (m.points.map FarPoint.point)) =
      (u, marks, none)) :
    SelectionEnded l s ((s.processMenu l mid).endEvent l) m.raw marks ∧
      LinkKept u ((s.processMenu l mid).endEvent l) ∧ ((s.processMenu l mid).endEvent l).rules = u.rules := by
  rw [State.processMenu_of_filtered menu filtered]
  exact State.menuFiltered_selected queried

theorem State.markOf_beginMenu (s : State) (l : Line) (i : Nat) (p : Point) :
    (s.onContract l Contract.beginMenu).pointAnswer l p i = s.pointAnswer l p i ∧
      (s.onContract l Contract.beginMenu).markOf l i p = s.markOf l i p := by
  refine SameTable.markOf (s := s) (t := s.onContract l Contract.beginMenu) ⟨fun _ => rfl, rfl⟩ ?_ ?_ i p <;>
    rw [State.onContract_contract_self] <;> rfl

/-- R68, R163: the record of a line whose MENU is forwarded. -/
def Contract.choosing (c : Contract) (raw : List Byte) (marks : List FarPoint) (arrived : Time) : Contract :=
  { c.beginMenu.enter .choosing with
    farMenu := some ⟨raw, marks⟩
    decision := some ⟨.menu, tagOf raw, arrived, c.state⟩
    role := .draw }

/-- R163: the RELAY parts of a forwarded MENU. -/
def menuRelays (tag : Byte) (a : Answer) (c : Contract) (raw : List Byte) (marks : List FarPoint) : List (List Byte) :=
  [tag :: 1 :: BitVec.ofNat 8 a.rule :: (relayFar c.far c.farRecall ++ raw),
    tag :: 2 :: BitVec.ofNat 8 marks.length ::
      (marks.map fun m => [BitVec.ofNat 8 m.mark.code, BitVec.ofNat 8 (m.capacity / 256), BitVec.ofNat 8 m.capacity]).flatten]

/-- R67, R68: only a point that survives has a capacity. -/
def FarPoint.Sound (p : FarPoint) : Prop := p.mark ≠ .survives → p.capacity = 0

theorem markedBy_sound (a : Action) (clamp : Nat) (lineClamp : Option Nat) (p : Point) : (markedBy a clamp lineClamp p).Sound := by
  cases a <;> simp [FarPoint.Sound, markedBy]

theorem relayPart2_eq {marks : List FarPoint} (sound : ∀ p ∈ marks, p.Sound) (tag : Byte) : relayPart2 tag marks =
    tag :: 2 :: BitVec.ofNat 8 marks.length ::
      (marks.map fun m => [BitVec.ofNat 8 m.mark.code, BitVec.ofNat 8 (m.capacity / 256), BitVec.ofNat 8 m.capacity]).flatten := by
  have each : ∀ p ∈ marks, byte p.mark.code :: be16 (if p.mark = .survives then p.capacity else 0) =
      [BitVec.ofNat 8 p.mark.code, BitVec.ofNat 8 (p.capacity / 256), BitVec.ofNat 8 p.capacity] := fun p mem => by
    by_cases survives : p.mark = .survives
    · rw [if_pos survives]
      rfl
    · rw [if_neg survives, sound p mem survives]
      rfl
  rw [relayPart2, List.map_congr_left each]
  rfl

/-- R68, R163: what the forwarding of a point of a stored menu leaves, at the end of its event. -/
structure ChoiceOpened (l : Line) (s t : State) (raw : List Byte) (marks : List FarPoint) (a : Answer) : Prop where
  record : t.contract l = (s.contract l).choosing raw marks s.now
  engine : t.engine l = s.engine l
  budget : t.budget = s.budget
  verdicts : t.link.verdicts = (s.link.verdicts.filter fun v => !(v.line == l)) ++ [⟨s.link.verdictTag, l, .menuPoint, a.rule,
    a.fallback, a.clamp, s.now + 20, menuRelays s.link.verdictTag a (s.contract l) raw marks⟩]
  verdictTag : t.link.verdictTag = s.link.verdictTag + 1
  channel : t.channel l =
    (s.channel l).take ((s.contract l).choosing raw marks s.now).path s.now (s.contract l).options.capped

/-- R67, R68, R163: what the processing of a stored menu leaves, of which a point is forwarded in RUNNING mode. -/
theorem State.processMenu_forwarded {m : FarMenu} {mid : Option MidRequest} {u : State} {marks : List FarPoint} {a : Answer}
    (menu : (s.contract l).farMenu = some m) (running : s.link.mode = .running)
    (judged : Judged (s.onContract l Contract.beginMenu) u) (sound : ∀ p ∈ marks, p.Sound)
    (filtered : State.filter l mid (s.onContract l Contract.beginMenu) 0 (unmarked (m.points.map FarPoint.point)) =
      (u, marks, some a)) : ChoiceOpened l s ((s.processMenu l mid).endEvent l) m.raw marks a ∧
      ((s.processMenu l mid).endEvent l).link.responses = s.link.responses := by
  obtain ⟨contract, engine, channel, budget, prefs, now⟩ := judged.queried.line l
  obtain ⟨-, responses, verdicts, mode, -, -, -, -, tag, -⟩ := judged.link
  have process : s.processMenu l mid = (((u.menuFiltered l m.raw marks).holdDecision l .menu (tagOf m.raw)
      ((u.menuFiltered l m.raw marks).contract l).state).openVerdict l .menuPoint a
        [relayPart1 u.link.verdictTag a.rule ((u.menuFiltered l m.raw marks).contract l) m.raw,
          relayPart2 u.link.verdictTag marks]).enter l .choosing := by
    unfold State.processMenu
    simp only [State.beginMenu_menu menu, filtered]
    have still : (u.onContract l fun c => { c with farMenu := some ⟨m.raw, marks⟩ }).link.mode = .running := mode.trans running
    simp only [still]
    rfl
  have relays : [relayPart1 u.link.verdictTag a.rule ((u.menuFiltered l m.raw marks).contract l) m.raw,
      relayPart2 u.link.verdictTag marks] = menuRelays s.link.verdictTag a (s.contract l) m.raw marks := by
    rw [relayPart2_eq sound, tag, State.menuFiltered, State.onContract_contract_self, contract, State.onContract_contract_self]
    rfl
  rw [relays] at process
  have record : (s.processMenu l mid).contract l = { (s.contract l).choosing m.raw marks s.now with role := (s.contract l).role } := by
    rw [process, State.enter_contract_self]
    change Contract.enter (State.contract (State.holdDecision _ _ _ _ _) l) _ = _
    rw [State.holdDecision, State.onContract_contract_self, State.menuFiltered, State.onContract_contract_self, contract,
      State.onContract_contract_self]
    change Contract.enter { (s.contract l).beginMenu with farMenu := _, decision := some ⟨_, _, u.now, _⟩ } _ = _
    rw [now]
    rfl
  have link : (s.processMenu l mid).link = { u.link with
      verdicts := (s.link.verdicts.filter fun v => !(v.line == l)) ++ [⟨s.link.verdictTag, l, .menuPoint, a.rule, a.fallback,
        a.clamp, s.now + 20, menuRelays s.link.verdictTag a (s.contract l) m.raw marks⟩]
      verdictTag := s.link.verdictTag + 1 } := by
    rw [process]
    change LinkUnit.mk _ _ (u.link.verdicts.filter _ ++ [⟨u.link.verdictTag, _, _, _, _, _, u.now + 20, _⟩]) _ _ _ _ _ _ _ (u.link.verdictTag + 1) _ = _
    rw [verdicts, tag, now]
    rfl
  have rest : (s.processMenu l mid).engine l = s.engine l ∧ (s.processMenu l mid).budget = s.budget ∧
      (s.processMenu l mid).channel l = s.channel l ∧ (s.processMenu l mid).now = s.now := by
    rw [process]
    exact ⟨engine, budget, channel, now⟩
  generalize s.processMenu l mid = t at record link rest
  obtain ⟨side, sums, path, time⟩ := rest
  have ended : (t.endEvent l).contract l = (s.contract l).choosing m.raw marks s.now := by
    rw [State.endEvent_contract_self, record]
    rfl
  refine ⟨⟨ended, side, sums, congrArg LinkUnit.verdicts link, congrArg LinkUnit.verdictTag link, ?_⟩,
    (congrArg LinkUnit.responses link).trans responses⟩
  rw [State.channel_endEvent, ended, path, time]
  rfl

/-- R68: the marks of a menu whose point `j` is forwarded. -/
def State.marksBefore (s : State) (l : Line) (j : Nat) (pts : List Point) : List FarPoint :=
  pts.mapIdx fun i o => if i < j then s.markOf l i o else ⟨o, .unqueried, 0⟩

theorem State.marksBefore_sound (s : State) (l : Line) (j : Nat) (pts : List Point) : ∀ p ∈ s.marksBefore l j pts, p.Sound := by
  intro p mem
  obtain ⟨i, below, rfl⟩ := List.mem_mapIdx.1 mem
  split
  · exact markedBy_sound _ _ _ _
  · exact fun _ => rfl

/-- R67, R68: the processing of a stored menu of which a point is forwarded in RUNNING mode. -/
theorem State.processMenu_choice {m : FarMenu} {j : Nat} {p : Point} (menu : (s.contract l).farMenu = some m)
    (running : s.link.mode = .running) (first : (m.points.map FarPoint.point)[j]? = some p)
    (forwards : (s.pointAnswer l p j).action = .forward)
    (before : ∀ i o, i < j → (m.points.map FarPoint.point)[i]? = some o → (s.pointAnswer l o i).action ≠ .forward) :
    ChoiceOpened l s ((s.processMenu l none).endEvent l) m.raw (s.marksBefore l j (m.points.map FarPoint.point))
      (s.pointAnswer l p j) ∧ ((s.processMenu l none).endEvent l).link.responses = s.link.responses := by
  obtain ⟨u, judged, filtered⟩ := State.filter_unmarked_of_forward (s := s.onContract l Contract.beginMenu) (l := l) first
    (by rwa [(s.markOf_beginMenu l _ _).1]) fun i o earlier found => by
      rw [(s.markOf_beginMenu l _ _).1]
      exact before i o earlier found
  simp only [(s.markOf_beginMenu l _ _).1, (s.markOf_beginMenu l _ _).2] at filtered
  exact State.processMenu_forwarded menu running judged (s.marksBefore_sound l j _) filtered

/-- R84: what the re-selection of a line leaves, of whose menu no point is forwarded. -/
theorem State.reselect_ended {m : FarMenu} (role : (s.contract l).role = .draw) (menu : (s.contract l).farMenu = some m)
    (unpaused : (s.contract l).paused = false) (decides : s.NoForward l (m.points.map FarPoint.point)) :
    SelectionEnded l s ((s.reselect l none).endEvent l) m.raw ((m.points.map FarPoint.point).mapIdx (s.markOf l)) ∧
      LinkKept s ((s.reselect l none).endEvent l) := by
  obtain ⟨u, judged, filtered⟩ := State.filter_unmarked (s := s.onContract l Contract.beginMenu) (l := l)
    (pts := m.points.map FarPoint.point) fun i p found => by
      rw [(s.markOf_beginMenu l _ _).1]
      exact decides i p found
  have marks : (s.onContract l Contract.beginMenu).markOf l = s.markOf l := funext₂ fun i p => (s.markOf_beginMenu l i p).2
  rw [marks] at filtered
  have reselects : s.reselect l none = s.processMenu l none := if_pos ⟨role, by rw [menu]; rfl, unpaused⟩
  obtain ⟨ended, kept, -⟩ := State.processMenu_ended menu judged.queried filtered
  rw [reselects]
  refine ⟨ended, LinkKept.trans ?_ kept⟩
  refine LinkKept.trans (.onContract s l Contract.beginMenu) (.of_same ?_ judged.link)
  rw [judged.queried.rest]
  exact ⟨rfl, rfl, rfl, rfl, rfl, rfl⟩

end Selecting

end Sys2Proof.Machine
end

section
/-! SUPPORT. Proofs for RENEGOTIATE and RECALL (R63, R68, R72, R84, R91, R100). -/

namespace Sys2Proof.Machine

section Acting
variable (s : State) (l : Line)

/-- R159: what a LINE_CTRL answers, from what its action replies. -/
theorem State.lineControl_sent {s : State} (takes : s.Takes) {action num a b : Byte} {l : Line} {act : Line → State → Reply}
    {rep : Reply} (acts : act l s.acting = rep) :
    s.lineControl action (Req.control action (.line l) num [a, b]) act = rep.sent (.line l) num 0x31 :=
  acts ▸ State.lineControl_framed takes action l num a b act

/-- R176: a request leaves what the rule table answers. -/
theorem SameTable.acting : SameTable s s.acting :=
  ⟨fun _ => rfl, (endAutonomous_keeps { s.link with receiver := .idle }).1⟩

theorem State.acting_verdictTag : s.acting.link.verdictTag = s.link.verdictTag := by
  change (LinkUnit.endAutonomous { s.link with receiver := .idle }).verdictTag = _
  unfold LinkUnit.endAutonomous
  split <;> rfl

theorem State.markOf_acting (i : Nat) (p : Point) :
    s.acting.pointAnswer l p i = s.pointAnswer l p i ∧ s.acting.markOf l i p = s.markOf l i p :=
  (SameTable.acting s).markOf rfl rfl i p

end Acting

/-- R73: what keeps a line's record, its engine and the budget keeps its claim. -/
theorem ClaimSent.later {s t u : State} {l : Line} {k : Cursor} {f : ClaimFields} (sent : ClaimSent l s t k f)
    (contract : u.contract l = t.contract l) (engine : u.engine l = t.engine l) (budget : u.budget = t.budget) :
    ClaimSent l s u k f := by
  obtain ⟨state, cursor, claim, tag, ⟨atOnce, afterWaiting, behind⟩, reserved, agreement⟩ := sent
  have handed : ∀ r, RequestHanded l s t r → RequestHanded l s u r := fun r handed =>
    ⟨by rw [contract]; exact handed.outstanding, by rw [engine]; exact handed.queue⟩
  rw [← contract] at state cursor claim tag atOnce afterWaiting behind agreement
  rw [← engine] at behind
  exact ⟨state, cursor, claim, tag, ⟨fun none free => (atOnce none free).imp_left (handed _),
    fun w none waits => (afterWaiting w none waits).imp_left (handed _), behind⟩, by rw [budget]; exact reserved, agreement⟩

theorem ClaimBase.acting (s : State) (l : Line) : ClaimBase l s s.acting := ⟨rfl, rfl, rfl, rfl, rfl, rfl, rfl, rfl⟩

section Control
variable {s : State} {l : Line}

theorem Contract.mayReselect_iff (c : Contract) : c.mayReselect = true ↔ c.paused = false ∧ c.role = .draw ∧
    (c.state = .active ∨ (c.state = .baseline ∧ c.farMenu.isSome = true)) := by
  simp [Contract.mayReselect, and_assoc]

theorem Contract.mayReoffer_iff (c : Contract) : c.mayReoffer = true ↔ c.paused = false ∧ c.role = .supply ∧
    (c.state = .offering ∨ c.state = .active) := by
  simp [Contract.mayReoffer, and_assoc]

/-- R63: what RENEGOTIATE does. -/
def renegotiateLine (l : Line) (t : State) : Reply :=
  if (t.contract l).mayReselect then ((t.reselect l none).endEvent l).answer .ok
  else if (t.contract l).mayReoffer then (t.rebuildMenu l).answer .ok
  else t.answer .wrongState

theorem execRenegotiate_eq (r : Req) (s : State) : exec (.renegotiate r) s = s.lineControl 0x07 r renegotiateLine := rfl

theorem renegotiateLine_of_draws (draws : (s.contract l).mayReselect = true) :
    renegotiateLine l s = ((s.reselect l none).endEvent l).answer .ok := if_pos draws

theorem renegotiateLine_of_supplies (supplies : (s.contract l).mayReoffer = true) :
    renegotiateLine l s = (s.rebuildMenu l).answer .ok := by
  have other : ¬(s.contract l).mayReselect = true := fun draws => by
    have draw := ((Contract.mayReselect_iff _).1 draws).2.1
    rw [((Contract.mayReoffer_iff _).1 supplies).2.1] at draw
    exact nomatch draw
  rw [renegotiateLine, if_neg other, if_pos supplies]

theorem renegotiateLine_of_neither (draws : ¬(s.contract l).mayReselect = true) (supplies : ¬(s.contract l).mayReoffer = true) :
    renegotiateLine l s = s.answer .wrongState := by
  rw [renegotiateLine, if_neg draws, if_neg supplies]

/-- R63, R100: what RECALL does. -/
def recallLine (args : List Byte) (l : Line) (t : State) : Reply :=
  match args with
  | [a, b] =>
      let c := t.contract l
      if 320 < nat16 a b then t.answer .badEntry
      else if c.role = .supply ∧ (c.state = .active ∨ c.state = .powering) then
        (t.recallCause l (nat16 a b) .controller).answer .ok
      else t.answer .wrongState
  | _ => t.answer .badRequest

theorem execRecallRequest_eq (r : Req) (s : State) : exec (.recallRequest r) s = s.lineControl 0x08 r (recallLine r.args) := rfl

theorem recallLine_of_supplies {a b : Byte} (within : nat16 a b ≤ 320) (supply : (s.contract l).role = .supply)
    (state : (s.contract l).state = .active ∨ (s.contract l).state = .powering) :
    recallLine [a, b] l s = (s.recallCause l (nat16 a b) .controller).answer .ok := by
  simp only [recallLine, if_neg (Nat.not_lt.mpr within)]
  exact if_pos ⟨supply, state⟩


theorem recallLine_of_elsewhere {a b : Byte} (within : nat16 a b ≤ 320)
    (elsewhere : ¬((s.contract l).role = .supply ∧ ((s.contract l).state = .active ∨ (s.contract l).state = .powering))) :
    recallLine [a, b] l s = s.answer .wrongState := by
  simp only [recallLine, if_neg (Nat.not_lt.mpr within)]
  exact if_neg elsewhere

/-- R68, R163: a choice opened is a forward opened. -/
theorem ChoiceOpened.forwardOpened {t : State} {raw : List Byte} {marks : List FarPoint} {a : Answer}
    (opened : ChoiceOpened l s t raw marks a) (frame : LineFrame l s t) : ForwardOpened l s t .menuPoint .menu (tagOf raw)
      (s.contract l).state a (menuRelays s.link.verdictTag a (s.contract l) raw marks) := by
  obtain ⟨record, engine, budget, verdicts, verdictTag, -⟩ := opened
  exact ⟨by rw [record]; rfl, verdicts, verdictTag, by rw [engine], budget, by rw [record]; rfl, frame⟩

/-- R159: a choice that a request opens, read from the state before the request. -/
theorem ChoiceOpened.respond {t : State} {raw : List Byte} {marks : List FarPoint} {a : Answer}
    (opened : ChoiceOpened l s.acting t raw marks a) (r : Response) : ChoiceOpened l s (t.respond r) raw marks a := by
  obtain ⟨record, engine, budget, verdicts, verdictTag, channel⟩ := opened
  rw [State.acting_verdictTag, State.acting_verdicts] at verdicts
  rw [State.acting_verdictTag] at verdictTag
  exact ⟨record, engine, budget, verdicts, verdictTag, channel⟩

end Control

/-- Settles O58: a drawing line by the selection or the forwarded choice, a supplying one by the menu built again, and RECALL by
what the recall cause does. -/
theorem renegotiateAndRecallAct : Obligations.RenegotiateAndRecallAct := by
  intro l s num a b takes r asked gives ok draws supplies
  have negotiates := fun {rep : Reply} (acts : renegotiateLine l s.acting = rep) =>
    show exec (.renegotiate (r 7)) s = rep.sent (.line l) num 0x31 from State.lineControl_sent takes acts
  have recalls := fun {rep : Reply} (acts : recallLine [a, b] l s.acting = rep) =>
    show exec (.recallRequest (r 8)) s = rep.sent (.line l) num 0x31 from State.lineControl_sent takes acts
  refine ⟨fun refused => ?_, fun unpaused draws none settled => ?_, fun m unpaused draws menu settled => ?_,
    fun unpaused supplies room => ?_, fun beyond => recalls (if_pos beyond), fun within elsewhere => ?_, fun within supply => ?_⟩
  · refine negotiates (renegotiateLine_of_neither ?_ ?_)
    · intro may
      obtain ⟨unpaused, role, state⟩ := (Contract.mayReselect_iff _).1 may
      obtain paused | ⟨none, -⟩ := refused
      · exact nomatch paused.symm.trans unpaused
      · exact none ⟨role, state⟩
    · intro may
      obtain ⟨unpaused, role, state⟩ := (Contract.mayReoffer_iff _).1 may
      obtain paused | ⟨-, none⟩ := refused
      · exact nomatch paused.symm.trans unpaused
      · exact none ⟨role, state⟩
  · have may : (s.acting.contract l).mayReselect = true := (Contract.mayReselect_iff (s.contract l)).2 ⟨unpaused, draws⟩
    have row := negotiates (renegotiateLine_of_draws may)
    have still : s.acting.reselect l .none = s.acting := if_neg fun ⟨_, menu, _⟩ => by
      rw [show (s.acting.contract l).farMenu = .none from none] at menu
      exact nomatch menu
    rw [still, State.endEvent_of_settled (s := s.acting) settled] at row
    exact row
  · intro pts
    have may : (s.acting.contract l).mayReselect = true := (Contract.mayReselect_iff (s.contract l)).2 ⟨unpaused, draws⟩
    have row := negotiates (renegotiateLine_of_draws may)
    refine ⟨fun decides => ?_, fun j p h hs raw at_ forwards before => ?_⟩
    · intro marks
      obtain ⟨ended, kept⟩ := State.reselect_ended (s := s.acting) draws.1 menu unpaused fun i p found => by
        rw [(s.markOf_acting l i p).1]
        exact decides i p found
      have same : (m.points.map FarPoint.point).mapIdx (s.acting.markOf l) = marks :=
        congrArg (List.mapIdx · _) (funext₂ fun i p => (s.markOf_acting l i p).2)
      rw [same] at ended
      refine ⟨_, row, ended.menu, fun k f first => ?_, fun none => ?_, ?_, linesDoNotInterfere (.renegotiate (r 7)) l s _ rfl row⟩
      · exact ((ended.claims k f first).1.of_base (.acting s l)).later rfl rfl rfl
      · obtain ⟨baseline, draw, outcome, agreement, -, commit, handed, -⟩ := ended.ends none
        exact ⟨baseline, draw, outcome, agreement, commit, handed⟩
      · exact congrArg (· ++ [_]) (kept.responses.trans s.acting_responses)
    · intro ans tag marks
      have answers : s.acting.pointAnswer l p j = ans := (s.markOf_acting l j p).1
      have ⟨opened, responses⟩ := State.processMenu_choice (s := s.acting) menu s.acting_mode at_
        (by rw [(s.markOf_acting l j p).1]; exact forwards) fun i o earlier found => by
          rw [(s.markOf_acting l i o).1]
          exact before i o earlier found
      have same : s.acting.marksBefore l j pts = marks :=
        congrArg (List.mapIdx · _) (funext₂ fun i o => by rw [(s.markOf_acting l i o).2])
      rw [same, answers] at opened
      have process : s.acting.reselect l none = s.acting.processMenu l none := if_pos ⟨draws.1, by
        rw [show (s.acting.contract l).farMenu = some m from menu]
        rfl, unpaused⟩
      rw [process] at row
      have forwarded := (opened.respond ⟨.line l, num, 0x31, .ok, []⟩).forwardOpened
        (linesDoNotInterfere (.renegotiate (r 7)) l s _ rfl row)
      have head : tagOf m.raw = h.extractLsb' 5 3 := by
        rw [raw]
        rfl
      have points : marks.length = pts.length := List.length_mapIdx
      rw [head, menuRelays, points] at forwarded
      have record := opened.record
      refine ⟨_, row, forwarded, ?_, ?_, ?_, ?_, congrArg (· ++ [_]) (responses.trans s.acting_responses)⟩
      · exact (congrArg Contract.state record).trans rfl
      · exact (congrArg Contract.role record).trans rfl
      · exact (congrArg Contract.farMenu record).trans rfl
      · exact (congrArg Contract.agreement record).trans rfl
  · have may : (s.acting.contract l).mayReoffer = true := (Contract.mayReoffer_iff (s.contract l)).2 ⟨unpaused, supplies⟩
    have row := negotiates (renegotiateLine_of_supplies may)
    intro points
    obtain ⟨offered, sent, held, same⟩ := s.acting.rebuildMenu_rebuilt l
    obtain ⟨same_state, same_agreement⟩ : ((s.acting.rebuildMenu l).contract l).state = (s.contract l).state ∧
        ((s.acting.rebuildMenu l).contract l).agreement = (s.contract l).agreement := by
      have state := congrArg Contract.state same
      have agreement := congrArg Contract.agreement same
      exact ⟨state, agreement⟩
    have link : (s.acting.rebuildMenu l).link = s.acting.link := by rw [State.rebuildMenu_eq]
    refine ⟨_, row, offered, same_state, same_agreement, fun some => sent some room, held,
      congrArg (· ++ [_]) ((congrArg LinkUnit.responses link).trans s.acting_responses),
      linesDoNotInterfere (.renegotiate (r 7)) l s _ rfl row⟩
  · exact recalls (recallLine_of_elsewhere (s := s.acting) within elsewhere)
  · intro level
    have asks : max (nat16 a b) (s.acting.contract l).options.baseline = level := rfl
    have commands := fun state => recalls (recallLine_of_supplies (s := s.acting) (l := l) within supply state)
    refine ⟨fun waits => ?_, fun ag active none agreement => ⟨fun low => ?_, fun high free => ?_⟩⟩
    · have state : (s.contract l).state = .active ∨ (s.contract l).state = .powering := waits.symm.imp_left And.left
      have row := commands state
      rw [State.recallCause_of_waiting (s := s.acting) (waits.imp_right fun ⟨active, out⟩ => ⟨active, supply, out⟩), asks] at row
      change exec _ s = gives (s.acting.onContract l _) .ok at row
      refine row.trans (congrArg (fun u : State => gives u .ok) (State.onContract_congr (l := l) (s := s.acting) ?_))
      exact congrArg (fun target => { s.contract l with target := some target }) (mergeTarget_eq ..)
    · have row := commands (.inl active)
      rw [State.recallCause_of_agreed (s := s.acting) active supply none agreement, asks, if_neg (Nat.not_lt.mpr low)] at row
      exact row
    · have row := commands (.inl active)
      rw [State.recallCause_of_agreed (s := s.acting) active supply none agreement, asks, if_pos high] at row
      obtain ⟨room, idle, waiting⟩ := free
      have record := State.sendRecall_contract (s := s.acting) (l := l) idle waiting level .controller
      have side := State.sendRecall_engine (s := s.acting) (l := l) idle waiting level .controller
      have link : (s.acting.sendRecall l level .controller).link = s.acting.link := by rw [(s.acting.sendRecall_slot l level _).1]
      refine ⟨_, row, ?_, ?_, Handed.of_engine side room, congrArg (· ++ [_]) ((congrArg LinkUnit.responses link).trans s.acting_responses),
        linesDoNotInterfere (.recallRequest (r 8)) l s _ rfl row⟩
      · refine (congrArg Contract.recallOut record).trans ?_
        have room' : (s.acting.engine l).accepts = true := room
        simp only [room', if_true]
      · exact (congrArg Contract.agreement record).trans agreement

end Sys2Proof.Machine
end

section
/-! SUPPORT. Proofs for the other line control actions (R17, R34, R53, R58, R59, R63, R84, R152). -/

namespace Sys2Proof.Machine

/-! ### MUTE: the frames of the queue reported (R17, R34) -/

section Mute
variable {α β : Type} {g : β → α → β} {b r : β} {xs : List α}

/-- A fold each of whose steps leaves the value. -/
theorem foldl_of_still (still : ∀ x ∈ xs, g b x = b) : xs.foldl g b = b := by
  induction xs with
  | nil => rfl
  | cons x xs ih =>
    rw [List.foldl_cons, still x List.mem_cons_self]
    exact ih fun y mem => still y (List.mem_cons_of_mem x mem)

/-- A fold one of whose steps reaches a value that every step leaves, the steps before it leaving the first. -/
theorem foldl_of_reached (steps : ∀ x ∈ xs, g b x = b ∨ g b x = r) (still : ∀ x ∈ xs, g r x = r)
    (reached : ∃ x ∈ xs, g b x = r) : xs.foldl g b = r := by
  induction xs with
  | nil =>
    obtain ⟨x, mem, -⟩ := reached
    exact nomatch mem
  | cons x xs ih =>
    have rest : ∀ y ∈ xs, g r y = r := fun y mem => still y (List.mem_cons_of_mem x mem)
    rw [List.foldl_cons]
    obtain stays | reaches := steps x List.mem_cons_self
    · rw [stays]
      obtain ⟨y, mem, reaches⟩ := reached
      obtain rfl | mem := List.mem_cons.1 mem
      · obtain rfl : b = r := stays.symm.trans reaches
        exact foldl_of_still rest
      · exact ih (fun z mem => steps z (List.mem_cons_of_mem x mem)) rest ⟨y, mem, reaches⟩
    · rw [reaches]
      exact foldl_of_still rest

variable {s : State} {l : Line}

/-- R17: the line's transmit side, muted, its queue empty. -/
def State.muted (s : State) (l : Line) : State :=
  s.onEngine l fun e =>
    { e with
      muted := true, txQueue := [], txSide := .idle, txLevels := [], txIndex := 0, txSends := 0, watchdog := none
      drain := e.drain.map fun n => n - e.txQueue.length }

theorem State.mute_eq : s.mute l = ((s.engine l).txQueue).foldl (fun t f => t.reported l f.id) (s.muted l) := rfl

/-- R34: the record as the report of its outstanding request leaves it. -/
def Contract.timed (c : Contract) (due now : Time) : Contract :=
  match c.exchange with
  | none => c
  | some x =>
      (if x.kind.answerTimed then { c with exchange := some { x with timer := some due, reportedAt := some now } }
        else c).noteReport x.kind now

theorem State.startTimer_eq : s.startTimer l = s.onContract l fun c => c.timed (s.answerDue l) s.now := rfl

theorem Contract.timed_keeps (c : Contract) (due now : Time) : (c.timed due now).timers.slowFrame = c.timers.slowFrame ∧
    (c.timed due now).exchange.map Exchange.frameId = c.exchange.map Exchange.frameId ∧ (c.timed due now).options = c.options := by
  unfold Contract.timed
  cases outstanding : c.exchange with
  | none => simp [outstanding]
  | some x =>
    cases kind : x.kind with
    | announce =>
      by_cases slow : c.state = .baseline ∧ c.unmanaged = true <;>
        simp [Contract.noteReport, ReqKind.answerTimed, slow, kind]
    | _ => simp [Contract.noteReport, ReqKind.answerTimed, outstanding, kind]

/-- R34: a second report of the same frame starts the same. -/
theorem Contract.timed_again (c : Contract) (due now : Time) : (c.timed due now).timed due now = c.timed due now := by
  unfold Contract.timed
  cases outstanding : c.exchange with
  | none => simp [outstanding]
  | some x =>
    cases kind : x.kind with
    | announce =>
      by_cases slow : c.state = .baseline ∧ c.unmanaged = true <;>
        simp [Contract.noteReport, ReqKind.answerTimed, slow, kind]
    | claim | claimGranted | renew => simp [Contract.noteReport, ReqKind.answerTimed, outstanding, kind]
    -- a RECALL, whose name is a keyword of Lean and so cannot stand here
    | _ => cases out : c.recallOut <;> simp [Contract.noteReport, ReqKind.answerTimed, outstanding, kind, out]

theorem State.startTimer_again : (s.startTimer l).startTimer l = s.startTimer l := by
  have due : (s.startTimer l).answerDue l = s.answerDue l := by
    simp only [State.answerDue, State.startTimer_eq, State.onContract_contract_self, (Contract.timed_keeps _ _ _).2.2]
    rfl
  rw [State.startTimer_eq (s := s.startTimer l), due]
  refine State.onContract_eq_self ?_
  rw [State.startTimer_eq, State.onContract_contract_self]
  exact Contract.timed_again ..

/-- R17, R34: a MUTE whose queue holds no frame of the outstanding request. -/
theorem State.mute_of_other (other : ∀ x, (s.contract l).exchange = some x → ∀ f ∈ (s.engine l).txQueue, f.id ≠ x.frameId) :
    ((∀ f ∈ (s.engine l).txQueue, (s.contract l).timers.slowFrame ≠ some f.id) → s.mute l = s.muted l) ∧
      ((∃ f ∈ (s.engine l).txQueue, (s.contract l).timers.slowFrame = some f.id) → s.mute l = (s.muted l).onContract l fun c =>
        { c with timers := { c.timers with slowFrame := none, slowRegreeting := some (s.now + 5000) } }) := by
  have report : ∀ (t : State), (t.contract l).exchange = (s.contract l).exchange → ∀ f ∈ (s.engine l).txQueue,
      t.reported l f.id = t.slowReport l f.id := fun t same f mem =>
    State.reported_of_other fun x outstanding eq => other x (same ▸ outstanding) f mem eq.symm
  refine ⟨fun none => ?_, fun ⟨f, mem, slow⟩ => ?_⟩
  · rw [State.mute_eq]
    exact foldl_of_still fun f mem => (report (s.muted l) rfl f mem).trans (State.slowReport_of_other (none f mem))
  · rw [State.mute_eq]
    refine foldl_of_reached (fun g mem => ?_) (fun g mem => ?_) ⟨f, mem, (report (s.muted l) rfl f mem).trans (if_pos slow)⟩
    · rw [report (s.muted l) rfl g mem]
      by_cases same : (s.contract l).timers.slowFrame = some g.id
      · exact .inr (if_pos same)
      · exact .inl (if_neg same)
    · rw [report _ (by rw [State.onContract_contract_self]; rfl) g mem]
      exact State.slowReport_of_other (by rw [State.onContract_contract_self]; exact fun none => nomatch none)

/-- R17, R34: a MUTE whose queue holds a frame of the outstanding request. -/
theorem State.mute_of_own {x : Exchange} (fast : (s.contract l).timers.slowFrame = none)
    (outstanding : (s.contract l).exchange = some x) (own : ∃ f ∈ (s.engine l).txQueue, f.id = x.frameId) :
    s.mute l = (s.muted l).startTimer l := by
  have report : ∀ (t : State), (t.contract l).timers.slowFrame = none →
      (t.contract l).exchange.map Exchange.frameId = some x.frameId → ∀ id,
      (x.frameId = id → t.reported l id = t.startTimer l) ∧ (x.frameId ≠ id → t.reported l id = t) := fun t none frame id => by
    obtain ⟨y, found, same⟩ := Option.map_eq_some_iff.1 frame
    refine ⟨fun eq => ?_, fun ne => ?_⟩
    · rw [← eq, ← same]
      exact State.reported_of_own found
    · rw [State.reported_of_other fun z at_ eq => ne (by rw [← same, Option.some.inj (found.symm.trans at_), eq])]
      exact State.slowReport_of_other (by rw [none]; exact fun eq => nomatch eq)
  have start := report (s.muted l) fast (congrArg (Option.map Exchange.frameId) outstanding)
  have started := report ((s.muted l).startTimer l)
    (by rw [State.startTimer_eq, State.onContract_contract_self]; exact (Contract.timed_keeps ..).1.trans fast)
    (by
      rw [State.startTimer_eq, State.onContract_contract_self]
      exact (Contract.timed_keeps ..).2.1.trans (congrArg (Option.map Exchange.frameId) outstanding))
  obtain ⟨f, mem, eq⟩ := own
  rw [State.mute_eq]
  refine foldl_of_reached (fun g _ => ?_) (fun g _ => ?_) ⟨f, mem, (start f.id).1 eq.symm⟩
  · by_cases same : x.frameId = g.id
    · exact .inr ((start g.id).1 same)
    · exact .inl ((start g.id).2 same)
  · by_cases same : x.frameId = g.id
    · exact ((started g.id).1 same).trans State.startTimer_again
    · exact (started g.id).2 same

end Mute

/-! ### The other actions (R53, R58, R59, R84) -/

section Actions
variable {s : State} {l : Line}

/-- R59, R63: what PAUSE, RELEASE and END do. -/
def pauseLine (l : Line) (t : State) : Reply :=
  if (t.contract l).state = .detached then t.answer .wrongState
  else (t.onContract l fun c => { c with paused := true }).answer .ok

def releasing (l : Line) (t : State) : Reply :=
  if (t.contract l).state = .detached then t.answer .wrongState else (t.releaseLine l).answer .ok

def endingLine (l : Line) (t : State) : Reply :=
  if (t.contract l).state.contracted then ((t.endToGreeting l .normal .endedByController).endEvent l).answer .ok
  else t.answer .wrongState

/-- R58, R63: what RESTART does. -/
def restarting (l : Line) (t : State) : Reply :=
  match (t.contract l).state with
  | .greeting => (t.restartLine l).answer .ok
  | .blocked => if t.straps.get l = .disabled then t.answer .refusedStrap else (t.restartLine l).answer .ok
  | .faulted => if (t.captures.get l).held then t.answer .held else (t.restartLine l).answer .ok
  | _ => t.answer .wrongState

theorem execPause_eq (r : Req) (s : State) : exec (.pause r) s = s.lineControl 0x01 r pauseLine := rfl
theorem execRelease_eq (r : Req) (s : State) : exec (.release r) s = s.lineControl 0x02 r releasing := rfl
theorem execEndLine_eq (r : Req) (s : State) : exec (.endLine r) s = s.lineControl 0x05 r endingLine := rfl
theorem execRestart_eq (r : Req) (s : State) : exec (.restart r) s = s.lineControl 0x06 r restarting := rfl

theorem restarting_of_wrong (state : (s.contract l).state = .detached ∨ (s.contract l).state.contracted = true) :
    restarting l s = s.answer .wrongState := by
  unfold restarting
  split <;> simp_all [CState.contracted]

theorem restarting_of_disabled (blocked : (s.contract l).state = .blocked) (disabled : s.straps.get l = .disabled) :
    restarting l s = s.answer .refusedStrap := by
  simp only [restarting, blocked]
  exact if_pos disabled

theorem restarting_of_held (faulted : (s.contract l).state = .faulted) (held : (s.captures.get l).held = true) :
    restarting l s = s.answer .held := by
  simp only [restarting, faulted]
  exact if_pos held

/-- R58: RESTART is taken in GREETING, and in BLOCKED and FAULTED unless the strap or a held capture forbids it. -/
theorem restarting_of_taken (taken : (s.contract l).state = .greeting ∨
    ((s.contract l).state = .blocked ∧ s.straps.get l ≠ .disabled) ∨
      ((s.contract l).state = .faulted ∧ (s.captures.get l).held = false)) :
    restarting l s = (s.restartLine l).answer .ok := by
  obtain greeting | ⟨blocked, enabled⟩ | ⟨faulted, free⟩ := taken
  · simp only [restarting, greeting]
  · simp only [restarting, blocked, if_neg enabled]
  · simp only [restarting, faulted, free, Bool.false_eq_true, if_false]

theorem State.releaseLine_of_unpaused (unpaused : (s.contract l).paused = false) : s.releaseLine l = s := by
  simp [State.releaseLine, unpaused]

theorem State.releaseLine_of_idle (paused : (s.contract l).paused = true)
    (idle : (s.contract l).deferred = false ∨ (s.contract l).state = .switching ∨ (s.contract l).state = .choosing) :
    s.releaseLine l = s.onContract l fun c => { c with paused := false } := by
  rw [State.releaseLine]
  dsimp only
  rw [if_pos paused]
  refine if_neg fun ⟨deferred, other, another⟩ => ?_
  obtain undeferred | state | state := idle
  · exact nomatch undeferred.symm.trans deferred
  · exact other state
  · exact another state

theorem State.releaseLine_of_deferred (paused : (s.contract l).paused = true) (deferred : (s.contract l).deferred = true)
    (switching : (s.contract l).state ≠ .switching) (choosing : (s.contract l).state ≠ .choosing) :
    s.releaseLine l = ((s.onContract l fun c => { c with paused := false }).reselect l none).endEvent l := by
  rw [State.releaseLine]
  dsimp only
  rw [if_pos paused, if_pos ⟨deferred, switching, choosing⟩]

/-- R58: the record that a RESTART leaves. -/
theorem State.restartLine_contract (s : State) (l : Line) : (s.restartLine l).contract l =
    if s.straps.get l = .disabled then (s.contract l).dropRequests.block
    else (s.contract l).dropRequests.greet (some (s.now + 50)) := by
  rw [State.restartLine]
  rw [State.endEvent_contract_self, State.onContract_contract_self]
  split <;> simp [Contract.block, Contract.greet, Contract.enter, roleOf, State.after]

theorem State.restartLine_slot (s : State) (l : Line) : let c := (s.restartLine l).contract l
    c.role = .none ∧ c.exchange = none ∧ c.displaced = [] ∧ c.waiting = none ∧ c.decision = none ∧
      c.lastOutcome = (s.contract l).lastOutcome := by
  intro c
  have record : c = _ := s.restartLine_contract l
  rw [record]
  split <;> exact ⟨rfl, rfl, rfl, rfl, rfl, rfl⟩

/-- R16, R52, R152: what a RESTART leaves beside its line's record. -/
theorem State.restartLine_leaves (s : State) (l : Line) : (s.restartLine l).verdictOf l = none ∧
    ((s.restartLine l).engine l).wdCount = 0 ∧ (s.restartLine l).strikes.get l = 0 ∧
    ((s.restartLine l).channel l).command = .opened ∧ (s.restartLine l).link.responses = s.link.responses := by
  have opens : ((s.restartLine l).contract l).path = .opened := by
    refine Contract.path_of_uncontracted ?_
    rw [s.restartLine_contract l]
    split <;> rfl
  refine ⟨?_, ?_, ?_, (State.endEvent_opened opens).1, ?_⟩
  · simp [State.restartLine]
  · simp [State.restartLine]
  · simp [State.restartLine]
  · simp [State.restartLine]

end Actions

/-- Settles O57: each action by its own case; RELEASE by the selection of the deferred MENU, MUTE by the reports of the frames. -/
theorem lineControlsAct : Obligations.LineControlsAct := by
  intro l s num a b takes r gives ok silent
  have pauses : ∀ {rep : Reply}, pauseLine l s.acting = rep → exec (.pause (r 1)) s = rep.sent (.line l) num 0x31 :=
    fun acts => State.lineControl_sent takes acts
  have releases : ∀ {rep : Reply}, releasing l s.acting = rep → exec (.release (r 2)) s = rep.sent (.line l) num 0x31 :=
    fun acts => State.lineControl_sent takes acts
  have mutes : ∀ {u : State}, s.acting.mute l = u → exec (.mute (r 3)) s = gives u .ok :=
    fun {u} acts => State.lineControl_sent (act := fun l t => (t.mute l).answer .ok) (rep := u.answer .ok) takes
      (congrArg (State.answer · .ok) acts)
  have ends : ∀ {rep : Reply}, endingLine l s.acting = rep → exec (.endLine (r 5)) s = rep.sent (.line l) num 0x31 :=
    fun acts => State.lineControl_sent takes acts
  have restarts : ∀ {rep : Reply}, restarting l s.acting = rep → exec (.restart (r 6)) s = rep.sent (.line l) num 0x31 :=
    fun acts => State.lineControl_sent takes acts
  refine ⟨fun detached => ?_, fun attached => ⟨?_, fun unpaused => ?_, fun paused idle => ?_, fun m paused deferred role switching
    choosing menu decides settled => ?_⟩, fun other => ⟨fun none => ?_, fun slow => ?_⟩, fun fast x outstanding own =>
    ⟨fun kind => ?_, fun kind state unmanaged => ?_, fun kind => ?_, fun ro kind out => ?_⟩, ?_, fun free => ?_,
    fun contracted settled room => ?_, fun contracted => ?_, fun blocked disabled => ?_, fun faulted held => ?_, fun settled => ?_⟩
  · have wrong : (s.acting.contract l).state = .detached := detached
    have uncontracted : ¬(s.acting.contract l).state.contracted = true := by
      rw [wrong]
      exact Bool.false_ne_true
    simp only [List.forall_mem_cons]
    exact ⟨pauses (if_pos wrong), releases (if_pos wrong), ends (if_neg uncontracted), restarts (restarting_of_wrong (.inl wrong)),
      fun _ none => nomatch none⟩
  · exact pauses (if_neg (show ¬(s.acting.contract l).state = .detached from attached))
  · have row := releases (if_neg (show ¬(s.acting.contract l).state = .detached from attached))
    rwa [State.releaseLine_of_unpaused (s := s.acting) unpaused] at row
  · have row := releases (if_neg (show ¬(s.acting.contract l).state = .detached from attached))
    rwa [State.releaseLine_of_idle (s := s.acting) paused idle] at row
  · intro marks
    have row := releases (if_neg (show ¬(s.acting.contract l).state = .detached from attached))
    rw [State.releaseLine_of_deferred (s := s.acting) paused deferred switching choosing] at row
    have released : (s.acting.onContract l fun c => { c with paused := false }).contract l = { s.contract l with paused := false } :=
      State.onContract_contract_self ..
    have table : SameTable s (s.acting.onContract l fun c => { c with paused := false }) :=
      (SameTable.acting s).trans ⟨fun _ => rfl, rfl⟩
    have base : ClaimBase l s (s.acting.onContract l fun c => { c with paused := false }) := by
      refine ⟨rfl, ?_, ?_, ?_, ?_, ?_, ?_, rfl⟩ <;> rw [released]
    have candidates : ∀ marks, (s.acting.onContract l fun c => { c with paused := false }).firstClaim l marks =
        s.firstClaim l marks := State.firstClaim_congr (by rw [released]) (by rw [released]) rfl rfl
    have responses : (s.acting.onContract l fun c => { c with paused := false }).link.responses = s.link.responses :=
      s.acting_responses
    generalize (s.acting.onContract l fun c => { c with paused := false }) = u at *
    have same := table.markOf (l := l) (by rw [released]) (by rw [released])
    obtain ⟨ended, kept⟩ := State.reselect_ended (s := u) (l := l) (m := m) (by rw [released]; exact role)
      (by rw [released]; exact menu) (by rw [released]) fun i p found => by
        rw [(same i p).1]
        exact decides i p found
    rw [show u.markOf l = s.markOf l from funext₂ fun i p => (same i p).2] at ended
    obtain ⟨undeferred, -, -, unpaused, -⟩ := ended.record
    refine ⟨_, row, unpaused.trans (by rw [released]), undeferred, ended.menu, fun k f first => ?_, fun none => ?_,
      congrArg (· ++ [_]) (kept.responses.trans responses), linesDoNotInterfere (.release (r 2)) l s _ rfl row⟩
    · exact ((ended.claims k f ((candidates _).trans first)).1.of_base base).later rfl rfl rfl
    · obtain ⟨baseline, -, outcome, -, -, -, handed, -⟩ := ended.ends ((candidates _).trans none)
      refine ⟨baseline, outcome, ?_⟩
      rw [base.tag] at handed
      exact handed.trans (by rw [base.engine])
  · exact mutes ((State.mute_of_other (s := s.acting) other).1 none)
  · exact mutes ((State.mute_of_other (s := s.acting) other).2 slow)
  · refine mutes ((State.mute_of_own (s := s.acting) fast outstanding own).trans ?_)
    obtain claim | renew | ⟨announce, other⟩ := kind
    · exact State.startTimer_of_answered (s := s.acting.muted l) outstanding (.inl claim)
    · exact State.startTimer_of_answered (s := s.acting.muted l) outstanding (.inr renew)
    · exact State.startTimer_of_announce (s := s.acting.muted l) outstanding announce other
  · exact mutes ((State.mute_of_own (s := s.acting) fast outstanding own).trans
      (State.startTimer_of_slow (s := s.acting.muted l) outstanding kind ⟨state, unmanaged⟩))
  · exact mutes ((State.mute_of_own (s := s.acting) fast outstanding own).trans
      (State.startTimer_of_granted (s := s.acting.muted l) outstanding kind))
  · exact mutes ((State.mute_of_own (s := s.acting) fast outstanding own).trans
      (State.startTimer_of_recall (s := s.acting.muted l) outstanding kind out))
  · exact State.lineControl_sent (act := fun l t => (t.onEngine l fun e => { e with muted := false }).answer .ok) takes rfl
  · exact ends (if_neg (show ¬(s.acting.contract l).state.contracted = true from ne_true_of_eq_false free))
  · have row := ends (if_pos (show (s.acting.contract l).state.contracted = true from contracted))
    have kept : LinkKept s.acting ((s.acting.endToGreeting l .normal .endedByController).endEvent l) :=
      (LinkKept.endToGreeting ..).trans (.endEvent ..)
    have closed := State.endToGreeting_closedTo (s := s) (u := s.acting) (l := l) rfl rfl .normal .endedByController
    refine ⟨_, row, closed.later rfl rfl rfl rfl fun _ _ told => told, ?_,
      Handed.of_engine (State.endToGreeting_engine_self s.acting l .normal .endedByController) room,
      congrArg (· ++ [_]) (kept.responses.trans s.acting_responses), linesDoNotInterfere (.endLine (r 5)) l s _ rfl row⟩
    refine (congrArg (fun c => c.timers.greetingDelay) (State.endEvent_contract_self ..)).trans ?_
    rw [State.endToGreeting_contract_self]
    rfl
  · exact restarts (restarting_of_wrong (.inr contracted))
  · exact restarts (restarting_of_disabled (s := s.acting) blocked disabled)
  · exact restarts (restarting_of_held (s := s.acting) faulted held)
  · intro restarted
    obtain ⟨role, exchange, displaced, waiting, decision, outcome⟩ := s.acting.restartLine_slot l
    obtain ⟨verdict, count, strikes, command, responses⟩ := s.acting.restartLine_leaves l
    have done : ∀ {t : State}, exec (.restart (r 6)) s = .next t → t = (s.acting.restartLine l).respond ⟨.line l, num, 0x31, .ok, []⟩ →
        restarted t := by
      rintro t row rfl
      exact ⟨role, exchange, displaced, waiting, decision, outcome, verdict, count, strikes, command,
        congrArg (· ++ [_]) (responses.trans s.acting_responses), linesDoNotInterfere (.restart (r 6)) l s _ rfl row⟩
    refine ⟨fun taken enabled => ?_, fun faulted free disabled => ?_⟩
    · have row := restarts (restarting_of_taken (s := s.acting) (l := l) (by
        obtain greeting | blocked | faulted := taken
        · exact .inl greeting
        · exact .inr (.inl ⟨blocked, enabled⟩)
        · exact .inr (.inr faulted)))
      have contract : (s.acting.restartLine l).contract l = _ := s.acting.restartLine_contract l
      rw [if_neg (show s.acting.straps.get l ≠ .disabled from enabled)] at contract
      exact ⟨_, row, done row rfl, congrArg Contract.state contract, congrArg Contract.greetingCount contract,
        congrArg Contract.greetingStopped contract, congrArg (fun c => c.timers.greetingDelay) contract⟩
    · have row := restarts (restarting_of_taken (s := s.acting) (l := l) (.inr (.inr ⟨faulted, free⟩)))
      have contract : (s.acting.restartLine l).contract l = _ := s.acting.restartLine_contract l
      rw [if_pos (show s.acting.straps.get l = .disabled from disabled)] at contract
      exact ⟨_, row, done row rfl, congrArg Contract.state contract⟩

end Sys2Proof.Machine
end

section
/-! SUPPORT. Proofs for the intake of a MENU (R32, R59, R66, R67, R71, R72, R73, R86, R109). -/

namespace Sys2Proof.Machine

/-! ### What suits a preference (R71) -/

theorem Preference.suits_eq_some (pr : Preference) (p : Point) (v : Nat) : pr.suits p = some v ↔
    (p.kind = .fixed ∧ pr.vMin ≤ p.v1 ∧ p.v1 ≤ pr.vMax ∧ v = p.v1) ∨
      (p.kind = .window ∧ p.v1 ≤ pr.vMax ∧ pr.vMin ≤ p.v2 ∧ v = min p.v2 pr.vMax) := by
  unfold Preference.suits
  cases p.kind <;> simp [eq_comm, and_assoc]

theorem Preference.claim_eq_some (pr : Preference) (p : Point) (i power : Nat) (f : ClaimFields) :
    pr.claim p i power = some f ↔ ∃ v, pr.suits p = some v ∧
      f = ⟨i, v, min 320 (power * 200 / v), min 320 (max 1 (pr.least * 200 / v))⟩ ∧
        pr.least ≤ power ∧ 1 ≤ f.claimed ∧ f.least ≤ f.claimed := by
  unfold Preference.claim
  cases suits : pr.suits p with
  | none => simp
  | some v =>
    simp only [Option.some.injEq, exists_eq_left', current]
    constructor
    · intro claims
      obtain ⟨holds, same⟩ := Option.ite_none_right_eq_some.1 claims
      obtain rfl := Option.some.inj same
      exact ⟨rfl, holds⟩
    · rintro ⟨rfl, least, one, fits⟩
      exact if_pos ⟨least, one, fits⟩

/-- R71: the claim of a filtered point under a preference. -/
theorem State.claimOf_eq_some (s : State) (l : Line) (marked : List FarPoint) (k : Cursor) (f : ClaimFields) :
    s.claimOf l marked k = some f ↔ ∃ pr p, s.prefs.toList[k.pref]? = some pr ∧ marked[k.point]? = some p ∧
      pr.enabled = true ∧ p.mark = .survives ∧
        pr.claim p.point k.point (min pr.wanted (min p.capacity (s.drawRoom l))) = some f := by
  unfold State.claimOf
  split
  · next pr p preference point =>
    simp only [preference, point, Option.some.injEq, exists_and_left, exists_eq_left', Option.ite_none_right_eq_some, and_assoc]
  · next absent =>
    constructor
    · exact fun none => nomatch none
    · rintro ⟨pr, p, preference, point, -⟩
      exact absurd point (absent pr p preference)

/-! ### The intake (R66) -/

section Intake
variable {s : State} {l : Line} {tag : Tag} {canRecall : Bool} {pts : List Point} {raw : List Byte} {mid : Option MidRequest}

/-- R66: the record with the MENU stored, before it is processed or deferred. -/
def Contract.storesMenu (c : Contract) (canRecall : Bool) (raw : List Byte) (pts : List Point) : Contract :=
  { c with
    farRecall := some canRecall
    farMenu := some ⟨raw, unmarked pts⟩
    timers := { c.timers with backoff := none } }

/-- R66: the state in which the MENU is stored: in CLAIMING the claim is abandoned. -/
def State.menuBase (s : State) (l : Line) : State := if (s.contract l).state = .claiming then s.abandonClaim l else s

def State.menuStored (s : State) (l : Line) (canRecall : Bool) (raw : List Byte) (pts : List Point) : State :=
  (s.menuBase l).onContract l fun c => c.storesMenu canRecall raw pts

theorem State.abandonClaim_contract (s : State) (l : Line) : (s.abandonClaim l).contract l = { s.contract l with
    exchange := (s.contract l).exchange.filter fun x => !(x.kind == .claim)
    waiting := (s.contract l).waiting.filter fun r => !(r.kind == .claim)
    displaced := (s.contract l).displaced.filter fun x => !(x.kind == .claim)
    lastOutcome := some .superseded
    claim := none } := by
  simp [State.abandonClaim, State.dropClaim]

theorem State.abandonClaim_leaves (s : State) (l : Line) : (s.abandonClaim l).engine l = s.engine l ∧
    s.SameSetup (s.abandonClaim l) ∧ s.SameRecords (s.abandonClaim l) ∧ s.SameButNotices (s.abandonClaim l) ∧
    (s.abandonClaim l).budget.drawCommit.get l =
      (((s.contract l).agreement.map fun a => a.voltage * a.current / 200).getD 0) := by
  refine ⟨?_, ?_, ?_, ?_, ?_⟩
  · simp [State.abandonClaim, State.dropClaim]
  · simp [State.abandonClaim, State.dropClaim, State.SameSetup]
  · simp [State.abandonClaim, State.dropClaim, State.SameRecords]
  · simp [State.abandonClaim, State.dropClaim, State.SameButNotices]
  · simp [State.abandonClaim, State.dropClaim, Contract.drawCommitment, power]

theorem State.menuBase_leaves (s : State) (l : Line) : (s.menuBase l).engine l = s.engine l ∧ s.SameSetup (s.menuBase l) ∧
    s.SameRecords (s.menuBase l) ∧ s.SameButNotices (s.menuBase l) := by
  unfold State.menuBase
  split
  · obtain ⟨engine, setup, records, link, -⟩ := s.abandonClaim_leaves l
    exact ⟨engine, setup, records, link⟩
  · exact ⟨rfl, ⟨rfl, rfl, rfl, rfl, rfl, rfl⟩, ⟨rfl, rfl, rfl⟩, rfl, rfl, rfl, rfl, rfl, rfl, rfl, rfl, rfl, rfl, fun _ => rfl⟩

/-- R66: the fields of the record that the abandoning of a claim leaves. -/
theorem State.menuBase_contract (s : State) (l : Line) : let c := (s.menuBase l).contract l
    c.state = (s.contract l).state ∧ c.role = (s.contract l).role ∧ c.far = (s.contract l).far ∧
      c.lineClamp = (s.contract l).lineClamp ∧ c.paused = (s.contract l).paused ∧ c.tagCounter = (s.contract l).tagCounter ∧
      c.agreement = (s.contract l).agreement ∧ c.options = (s.contract l).options ∧
      c.lastOutcome = if (s.contract l).state = .claiming then some .superseded else (s.contract l).lastOutcome := by
  intro c
  by_cases claiming : (s.contract l).state = .claiming
  · have base : c = (s.abandonClaim l).contract l := congrArg (State.contract · l) (if_pos claiming)
    rw [base, State.abandonClaim_contract, if_pos claiming]
    exact ⟨rfl, rfl, rfl, rfl, rfl, rfl, rfl, rfl, rfl⟩
  · have base : c = s.contract l := congrArg (State.contract · l) (if_neg claiming)
    rw [base, if_neg claiming]
    exact ⟨rfl, rfl, rfl, rfl, rfl, rfl, rfl, rfl, rfl⟩

/-- R35, R66: the states whose MENU is processed are of a drawing line. -/
theorem Contract.drawing_of_processes {c : Contract} (role : roleOf c.state c.role = c.role)
    (processes : c.state = .awaitMenu ∨ c.state = .claiming ∨ c.state = .backoff ∨ c.state = .baseline ∨
      (c.state = .active ∧ c.role = .draw)) : c.drawing = true ∧ c.role = .draw ∧ c.state ≠ .switching := by
  obtain state | state | state | state | ⟨state, draw⟩ := processes
  case inr.inr.inr.inr => exact ⟨by simp [Contract.drawing, state, draw], draw, by rw [state]; exact fun same => nomatch same⟩
  all_goals
    rw [state] at role
    exact ⟨by simp [Contract.drawing, state], role.symm, by rw [state]; exact fun same => nomatch same⟩

theorem State.menuStored_contract (s : State) (l : Line) (canRecall : Bool) (raw : List Byte) (pts : List Point) :
    (s.menuStored l canRecall raw pts).contract l = ((s.menuBase l).contract l).storesMenu canRecall raw pts :=
  State.onContract_contract_self ..

/-- R66, R86: a MENU taken on a drawing line is stored, and deferred in SWITCHING and while the line is paused. -/
theorem takeMenu_of_drawing (free : (s.contract l).decision = none) (drawing : (s.contract l).drawing = true) :
    takeMenu l mid ⟨tag, .menu canRecall pts⟩ raw s =
      if (s.contract l).state = .switching then
        (s.menuStored l canRecall raw pts).onContract l fun c => { c with cursor := ⟨0, 0⟩, deferred := true }
      else if (s.contract l).paused then
        (s.menuStored l canRecall raw pts).onContract l fun c => { c with cursor := ⟨0, 0⟩, waitStreak := 0, deferred := true }
      else (s.menuStored l canRecall raw pts).processMenu l mid := by
  obtain ⟨state, -, -, -, paused, -⟩ := s.menuBase_contract l
  have record := s.menuStored_contract l canRecall raw pts
  have state' : ((s.menuStored l canRecall raw pts).contract l).state = (s.contract l).state := by
    rw [record]
    exact state
  have paused' : ((s.menuStored l canRecall raw pts).contract l).paused = (s.contract l).paused := by
    rw [record]
    exact paused
  rw [← state', ← paused']
  simp only [takeMenu, State.supersede_of_none free, drawing, if_true]
  rfl

/-- R66 to R72, R109: the processing of an arriving MENU of which no point is forwarded, a request perhaps between two of its queries. -/
theorem State.menuStored_selects {u : State} {marks : List FarPoint}
    (queried : Queried ((s.menuStored l canRecall raw pts).onContract l Contract.beginMenu) u)
    (filtered : State.filter l mid ((s.menuStored l canRecall raw pts).onContract l Contract.beginMenu) 0 (unmarked pts) =
      (u, marks, none)) :
    let t := ((s.menuStored l canRecall raw pts).processMenu l mid).endEvent l
    (t.contract l).farRecall = some canRecall ∧ SelectionEnded l (s.menuStored l canRecall raw pts) t raw marks ∧ LinkKept u t ∧
      t.rules = u.rules := by
  intro t
  have record := s.menuStored_contract l canRecall raw pts
  have points : (unmarked pts).map FarPoint.point = pts := by
    rw [unmarked, List.map_map]
    exact List.map_id pts
  obtain ⟨ended, kept, rules⟩ := State.processMenu_ended (s := s.menuStored l canRecall raw pts) (l := l) (mid := mid)
    (m := ⟨raw, unmarked pts⟩) (marks := marks) (by rw [record]; rfl) queried (by rw [points]; exact filtered)
  refine ⟨?_, ended, kept, rules⟩
  rw [ended.record.2.2.1, record]
  rfl

theorem State.menuBase_arrived (s : State) (l : Line) : (s.arrived l).menuBase l =
    if (s.contract l).state = .claiming then (s.arrived l).abandonClaim l else s.arrived l := by
  simp only [State.menuBase, State.arrived_contract_self]

/-- R71 to R73: what the selection of an arriving MENU leaves, read from the state in which the claim has been abandoned. -/
theorem State.menuBase_selected {t : State} {marks : List FarPoint}
    (ended : SelectionEnded l ((s.arrived l).menuStored l canRecall raw pts) t raw marks) (role : (s.contract l).role = .draw) :
    let b := (s.arrived l).menuBase l
    let c := s.contract l
    (∀ k f, b.firstClaim l marks = some (k, f) → ClaimSent l b t k f ∧
        (t.contract l).lastOutcome = if c.state = .claiming then some .superseded else c.lastOutcome) ∧
      (b.firstClaim l marks = none → (t.contract l).state = .baseline ∧ (t.contract l).role = .draw ∧
        (t.contract l).lastOutcome = some .noSuitablePoint ∧ (t.contract l).agreement = none ∧
        (t.contract l).claim = none ∧ t.budget.drawCommit.get l = 0 ∧
        HandedOrDropped l s t ⟨c.tagCounter, .ending .noSuitablePoint⟩ ∧
        t.Told l s.now (.ended .draw .baseline (some .noSuitablePoint))) := by
  intro b c
  obtain ⟨engine, setup, -, -⟩ := (s.arrived l).menuBase_leaves l
  obtain ⟨-, held, -, -, -, tag, -, -, outcome⟩ := (s.arrived l).menuBase_contract l
  rw [State.arrived_contract_self] at held tag outcome
  have record := (s.arrived l).menuStored_contract l canRecall raw pts
  have base : ClaimBase l b ((s.arrived l).menuStored l canRecall raw pts) := by
    refine ⟨rfl, ?_, ?_, ?_, ?_, ?_, ?_, rfl⟩ <;> rw [record] <;> rfl
  have candidates : ((s.arrived l).menuStored l canRecall raw pts).firstClaim l marks = b.firstClaim l marks :=
    State.firstClaim_congr (s := b) (v := (s.arrived l).menuStored l canRecall raw pts) (by rw [record]; rfl)
      (by rw [record]; rfl) rfl rfl marks
  have now : ((s.arrived l).menuStored l canRecall raw pts).now = s.now := setup.2.1
  refine ⟨fun k f first => ?_, fun none => ?_⟩
  · obtain ⟨sent, after⟩ := ended.claims k f (candidates.trans first)
    refine ⟨sent.of_base base, after.trans ?_⟩
    rw [record]
    exact outcome
  · obtain ⟨baseline, draw, after, agreement, claim, commit, handed, told⟩ := ended.ends (candidates.trans none)
    refine ⟨baseline, draw, after, agreement, claim, commit, ?_, ?_⟩
    · rw [record] at handed
      obtain ⟨queue, nextId, accepts, -⟩ := s.arrived_engine_self l
      have side : ((s.arrived l).menuStored l canRecall raw pts).engine l = (s.arrived l).engine l := engine
      rw [HandedOrDropped, side, queue, nextId, accepts] at handed
      refine handed.trans ?_
      exact congrArg (fun tag => (s.engine l).txQueue ++ if (s.engine l).accepts then
        [⟨(s.engine l).nextId, (Frame.mk tag (.ending .noSuitablePoint)).chars, 0⟩] else []) tag
    · rw [record, now] at told
      have draws : ((((s.arrived l).menuBase l).contract l).storesMenu canRecall raw pts).role = .draw := held.trans role
      rw [draws] at told
      exact told (fun none => nomatch none)

/-- R109: a filtering that the request of another state falls within, whose table and receiver are the same. -/
theorem State.filter_unmarked_of_row {s0 u : State} {n : Nat} {kind : MidKind} {r : Req} (alike : AlikeTable s s0)
    (far : (s0.contract l).far = (s.contract l).far) (clamp : (s0.contract l).lineClamp = (s.contract l).lineClamp)
    (before : n < pts.length) (row : exec (kind.row r) s = .next u) (decides : s.NoForwardUpTo u l n pts) :
    ∃ t, Queried s0 t ∧ Answered kind u t ∧
      State.filter l (some ⟨l, n, kind, r⟩) s0 0 (unmarked pts) = (t, s.marksUpTo u l n pts, none) := by
  have asked : u = s.request (midCode kind) r (midAct kind r) :=
    (Host.Outcome.next.inj ((exec_midRow kind r s).symm.trans row)).symm
  have answered := asked ▸ State.midRequest_answered alike kind r
  have here := alike.table.markOf (l := l) far clamp
  have record : (s0.request (midCode kind) r (midAct kind r)).contract l = s0.contract l := ((s0.request_queried kind r).line l).1
  have record' : u.contract l = s.contract l := by rw [asked, ((s.request_queried kind r).line l).1]
  have there := answered.table.markOf (l := l) (by rw [record, far, record']) (by rw [record, clamp, record'])
  obtain ⟨t, queried, after, filtered⟩ := State.filter_unmarked_of_request (s := s0) (l := l) before (exec_midRow kind r s0)
    fun i p found => by
      have ends := decides i p found
      split at ends
      · next early => rwa [if_pos early, (here i p).1]
      · next late => rwa [if_neg late, (there i p).1]
  refine ⟨t, queried, ⟨answered.table.trans after.table, after.receiver.trans answered.receiver,
    after.length.trans answered.length, fun other => (after.responses other).trans (answered.responses other)⟩, ?_⟩
  rw [filtered]
  refine congrArg (fun marks => (t, marks, none)) (congrArg (List.mapIdx · pts) (funext₂ fun i p => ?_))
  rw [(here i p).2, (there i p).2]

/-- R66: the table, the receiver and the far fields as the filtering of an arriving MENU begins. -/
theorem State.menuStored_alike (s : State) (l : Line) (canRecall : Bool) (raw : List Byte) (pts : List Point) :
    let s0 := ((s.arrived l).menuStored l canRecall raw pts).onContract l Contract.beginMenu
    AlikeTable s s0 ∧ (s0.contract l).far = (s.contract l).far ∧ (s0.contract l).lineClamp = (s.contract l).lineClamp := by
  intro s0
  obtain ⟨-, -, ⟨rules, -⟩, receiver, responses, -, -, -, -, stance, -⟩ := (s.arrived l).menuBase_leaves l
  obtain ⟨-, -, far, clamp, -⟩ := (s.arrived l).menuBase_contract l
  have record : s0.contract l = (((s.arrived l).menuStored l canRecall raw pts).contract l).beginMenu :=
    State.onContract_contract_self ..
  rw [State.arrived_contract_self] at far clamp
  rw [record, State.menuStored_contract]
  refine ⟨⟨⟨fun i => ?_, stance⟩, receiver, responses⟩, far, clamp⟩
  rw [show s0.rules = s.rules from rules]

theorem Still.menuBase (s : State) (l : Line) : Still l s (s.menuBase l) := by
  unfold State.menuBase
  split
  · exact ((((Still.refl l s).onContract l _).onContract l _).setBudget _).reallocate
  · exact .refl l s

/-- R66: an arriving MENU that is processed at once. -/
theorem execMenuReceived_of_processing (arrives : s.Arrives l ⟨tag, .menu canRecall pts⟩) (free : (s.contract l).decision = none)
    (drawing : (s.contract l).drawing = true) (elsewhere : (s.contract l).state ≠ .switching)
    (unpaused : (s.contract l).paused = false) (mid : Option MidRequest) : exec (.menuReceived ⟨l, mid⟩) s =
      .next ((((s.arrived l).menuStored l canRecall (s.engine l).rxChars.dropLast pts).processMenu l mid).endEvent l) := by
  refine congrArg Host.Outcome.next ((State.deliver_of_arrives (kind := .menu) arrives rfl (takeMenu l mid)).trans
    (congrArg (State.endEvent · l) ?_))
  have record := s.arrived_contract_self l
  rw [takeMenu_of_drawing (by rw [record]; exact free) (by rw [record]; exact drawing), record]
  exact (if_neg elsewhere).trans (if_neg (ne_true_of_eq_false unpaused))

/-- R66 to R68: the marks of an arriving MENU are those of the state before it. -/
theorem State.menuStored_filtered (decides : s.NoForward l pts) (canRecall : Bool) (raw : List Byte) :
    let s0 := ((s.arrived l).menuStored l canRecall raw pts).onContract l Contract.beginMenu
    ∃ u, Judged s0 u ∧ State.filter l none s0 0 (unmarked pts) = (u, pts.mapIdx (s.markOf l), none) := by
  intro s0
  obtain ⟨alike, far, clamp⟩ := s.menuStored_alike l canRecall raw pts
  have same := alike.table.markOf far clamp
  obtain ⟨u, judged, filtered⟩ := State.filter_unmarked (pts := pts) (l := l) (s := s0) fun i p found => by
    rw [(same i p).1]
    exact decides i p found
  rw [show s0.markOf l = s.markOf l from funext₂ fun i p => (same i p).2] at filtered
  exact ⟨u, judged, filtered⟩

end Intake

/-- Settles O35: the selection by its candidates, and the intake by the filtering of the stored MENU. -/
theorem menuLeadsToTheFirstClaim : Obligations.MenuLeadsToTheFirstClaim := by
  refine ⟨Preference.suits_eq_some, fun p => ⟨fun fixed => ?_, fun window => ?_⟩, fun _ _ => ⟨rfl, rfl⟩, fun s l marked k f => ?_,
    fun s l marked => ⟨(s.firstClaim_iff marked).1, (s.firstClaim_iff marked).2, s.candidate_eq⟩,
    fun l s tag canRecall pts arrives free settled => ?_⟩
  · rw [Point.rawCapacity, fixed]
    rfl
  · rw [Point.rawCapacity, window]
  · simp only [State.claimOf_eq_some, Preference.claim_eq_some]
    constructor
    · rintro ⟨pr, p, preference, point, enabled, survives, v, suits, fields⟩
      exact ⟨pr, p, v, preference, enabled, point, survives, suits, fields⟩
    · rintro ⟨pr, p, v, preference, enabled, point, survives, suits, fields⟩
      exact ⟨pr, p, preference, point, enabled, survives, v, suits, fields⟩
  · intro c raw processes left outcome stored selects
    have free' : ((s.arrived l).contract l).decision = none := by simpa using free
    have base : (s.arrived l).menuBase l = left := s.menuBase_arrived l
    have drawing : processes → c.drawing = true ∧ c.role = .draw ∧ c.state ≠ .switching :=
      Contract.drawing_of_processes settled.2.2
    have processing : processes → c.paused = false → ∀ mid, exec (.menuReceived ⟨l, mid⟩) s =
        .next ((((s.arrived l).menuStored l canRecall raw pts).processMenu l mid).endEvent l) := fun taken unpaused =>
      execMenuReceived_of_processing arrives free (drawing taken).1 (drawing taken).2.2 unpaused
    have taken_selects : ∀ {t marks}, c.role = .draw → (t.contract l).farRecall = some canRecall →
        SelectionEnded l ((s.arrived l).menuStored l canRecall raw pts) t raw marks → selects t marks := fun role recalls ended => by
      obtain ⟨claims, ends⟩ := State.menuBase_selected ended role
      rw [base] at claims ends
      exact ⟨ended.menu, recalls, ended.record.1, ended.record.2.1, claims, ends⟩
    obtain ⟨alike, far, clamp⟩ := s.menuStored_alike l canRecall raw pts
    refine ⟨fun taken unpaused => ⟨fun decides => ?_, fun n kind q u after before row decides => ?_⟩, fun taken paused => ?_,
      fun switching => ?_, fun claiming idle waits => ?_⟩
    · have row := processing taken unpaused none
      obtain ⟨u, judged, filtered⟩ := State.menuStored_filtered decides canRecall raw
      obtain ⟨recalls, ended, -⟩ := State.menuStored_selects judged.queried filtered
      exact ⟨_, row, taken_selects (drawing taken).2.1 recalls ended, linesDoNotInterfere (.menuReceived ⟨l, none⟩) l s _ rfl row⟩
    · obtain ⟨w, queried, answered, filtered⟩ := State.filter_unmarked_of_row alike far clamp before row decides
      obtain ⟨recalls, ended, kept, rules⟩ := State.menuStored_selects queried filtered
      refine ⟨_, processing taken unpaused _, taken_selects (drawing taken).2.1 recalls ended, ?_, fun other => ?_, ?_, ?_, fun i => ?_⟩
      · rw [kept.responses, answered.length]
      · rw [kept.responses, answered.responses other]
      · rw [kept.receiver, answered.receiver]
      · rw [kept.stance, answered.table.stance]
      · rw [rules]
        exact answered.table.rules i
    · have elsewhere : ((s.arrived l).contract l).state ≠ .switching := by simpa using (drawing taken).2.2
      have paused' : ((s.arrived l).contract l).paused = true := by simpa using paused
      refine congrArg Host.Outcome.next (State.deliver_of_still settled arrives rfl
        ((takeMenu_of_drawing free' (by rw [State.arrived_contract_self]; exact (drawing taken).1)).trans ?_) ?_)
      · rw [if_neg elsewhere, if_pos paused', State.menuStored, State.onContract_onContract, base]
        rfl
      · rw [← base]
        exact (Still.menuBase ..).onContract l _
    · have here : ((s.arrived l).contract l).state = .switching := by simpa using switching
      have unclaimed : (s.arrived l).menuBase l = s.arrived l := if_neg (by rw [here]; exact fun claiming => nomatch claiming)
      refine congrArg Host.Outcome.next (State.deliver_of_still settled arrives rfl
        ((takeMenu_of_drawing free' (by rw [Contract.drawing, here])).trans ?_) ((Still.refl ..).onContract l _))
      rw [if_pos here, State.menuStored, unclaimed, State.onContract_onContract]
      rfl
    · have abandoned : left = (s.arrived l).abandonClaim l := if_pos claiming
      obtain ⟨-, -, -, -, commit⟩ := (s.arrived l).abandonClaim_leaves l
      rw [abandoned, commit, State.abandonClaim_contract, State.arrived_contract_self]
      refine ⟨?_, ?_, rfl, rfl, rfl⟩
      · refine Option.filter_eq_none_iff.2 fun x outstanding => ?_
        simp [idle x outstanding]
      · change (s.contract l).waiting.filter _ = none
        rw [show (s.contract l).waiting = none from waits]
        rfl

end Sys2Proof.Machine
end

section
/-! SUPPORT. Proofs for a query answered FORWARD (R37, R49, R59, R66, R67, R68, R69, R81, R94, R116, R162, R163). -/

namespace Sys2Proof.Machine

/-! ### A decision held and its verdict entry opened (R162, R163) -/

section Held
variable {s u : State} {l : Line} {what : Forwarded} {tag : Tag} {began : CState} {kind : QueryKind} {a : Answer}
  {relays : List (List Byte)}

/-- R163: the far request held, and its verdict entry opened. -/
def State.held (u : State) (l : Line) (what : Forwarded) (tag : Tag) (began : CState) (kind : QueryKind) (a : Answer)
    (relays : List (List Byte)) : State := (u.holdDecision l what tag began).openVerdict l kind a relays

theorem State.held_leaves (judged : Judged s u) :
    (u.held l what tag began kind a relays).contract l =
        { s.contract l with decision := some ⟨what, tag, s.now, began⟩ } ∧
      (u.held l what tag began kind a relays).engine l = s.engine l ∧
      (u.held l what tag began kind a relays).channel l = s.channel l ∧
      (u.held l what tag began kind a relays).budget = s.budget ∧
      (u.held l what tag began kind a relays).link.verdicts = (s.link.verdicts.filter fun v => !(v.line == l)) ++
        [⟨s.link.verdictTag, l, kind, a.rule, a.fallback, a.clamp, s.now + 20, relays⟩] ∧
      (u.held l what tag began kind a relays).link.verdictTag = s.link.verdictTag + 1 := by
  obtain ⟨contract, engine, channel, budget, -, now⟩ := judged.queried.line l
  obtain ⟨-, -, verdicts, -, -, -, -, -, counter, -⟩ := judged.link
  refine ⟨?_, engine, channel, budget, ?_, congrArg (· + 1) counter⟩
  · change (u.holdDecision l what tag began).contract l = _
    rw [State.holdDecision, State.onContract_contract_self, contract, now]
  · rw [← verdicts, ← counter, ← now]
    rfl

end Held

/-! ### A far ANNOUNCE in GREETING (R49) -/

section Announce
variable {s : State} {l : Line} {tag : Tag} {cls : FarClass} {canRecall answering : Bool} {idn : BitVec 32} {lvl : Nat}
  {raw : List Byte}

/-- R33, R48: an ANNOUNCE taken in GREETING ends the exchange and stops the greeting. -/
def Contract.greeted (c : Contract) : Contract :=
  { c with
    exchange := none
    greetingStopped := true
    timers := { c.timers with greetingDelay := none, greetingRetry := none } }

/-- R49: the far fields of an ANNOUNCE. -/
def Contract.announced (c : Contract) (far : FarFields) (canRecall : Bool) : Contract :=
  { c with far := some far, farRecall := some canRecall, lineClamp := none }

def announceQuery (l : Line) (far : FarFields) : Query := ⟨l, .announce, some far.cls, some far.identity, 0, 0, 0, 0⟩

theorem takeAnnounce_of_greeting (free : (s.contract l).decision = none) (greeting : (s.contract l).state = .greeting)
    (fits : answering = true → (s.contract l).fits .announce tag = true) :
    takeAnnounce l ⟨tag, .announce cls canRecall answering idn lvl⟩ raw s =
      (s.onContract l Contract.greeted).processAnnounce l answering ⟨cls, idn, lvl⟩ canRecall raw := by
  cases answering with
  | true =>
    have closed : (s.closeExchange l).contract l = { s.contract l with exchange := none } := State.closeExchange_contract_self ..
    have state : ((s.closeExchange l).contract l).state = .greeting := by
      rw [closed]
      exact greeting
    simp only [takeAnnounce, fits rfl, if_true, state]
    rw [State.closeExchange, State.onContract_onContract]
    rfl
  | false =>
    simp only [takeAnnounce, State.supersede_of_none free, greeting]
    rfl

/-- R49, R116: what the answer to an ANNOUNCE's query does. -/
def State.answerAnnounce (u : State) (l : Line) (answering : Bool) (a : Answer) (raw : List Byte) : State :=
  match a.action with
  | .forward =>
      match u.link.mode with
      | .running => u.held l (.announce answering) 1 .greeting .announce a [relayPart1 u.link.verdictTag a.rule (u.contract l) raw]
      | .autonomous => u.applyAnnounce l answering a.fallback a.clamp
  | act => u.applyAnnounce l answering act a.clamp

/-- R49: the state after an ANNOUNCE's query. -/
def State.announceAsked (s : State) (l : Line) (far : FarFields) (canRecall : Bool) : State :=
  (s.onContract l fun c => c.announced far canRecall).afterQuery (announceQuery l far)

theorem State.processAnnounce_eq (far : FarFields) : s.processAnnounce l answering far canRecall raw =
    (s.announceAsked l far canRecall).answerAnnounce l answering (s.answerOf (announceQuery l far)) raw := by
  have asked : ((s.onContract l fun c => c.announced far canRecall).contract l).queryBase l .announce = announceQuery l far := by
    rw [State.onContract_contract_self]
    rfl
  rw [State.announceAsked, ← asked]
  rfl

theorem State.announceAsked_judged (s : State) (l : Line) (far : FarFields) (canRecall : Bool) :
    Judged (s.onContract l fun c => c.announced far canRecall) (s.announceAsked l far canRecall) := .afterQuery ..

/-- R49, R163: an ANNOUNCE forwarded in RUNNING mode. -/
theorem State.processAnnounce_of_forward (running : s.link.mode = .running) {far : FarFields}
    (forwards : (s.answerOf (announceQuery l far)).action = .forward) :
    s.processAnnounce l answering far canRecall raw = (s.announceAsked l far canRecall).held l (.announce answering) 1 .greeting
      .announce (s.answerOf (announceQuery l far)) [relayPart1 s.link.verdictTag (s.answerOf (announceQuery l far)).rule
        ((s.contract l).announced far canRecall) raw] := by
  have judged := s.announceAsked_judged l far canRecall
  have contract := (judged.queried.line l).1
  rw [State.onContract_contract_self] at contract
  obtain ⟨-, -, -, mode, -, -, -, -, counter, -⟩ := judged.link
  have runs : (s.announceAsked l far canRecall).link.mode = .running := mode.trans running
  have tag : (s.announceAsked l far canRecall).link.verdictTag = s.link.verdictTag := counter
  rw [State.processAnnounce_eq]
  simp only [State.answerAnnounce, forwards, runs, contract, tag]

/-- R49, R116: an ANNOUNCE that is not forwarded, or whose fallback is applied. -/
theorem State.processAnnounce_of_action {far : FarFields} {act : Action} (acts : s.actionOf (announceQuery l far) = act)
    (decided : act ≠ .forward) : s.processAnnounce l answering far canRecall raw =
      (s.announceAsked l far canRecall).applyAnnounce l answering act (s.answerOf (announceQuery l far)).clamp := by
  obtain ⟨-, -, -, mode, -⟩ := (s.announceAsked_judged l far canRecall).link
  have modes : (s.announceAsked l far canRecall).link.mode = s.link.mode := mode
  subst acts
  rw [State.processAnnounce_eq]
  simp only [State.actionOf] at decided ⊢
  unfold State.answerAnnounce
  cases forwards : (s.answerOf (announceQuery l far)).action with
  | forward =>
    cases running : s.link.mode with
    | running => simp [forwards, running] at decided
    | autonomous => simp [modes, running]
  | auto | refuse | clamp | wait => simp

/-- R49: the taking of an arriving ANNOUNCE in GREETING. -/
theorem execAnnounceReceived_of_greeting (arrives : s.Arrives l ⟨tag, .announce cls canRecall answering idn lvl⟩)
    (free : (s.contract l).decision = none) (greeting : (s.contract l).state = .greeting)
    (fits : answering = true → (s.contract l).fits .announce tag = true) : exec (.announceReceived l) s =
      .next ((((s.arrived l).onContract l Contract.greeted).processAnnounce l answering ⟨cls, idn, lvl⟩ canRecall
        (s.engine l).rxChars.dropLast).endEvent l) := by
  refine congrArg Host.Outcome.next ((State.deliver_of_arrives (kind := .announce) arrives rfl (takeAnnounce l)).trans
    (congrArg (State.endEvent · l) (takeAnnounce_of_greeting ?_ ?_ fun answer => ?_)))
  · simpa using free
  · simpa using greeting
  · exact (s.arrived_fits l .announce tag).trans (fits answer)

/-- R49: the record as an ANNOUNCE's query is asked. -/
theorem State.greeted_contract (s : State) (l : Line) (far : FarFields) (canRecall : Bool) :
    (((s.arrived l).onContract l Contract.greeted).onContract l fun c => c.announced far canRecall).contract l =
      ((s.contract l).greeted.announced far canRecall) := by
  rw [State.onContract_contract_self, State.onContract_contract_self, State.arrived_contract_self]
  rfl

/-- R163: an arriving ANNOUNCE forwarded in RUNNING mode. -/
theorem State.announce_forwarded (running : s.link.mode = .running) {far : FarFields}
    (forwards : (s.answerOf (announceQuery l far)).action = .forward) :
    let t := (((s.arrived l).onContract l Contract.greeted).processAnnounce l answering far canRecall raw).endEvent l
    let a := s.answerOf (announceQuery l far)
    t.contract l = { (s.contract l).greeted.announced far canRecall with
        decision := some ⟨.announce answering, 1, s.now, .greeting⟩
        role := roleOf (s.contract l).state (s.contract l).role } ∧
      (t.engine l).txQueue = (s.engine l).txQueue ∧ t.budget = s.budget ∧
      t.link.verdicts = (s.link.verdicts.filter fun v => !(v.line == l)) ++ [⟨s.link.verdictTag, l, .announce, a.rule, a.fallback,
        a.clamp, s.now + 20,
        [relayPart1 s.link.verdictTag a.rule ((s.contract l).greeted.announced far canRecall) raw]⟩] ∧
      t.link.verdictTag = s.link.verdictTag + 1 := by
  intro t a
  have judged := ((s.arrived l).onContract l Contract.greeted).announceAsked_judged l far canRecall
  have process : ((s.arrived l).onContract l Contract.greeted).processAnnounce l answering far canRecall raw =
      (((s.arrived l).onContract l Contract.greeted).announceAsked l far canRecall).held l (.announce answering) 1 .greeting .announce a
        [relayPart1 s.link.verdictTag a.rule ((s.contract l).greeted.announced far canRecall) raw] := by
    rw [State.processAnnounce_of_forward (s := (s.arrived l).onContract l Contract.greeted) running forwards,
      State.onContract_contract_self, State.arrived_contract_self]
    rfl
  obtain ⟨record, engine, -, budget, verdicts, verdictTag⟩ := State.held_leaves (what := .announce answering) (tag := 1)
    (began := .greeting) (kind := .announce) (a := a)
    (relays := [relayPart1 s.link.verdictTag a.rule ((s.contract l).greeted.announced far canRecall) raw]) judged
  rw [← process] at record engine budget verdicts verdictTag
  rw [s.greeted_contract] at record
  refine ⟨?_, ?_, budget, verdicts, verdictTag⟩
  · rw [State.endEvent_contract_self, record]
    rfl
  · exact (congrArg LineEngine.txQueue engine).trans (s.arrived_engine_self l).1

end Announce

/-! ### A far CLAIM (R94) -/

section Claim
variable {s : State} {l : Line} {tag : Tag} {f : ClaimFields} {raw : List Byte}

/-- R94, R163: a CLAIM forwarded in RUNNING mode. -/
theorem State.queryClaim_of_forward (running : s.link.mode = .running)
    (forwards : (s.answerOf ((s.contract l).claimQuery l f)).action = .forward) :
    let a := s.answerOf ((s.contract l).claimQuery l f)
    let t := (s.afterQuery ((s.contract l).claimQuery l f)).held l (.claim f) tag (s.contract l).state .claim a
      [relayPart1 s.link.verdictTag a.rule (s.contract l) raw]
    s.queryClaim l tag f raw = if (s.contract l).state = .offering then t.enter l .deciding else t := by
  intro a t
  have judged := Judged.afterQuery s ((s.contract l).claimQuery l f)
  have contract := (judged.queried.line l).1
  obtain ⟨-, -, -, mode, -, -, -, -, counter, -⟩ := judged.link
  simp only [State.queryClaim, forwards, mode.trans running, contract, counter]
  rfl

/-- R94, R163: what an arriving CLAIM leaves that is forwarded in RUNNING mode. -/
theorem State.claim_forwarded (running : s.link.mode = .running)
    (forwards : (s.answerOf ((s.contract l).claimQuery l f)).action = .forward)
    (supplies : (s.contract l).state = .offering ∨ ((s.contract l).state = .active ∧ (s.contract l).role = .supply)) :
    let a := s.answerOf ((s.contract l).claimQuery l f)
    let t := ((s.arrived l).queryClaim l tag f raw).endEvent l
    (t.contract l).decision = some ⟨.claim f, tag, s.now, (s.contract l).state⟩ ∧
      (t.contract l).lastOutcome = (s.contract l).lastOutcome ∧
      (t.contract l).state = (if (s.contract l).state = .offering then .deciding else .active) ∧
      (t.contract l).role = .supply ∧ (t.contract l).agreement = (s.contract l).agreement ∧
      (t.contract l).path = (s.contract l).path ∧
      (t.engine l).txQueue = (s.engine l).txQueue ∧ t.budget = s.budget ∧
      t.link.verdicts = (s.link.verdicts.filter fun v => !(v.line == l)) ++ [⟨s.link.verdictTag, l, .claim, a.rule, a.fallback,
        a.clamp, s.now + 20, [relayPart1 s.link.verdictTag a.rule (s.contract l) raw]⟩] ∧
      t.link.verdictTag = s.link.verdictTag + 1 ∧
      ((s.channel l).tripped = false → (t.channel l).command = (t.contract l).path) := by
  intro a t
  have here := s.arrived_contract_self l
  have query : ((s.arrived l).contract l).claimQuery l f = (s.contract l).claimQuery l f := by
    rw [here]
    rfl
  have relay : relayPart1 s.link.verdictTag a.rule ((s.arrived l).contract l) raw = relayPart1 s.link.verdictTag a.rule (s.contract l) raw := by
    rw [here]
    rfl
  have state : ((s.arrived l).contract l).state = (s.contract l).state := by rw [here]
  obtain ⟨v, held⟩ : ∃ v, v = ((s.arrived l).afterQuery ((s.contract l).claimQuery l f)).held l (.claim f) tag (s.contract l).state
    .claim a [relayPart1 s.link.verdictTag a.rule (s.contract l) raw] := ⟨_, rfl⟩
  have process : (s.arrived l).queryClaim l tag f raw = if (s.contract l).state = .offering then v.enter l .deciding else v := by
    rw [State.queryClaim_of_forward (s := s.arrived l) running (by rw [query]; exact forwards), query, state, held, ← relay]
    rfl
  have ends : t = (if (s.contract l).state = .offering then v.enter l .deciding else v).endEvent l :=
    congrArg (State.endEvent · l) process
  obtain ⟨record, engine, channel, budget, verdicts, verdictTag⟩ := State.held_leaves (what := .claim f) (tag := tag)
    (began := (s.contract l).state) (kind := .claim) (a := a)
    (relays := [relayPart1 s.link.verdictTag a.rule (s.contract l) raw]) (l := l)
    (Judged.afterQuery (s.arrived l) ((s.contract l).claimQuery l f))
  rw [← held] at record engine channel budget verdicts verdictTag
  rw [here] at record
  have command : (s.channel l).tripped = false → (t.channel l).command = (t.contract l).path := fun untripped => by
    rw [ends]
    refine (State.endEvent_command ?_).1
    split
    · exact (congrArg Channel.tripped channel).trans untripped
    · exact (congrArg Channel.tripped channel).trans untripped
  have queue : (v.engine l).txQueue = (s.engine l).txQueue := (congrArg LineEngine.txQueue engine).trans (s.arrived_engine_self l).1
  by_cases offering : (s.contract l).state = .offering
  · rw [if_pos offering] at ends ⊢
    have after : t.contract l = { (v.contract l).enter .deciding with role := .supply } := by
      rw [ends, State.endEvent_contract_self, State.enter_contract_self]
      rfl
    rw [record] at after
    refine ⟨by rw [after]; rfl, by rw [after]; rfl, by rw [after]; rfl, by rw [after], by rw [after]; rfl, ?_, ?_, ?_, ?_, ?_, command⟩
    · rw [after]
      simp [Contract.path, Contract.enter, offering]
    all_goals rw [ends]
    · exact queue
    · exact budget
    · exact verdicts
    · exact verdictTag
  · rw [if_neg offering] at ends ⊢
    obtain ⟨active, supply⟩ := supplies.resolve_left offering
    have after : t.contract l = { v.contract l with role := roleOf (v.contract l).state (v.contract l).role } := by
      rw [ends, State.endEvent_contract_self]
    rw [record] at after
    refine ⟨by rw [after]; rfl, by rw [after], by rw [after]; exact active, ?_, by rw [after], ?_, ?_, ?_, ?_, ?_, command⟩
    · rw [after]
      simp [active, supply, roleOf]
    · rw [after]
      simp [Contract.path, active, supply, roleOf]
    all_goals rw [ends]
    · exact queue
    · exact budget
    · exact verdicts
    · exact verdictTag

end Claim

/-! ### A far MENU (R68) -/

section Menu
variable {s : State} {l : Line} {tag : Tag} {canRecall : Bool} {pts : List Point} {raw : List Byte}

theorem unmarked_point (pts : List Point) : (unmarked pts).map FarPoint.point = pts := by
  rw [unmarked, List.map_map]
  exact List.map_id pts

/-- R67: a point of an arriving MENU is answered as before its arrival. -/
theorem State.menuStored_pointAnswer (s : State) (l : Line) (canRecall : Bool) (raw : List Byte) (pts : List Point) (p : Point)
    (i : Nat) : ((s.arrived l).menuStored l canRecall raw pts).pointAnswer l p i = s.pointAnswer l p i ∧
      ((s.arrived l).menuStored l canRecall raw pts).markOf l i p = s.markOf l i p := by
  obtain ⟨alike, far, clamp⟩ := s.menuStored_alike l canRecall raw pts
  have begun := ((s.arrived l).menuStored l canRecall raw pts).markOf_beginMenu l i p
  have same := alike.table.markOf far clamp i p
  exact ⟨begun.1.symm.trans same.1, begun.2.symm.trans same.2⟩

/-- R68, R163: the choice that an arriving MENU opens in RUNNING mode. -/
theorem State.menuStored_choice {j : Nat} {p : Point} (running : s.link.mode = .running) (first : pts[j]? = some p)
    (forwards : (s.pointAnswer l p j).action = .forward)
    (before : ∀ i o, i < j → pts[i]? = some o → (s.pointAnswer l o i).action ≠ .forward) :
    let st := (s.arrived l).menuStored l canRecall raw pts
    ChoiceOpened l st ((st.processMenu l none).endEvent l) raw (s.marksBefore l j pts) (s.pointAnswer l p j) := by
  intro st
  have same := s.menuStored_pointAnswer l canRecall raw pts
  have mode : st.link.mode = s.link.mode := by
    obtain ⟨-, -, -, -, -, -, mode, -⟩ := (s.arrived l).menuBase_leaves l
    exact mode
  have record := (s.arrived l).menuStored_contract l canRecall raw pts
  have points := unmarked_point pts
  obtain ⟨opened, -⟩ := State.processMenu_choice (s := st) (l := l) (m := ⟨raw, unmarked pts⟩) (j := j) (p := p) (by rw [record]; rfl)
    (mode.trans running) (by rw [points]; exact first) (by rw [(same p j).1]; exact forwards) fun i o earlier found => by
      rw [points] at found
      rw [(same o i).1]
      exact before i o earlier found
  have marks : st.marksBefore l j ((unmarked pts).map FarPoint.point) = s.marksBefore l j pts := by
    rw [points]
    exact congrArg (List.mapIdx · pts) (funext₂ fun i o => by rw [(same o i).2])
  rw [marks, (same p j).1] at opened
  exact opened

/-- R68: the processing of a stored MENU touches its line alone. -/
theorem State.menuStored_frame (s : State) (l : Line) (canRecall : Bool) (raw : List Byte) (pts : List Point) :
    LineFrame l (s.menuBase l) (((s.menuStored l canRecall raw pts).processMenu l none).endEvent l) := by
  have scope := oneLineFact l
  exact (Moves.endEvent (Moves.processMenu (Moves.onContract (.refl (s.menuBase l))))).frame

/-- Section 8.1: where CHOOSING keeps the command in force. -/
theorem Contract.path_choosing_same {c d : Contract} (choosing : d.state = .choosing) (agreement : d.agreement = c.agreement)
    (options : d.options = c.options) (keeps : c.state = .claiming ∨ c.state = .backoff ∨
      ((c.state = .awaitMenu ∨ c.state = .baseline) ∧ c.agreement = none)) : d.path = c.path := by
  obtain state | state | ⟨state | state, none⟩ := keeps
  · simp [Contract.path, choosing, agreement, options, state]
  · simp [Contract.path, choosing, agreement, options, state]
  · simp [Contract.path, choosing, agreement, options, state, none]
  · simp [Contract.path, choosing, agreement, options, state, none]

/-- R21: the header of a well-formed frame carries its tag. -/
theorem tagOf_validate {cs : List Byte} {f : Frame} (formed : validate cs = .wellFormed f) : tagOf cs.dropLast = f.tag := by
  unfold validate at formed
  split at formed
  case h_2 => cases formed
  case h_1 h len body check front last =>
    split at formed
    case isFalse => cases formed
    case isTrue =>
      split at formed
      case h_2 => cases formed
      case h_1 k kind =>
        split at formed
        case h_2 => cases formed
        case h_1 b parsed =>
          cases formed
          rw [front]
          rfl

/-- R68, R163: the choice that an arriving MENU opens, read from the state before it. -/
theorem ChoiceOpened.of_stored {t : State} {marks : List FarPoint} {a : Answer}
    (opened : ChoiceOpened l ((s.arrived l).menuStored l canRecall raw pts) t raw marks a) :
    let b := ((s.arrived l).menuBase l)
    (t.contract l = { ((b.contract l).storesMenu canRecall raw pts).beginMenu.enter .choosing with
      farMenu := some ⟨raw, marks⟩
      decision := some ⟨.menu, tagOf raw, s.now, (s.contract l).state⟩
      role := .draw }) ∧ (t.engine l).txQueue = (s.engine l).txQueue ∧ t.budget = b.budget ∧
      t.link.verdicts = (s.link.verdicts.filter fun v => !(v.line == l)) ++ [⟨s.link.verdictTag, l, .menuPoint, a.rule, a.fallback,
        a.clamp, s.now + 20, [s.link.verdictTag :: 1 :: BitVec.ofNat 8 a.rule ::
            (relayFar (s.contract l).far (some canRecall) ++ raw),
          s.link.verdictTag :: 2 :: BitVec.ofNat 8 marks.length ::
            (marks.map fun m => [BitVec.ofNat 8 m.mark.code, BitVec.ofNat 8 (m.capacity / 256),
              BitVec.ofNat 8 m.capacity]).flatten]⟩] ∧
      t.link.verdictTag = s.link.verdictTag + 1 ∧
      ((s.channel l).tripped = false → (t.channel l).command = (t.contract l).path) := by
  intro b
  obtain ⟨record, engine, budget, verdicts, verdictTag, channel⟩ := opened
  obtain ⟨side, setup, -, link⟩ := (s.arrived l).menuBase_leaves l
  obtain ⟨state, -, far, -⟩ := (s.arrived l).menuBase_contract l
  rw [State.arrived_contract_self] at state far
  have now : ((s.arrived l).menuStored l canRecall raw pts).now = s.now := setup.2.1
  have verdicts' : ((s.arrived l).menuStored l canRecall raw pts).link.verdicts = s.link.verdicts := link.2.2.1
  have tag : ((s.arrived l).menuStored l canRecall raw pts).link.verdictTag = s.link.verdictTag := link.2.2.2.2.2.2.2.2.1
  have stored := (s.arrived l).menuStored_contract l canRecall raw pts
  have still : Still l (s.arrived l) ((s.arrived l).menuStored l canRecall raw pts) := (Still.menuBase ..).onContract l _
  have chosen : t.contract l = { ((b.contract l).storesMenu canRecall raw pts).beginMenu.enter .choosing with
      farMenu := some ⟨raw, marks⟩
      decision := some ⟨.menu, tagOf raw, s.now, (s.contract l).state⟩
      role := .draw } := by
    rw [record, stored, now, ← state]
    rfl
  refine ⟨chosen, ?_, budget, ?_, ?_, fun untripped => ?_⟩
  · rw [engine]
    exact (congrArg LineEngine.txQueue side).trans (s.arrived_engine_self l).1
  · rw [verdicts, verdicts', tag, now, stored, menuRelays]
    rw [show ((((s.arrived l).menuBase l).contract l).storesMenu canRecall raw pts).far = (s.contract l).far from far]
    rfl
  · rw [verdictTag, tag]
  · rw [channel, record]
    exact (Channel.take_command (still.tripped.trans untripped) ..).1

end Menu

/-! ### A point forwarded in AUTONOMOUS mode (R69, R116) -/

section Fallback
variable {s : State} {l : Line} {tag : Tag} {canRecall : Bool} {pts : List Point} {raw : List Byte}

theorem Point.mark_eq (p : Point) (act : Action) (clamp : Nat) (lineClamp : Option Nat) :
    p.mark act clamp lineClamp = markedBy act clamp lineClamp p := by
  cases act <;> rfl

theorem markedBy_point (act : Action) (clamp : Nat) (lineClamp : Option Nat) (p : Point) :
    (markedBy act clamp lineClamp p).point = p := by
  cases act <;> rfl

/-- R69, R116: the fallback of a forwarded point is applied to every point. -/
theorem State.processMenu_of_fallback {m : FarMenu} {mid : Option MidRequest} {u : State} {marks : List FarPoint} {a : Answer}
    (menu : (s.contract l).farMenu = some m) (autonomous : u.link.mode = .autonomous)
    (filtered : State.filter l mid (s.onContract l Contract.beginMenu) 0 (unmarked (m.points.map FarPoint.point)) =
      (u, marks, some a)) : s.processMenu l mid = (u.menuFiltered l m.raw
        (marks.map fun p => markedBy a.fallback a.clamp (u.contract l).lineClamp p.point)).select l ⟨0, 0⟩ := by
  have mode : (u.onContract l fun c => { c with farMenu := some { m with points := marks } }).link.mode = .autonomous := autonomous
  unfold State.processMenu
  simp only [State.beginMenu_menu menu, filtered, mode, State.applyMenu, State.onContract_onContract, Option.map_some, Point.mark_eq]
  exact congrArg (State.select · l ⟨0, 0⟩) (State.onContract_congr rfl)

/-- R69, R116: the selection that an arriving MENU comes to whose point is forwarded in AUTONOMOUS mode. -/
theorem State.menuStored_fallback {j : Nat} {p : Point} (autonomous : s.link.mode = .autonomous) (first : pts[j]? = some p)
    (forwards : (s.pointAnswer l p j).action = .forward)
    (before : ∀ i o, i < j → pts[i]? = some o → (s.pointAnswer l o i).action ≠ .forward) :
    let st := (s.arrived l).menuStored l canRecall raw pts
    let a := s.pointAnswer l p j
    ∃ u, Judged (st.onContract l Contract.beginMenu) u ∧ st.processMenu l none =
      (u.menuFiltered l raw (pts.map fun o => markedBy a.fallback a.clamp (s.contract l).lineClamp o)).select l ⟨0, 0⟩ := by
  intro st a
  obtain ⟨alike, far, clamp⟩ := s.menuStored_alike l canRecall raw pts
  have same := alike.table.markOf far clamp
  have record := (s.arrived l).menuStored_contract l canRecall raw pts
  obtain ⟨u, judged, filtered⟩ := State.filter_unmarked_of_forward (l := l) (s := st.onContract l Contract.beginMenu) first
    (by rw [(same j p).1]; exact forwards) fun i o earlier found => by
      rw [(same i o).1]
      exact before i o earlier found
  rw [(same j p).1] at filtered
  have mode : u.link.mode = .autonomous := by
    obtain ⟨-, -, -, mode, -⟩ := judged.link
    obtain ⟨-, -, -, -, -, -, kept, -⟩ := (s.arrived l).menuBase_leaves l
    exact mode.trans (Eq.trans kept autonomous)
  refine ⟨u, judged, (State.processMenu_of_fallback (m := ⟨raw, unmarked pts⟩) (by rw [record]; rfl) mode
    (by rw [unmarked_point]; exact filtered)).trans ?_⟩
  have lineClamp : (u.contract l).lineClamp = (s.contract l).lineClamp := by rw [(judged.queried.line l).1, clamp]
  rw [lineClamp]
  refine congrArg (fun marks => (u.menuFiltered l raw marks).select l ⟨0, 0⟩) (List.ext_getElem (by simp) fun n _ _ => ?_)
  simp only [List.getElem_map, List.getElem_mapIdx]
  split
  · rw [State.markOf, markedBy_point]
  · rfl

end Fallback

/-! ### The selection read from before the MENU's arrival -/

section Arriving
variable {s t : State} {l : Line} {canRecall : Bool} {pts : List Point} {raw : List Byte} {marks : List FarPoint}

/-- What a `ClaimSent` reads of the state before, of its line engine the transmit side alone. -/
structure ClaimSeen (l : Line) (s s' : State) : Prop where
  queue : (s'.engine l).txQueue = (s.engine l).txQueue
  nextId : (s'.engine l).nextId = (s.engine l).nextId
  accepts : (s'.engine l).accepts = (s.engine l).accepts
  exchange : (s'.contract l).exchange = (s.contract l).exchange
  waiting : (s'.contract l).waiting = (s.contract l).waiting
  displaced : (s'.contract l).displaced = (s.contract l).displaced
  options : (s'.contract l).options = (s.contract l).options
  tag : (s'.contract l).tagCounter = (s.contract l).tagCounter
  agreement : (s'.contract l).agreement = (s.contract l).agreement
  now : s'.now = s.now

theorem ClaimSent.of_seen {s s' : State} {k : Cursor} {f : ClaimFields} (sent : ClaimSent l s' t k f) (seen : ClaimSeen l s s') :
    ClaimSent l s t k f := by
  obtain ⟨state, cursor, claim, tag, ⟨atOnce, afterWaiting, behind⟩, reserved, agreement⟩ := sent
  obtain ⟨queue, nextId, accepts, exchange, waiting, displaced, options, tag', agreement', now⟩ := seen
  have ends : s'.answerEnd l = s.answerEnd l := by rw [State.answerEnd, State.answerEnd, options, now]
  have handed : ∀ r, RequestHanded l s' t r → RequestHanded l s t r := fun r handed => by
    obtain ⟨outstanding, joins⟩ := handed
    rw [nextId, accepts, ends, now] at outstanding
    rw [queue, nextId, accepts] at joins
    exact ⟨outstanding, joins⟩
  rw [tag'] at claim tag
  rw [agreement'] at reserved agreement
  rw [tag', exchange, waiting] at atOnce afterWaiting
  rw [tag', exchange, waiting, displaced, queue, ends, now] at behind
  rw [displaced] at atOnce afterWaiting
  exact ⟨state, cursor, claim, tag, ⟨fun none free => (atOnce none free).imp_left (handed _),
    fun w none waits => (afterWaiting w none waits).imp_left (handed _), behind⟩, reserved, agreement⟩

theorem ClaimSeen.arrived (s : State) (l : Line) : ClaimSeen l s (s.arrived l) := by
  obtain ⟨queue, nextId, accepts, -⟩ := s.arrived_engine_self l
  refine ⟨queue, nextId, accepts, ?_, ?_, ?_, ?_, ?_, ?_, rfl⟩ <;> rw [State.arrived_contract_self]

/-- R71 to R73: what the selection of an arriving MENU leaves where no claim is abandoned. -/
theorem State.arrived_selected (ended : SelectionEnded l ((s.arrived l).menuStored l canRecall raw pts) t raw marks)
    (role : (s.contract l).role = .draw) (unclaimed : (s.contract l).state ≠ .claiming) :
    (∀ k f, s.firstClaim l marks = some (k, f) → ClaimSent l s t k f ∧ (t.contract l).lastOutcome = (s.contract l).lastOutcome) ∧
      (s.firstClaim l marks = none → (t.contract l).state = .baseline ∧ (t.contract l).role = .draw ∧
        (t.contract l).lastOutcome = some .noSuitablePoint ∧ (t.contract l).agreement = none ∧ t.budget.drawCommit.get l = 0 ∧
        HandedOrDropped l s t ⟨(s.contract l).tagCounter, .ending .noSuitablePoint⟩) := by
  obtain ⟨claims, ends⟩ := State.menuBase_selected ended role
  have base : (s.arrived l).menuBase l = s.arrived l := (s.menuBase_arrived l).trans (if_neg unclaimed)
  have candidates : (s.arrived l).firstClaim l marks = s.firstClaim l marks :=
    State.firstClaim_congr (s := s) (v := s.arrived l) (by rw [State.arrived_contract_self])
      (by rw [State.arrived_contract_self]) rfl rfl marks
  rw [base, candidates] at claims ends
  refine ⟨fun k f first => ?_, fun none => ?_⟩
  · obtain ⟨sent, outcome⟩ := claims k f first
    exact ⟨sent.of_seen (.arrived s l), outcome.trans (if_neg unclaimed)⟩
  · obtain ⟨baseline, draw, outcome, agreement, -, commit, handed, -⟩ := ends none
    exact ⟨baseline, draw, outcome, agreement, commit, handed⟩

/-- R37, R69: the selection of an arriving MENU on a line without a pending decision opens none, and a claim leaves the verdict
queue. -/
theorem State.arrived_undecided {u : State} (judged : Judged (((s.arrived l).menuStored l canRecall raw pts).onContract l Contract.beginMenu) u)
    (free : (s.contract l).decision = none) :
    let t := ((u.menuFiltered l raw marks).select l ⟨0, 0⟩).endEvent l
    (s.verdictOf l = none → (t.contract l).decision = none ∧ t.verdictOf l = none) ∧
      ((s.contract l).state ≠ .claiming → ∀ k f, s.firstClaim l marks = some (k, f) → t.link.verdicts = s.link.verdicts) := by
  intro t
  obtain ⟨-, -, verdicts, -⟩ := judged.link
  obtain ⟨-, -, -, link⟩ := (s.arrived l).menuBase_leaves l
  have entries : u.link.verdicts = s.link.verdicts := verdicts.trans link.2.2.1
  obtain ⟨contract, -, -, budget, prefs, -⟩ := judged.queried.line l
  rw [State.onContract_contract_self, State.menuStored_contract] at contract
  have record : (u.menuFiltered l raw marks).contract l = { ((((s.arrived l).menuBase l).contract l).storesMenu canRecall raw
      pts).beginMenu with farMenu := some ⟨raw, marks⟩ } := by
    rw [State.menuFiltered, State.onContract_contract_self, contract]
  have menu : ((u.menuFiltered l raw marks).contract l).farMenu = some ⟨raw, marks⟩ := by rw [record]
  refine ⟨fun undecided => State.select_undecided menu ?_ ?_, fun unclaimed k f first => ?_⟩
  · rw [record]
    have kept : (((s.arrived l).menuBase l).contract l).decision = (s.contract l).decision := by
      rw [State.menuBase_arrived]
      split
      · rw [State.abandonClaim_contract, State.arrived_contract_self]
      · rw [State.arrived_contract_self]
    exact kept.trans free
  · exact (congrArg (List.find? _) entries).trans undecided
  · have base : (s.arrived l).menuBase l = s.arrived l := (s.menuBase_arrived l).trans (if_neg unclaimed)
    rw [base, State.arrived_contract_self] at record
    have room : (u.menuFiltered l raw marks).budget.drawHeadroom = s.budget.drawHeadroom := by
      refine congrArg Budget.drawHeadroom (Eq.trans budget ?_)
      change ((s.arrived l).menuBase l).budget = s.budget
      rw [base]
      rfl
    have choices : (u.menuFiltered l raw marks).prefs = s.prefs := by
      refine Eq.trans prefs ?_
      change ((s.arrived l).menuBase l).prefs = s.prefs
      rw [base]
      rfl
    have candidates : (u.menuFiltered l raw marks).firstClaim l marks = s.firstClaim l marks :=
      State.firstClaim_congr (by rw [record]; rfl) (by rw [record]; rfl) choices room marks
    exact (State.select_verdicts menu (candidates.trans first)).trans entries

/-- R66 to R72: an arriving MENU that is processed at once and of which no point is forwarded. -/
theorem execMenuReceived_of_selecting {tag : Tag} (arrives : s.Arrives l ⟨tag, .menu canRecall pts⟩)
    (free : (s.contract l).decision = none) (drawing : (s.contract l).drawing = true)
    (elsewhere : (s.contract l).state ≠ .switching) (unpaused : (s.contract l).paused = false) (decides : s.NoForward l pts) :
    ∃ t, exec (.menuReceived ⟨l, none⟩) s = .next t ∧
      SelectionEnded l ((s.arrived l).menuStored l canRecall (s.engine l).rxChars.dropLast pts) t (s.engine l).rxChars.dropLast
        (pts.mapIdx (s.markOf l)) ∧
      (s.verdictOf l = none → (t.contract l).decision = none ∧ t.verdictOf l = none) := by
  have row := execMenuReceived_of_processing arrives free drawing elsewhere unpaused none
  obtain ⟨u, judged, filtered⟩ := State.menuStored_filtered decides canRecall (s.engine l).rxChars.dropLast
  have stored := (s.arrived l).menuStored_contract l canRecall (s.engine l).rxChars.dropLast pts
  rw [State.processMenu_of_filtered (m := ⟨(s.engine l).rxChars.dropLast, unmarked pts⟩) (by rw [stored]; rfl)
    (by rw [unmarked_point]; exact filtered)] at row
  exact ⟨_, row, (State.menuFiltered_selected judged.queried).1, (State.arrived_undecided judged free).1⟩

end Arriving

/-! ### A superseding MENU (R37, R59, R81) -/

section Superseding
variable {s : State} {l : Line} {d : Decision} {tag : Tag} {canRecall : Bool} {pts : List Point} {raw : List Byte}

/-- R37: a pending decision that began in CLAIMING or BACKOFF kept the command in force, and so does its superseding. -/
theorem State.supersede_settled_of_kept (decided : (s.contract l).decision = some d) (choosing : (s.contract l).state = .choosing)
    (began : d.began = .claiming ∨ d.began = .backoff) (settled : s.LineSettled l) : (s.supersede l).LineSettled l := by
  obtain ⟨untripped, command, role⟩ := settled
  have channel : (s.supersede l).channel l = s.channel l := by rw [State.supersede_rest decided]; rfl
  have record := State.supersede_contract decided
  have same : ((s.supersede l).contract l).path = (s.contract l).path := by
    rw [record]
    obtain began | began := began <;> simp [Contract.path, Contract.enter, choosing, began]
  refine ⟨by rw [channel, untripped], by rw [channel, command, same], ?_⟩
  rw [choosing] at role
  rw [record]
  obtain began | began := began <;> exact (congrArg (fun st => roleOf st _) began).trans role

/-- R67: a point is answered as before the superseding. -/
theorem State.supersede_markOf (decided : (s.contract l).decision = some d) (p : Point) (i : Nat) :
    (s.supersede l).pointAnswer l p i = s.pointAnswer l p i ∧ (s.supersede l).markOf l i p = s.markOf l i p := by
  refine SameTable.markOf ⟨fun _ => by rw [State.supersede_rest decided], by rw [State.supersede_rest decided]⟩ ?_ ?_ i p <;>
    rw [State.supersede_contract decided] <;> rfl

theorem State.supersede_claimBase (decided : (s.contract l).decision = some d) : ClaimBase l s (s.supersede l) := by
  refine ⟨State.supersede_engine decided l, ?_, ?_, ?_, ?_, ?_, ?_, by rw [State.supersede_rest decided]⟩ <;>
    rw [State.supersede_contract decided] <;> rfl

theorem State.supersede_firstClaim (decided : (s.contract l).decision = some d) (marks : List FarPoint) :
    (s.supersede l).firstClaim l marks = s.firstClaim l marks := by
  refine State.firstClaim_congr ?_ ?_ ?_ ?_ marks
  · rw [State.supersede_contract decided]; rfl
  · rw [State.supersede_contract decided]; rfl
  · rw [State.supersede_rest decided]
  · rw [State.supersede_rest decided]

/-- R37: a MENU in CHOOSING is taken where superseding has led. -/
theorem execMenuReceived_supersede (arrives : s.Arrives l ⟨tag, .menu canRecall pts⟩) (decided : (s.contract l).decision = some d)
    (pends : d.Pends (s.contract l)) (mid : Option MidRequest) :
    exec (.menuReceived ⟨l, mid⟩) s = exec (.menuReceived ⟨l, mid⟩) (s.supersede l) :=
  congrArg Host.Outcome.next (State.deliver_of_superseding arrives rfl decided pends fun raw _ _ _ => takeMenu_supersede mid rfl raw)

/-- R66, R86: an arriving MENU on a paused line that draws and claims nothing. -/
theorem execMenuReceived_of_paused (arrives : s.Arrives l ⟨tag, .menu canRecall pts⟩) (free : (s.contract l).decision = none)
    (active : (s.contract l).state = .active) (draws : (s.contract l).role = .draw) (paused : (s.contract l).paused = true)
    (mid : Option MidRequest) : exec (.menuReceived ⟨l, mid⟩) s = .next (((s.arrived l).onContract l fun c =>
      { c.storesMenu canRecall (s.engine l).rxChars.dropLast pts with cursor := ⟨0, 0⟩, waitStreak := 0, deferred := true }).endEvent l) := by
  refine congrArg Host.Outcome.next ((State.deliver_of_arrives (kind := .menu) arrives rfl (takeMenu l mid)).trans
    (congrArg (State.endEvent · l) ?_))
  have here := s.arrived_contract_self l
  have base : (s.arrived l).menuBase l = s.arrived l := (s.menuBase_arrived l).trans (if_neg (by rw [active]; decide))
  rw [takeMenu_of_drawing (by rw [here]; exact free) (by rw [here]; simp [Contract.drawing, active, draws]), here]
  refine (if_neg (by rw [active]; decide)).trans ((if_pos paused).trans ?_)
  rw [State.menuStored, State.onContract_onContract, base]

end Superseding

/-- Settles O36: each far request by what its taking leaves where the query is forwarded, and a superseding MENU by the state it is
taken in. -/
theorem forwardHandsTheDecision : Obligations.ForwardHandsTheDecision := by
  refine ⟨fun l s free settled => ?_, fun l s d mtag canRecall pts arrives decided pends settled => ?_⟩
  · intro c tag raw part1 selects
    refine ⟨fun running => ⟨fun cls canRecall answering idn lvl arrives fits greeting => ?_,
      fun mtag canRecall pts j p arrives taken unpaused first forwards before => ?_,
      fun ctag f m arrives supplies offered stands fit idle unpaused none target => ?_⟩,
      fun autonomous mtag canRecall pts j p arrives taken unpaused first forwards before => ?_⟩
    · intro a forwards
      have row := execAnnounceReceived_of_greeting arrives free greeting fits
      obtain ⟨record, queue, budget, verdicts, verdictTag⟩ := State.announce_forwarded (s := s) (l := l) (answering := answering)
        (canRecall := canRecall) (raw := raw) (far := ⟨cls, idn, lvl⟩) running forwards
      refine ⟨_, row, ⟨?_, ?_, verdictTag, queue, budget, ?_, linesDoNotInterfere (.announceReceived l) l s _ rfl row⟩, ?_⟩
      · rw [record]
      · rw [verdicts]
        cases canRecall <;> rfl
      · rw [record]
        rfl
      · rw [record, greeting]
        exact ⟨greeting, rfl, rfl, rfl, rfl, rfl, rfl⟩
    · intro a marks left
      have processes : c.state = .awaitMenu ∨ c.state = .claiming ∨ c.state = .backoff ∨ c.state = .baseline ∨
          (c.state = .active ∧ c.role = .draw) := by
        simp only [selects] at taken
        tauto
      obtain ⟨drawing, role, elsewhere⟩ := Contract.drawing_of_processes settled.2.2 processes
      have row := execMenuReceived_of_processing arrives free drawing elsewhere unpaused none
      have frame := linesDoNotInterfere (.menuReceived ⟨l, none⟩) l s _ rfl row
      obtain ⟨record, queue, budget, verdicts, verdictTag, command⟩ :=
        (State.menuStored_choice (l := l) (canRecall := canRecall) (raw := raw) running first forwards before).of_stored
      have head : tagOf raw = mtag := tagOf_validate arrives.2.1
      have points : marks.length = pts.length := List.length_mapIdx
      rw [show (s.marksBefore l j pts).length = pts.length from points] at verdicts
      rw [head] at record
      have base := s.menuBase_arrived l
      have kept := (s.arrived l).menuBase_contract l
      rw [State.arrived_contract_self] at kept
      obtain ⟨-, -, -, -, -, -, agreement, options, -⟩ := kept
      refine ⟨_, row, ?_, ?_, ?_, ?_, ?_, ?_, queue, frame, fun claiming => ?_, fun open_ => ?_, fun g active agreed => ?_⟩
      · by_cases claiming : c.state = .claiming
        · have abandons : left = (s.arrived l).menuBase l := ((s.menuBase_arrived l).trans (if_pos claiming)).symm ▸ if_pos claiming
          obtain ⟨side, setup, -, link⟩ := (s.arrived l).menuBase_leaves l
          rw [abandons]
          refine ⟨?_, ?_, ?_, ?_, budget, ?_, State.menuStored_frame ..⟩
          · rw [record, setup.2.1]
            rfl
          · rw [verdicts, link.2.2.1, link.2.2.2.2.2.2.2.2.1, setup.2.1]
            rfl
          · rw [verdictTag, link.2.2.2.2.2.2.2.2.1]
            rfl
          · rw [queue, side, (s.arrived_engine_self l).1]
          · rw [record]
            rfl
        · have stays : left = s := if_neg claiming
          have arrived : (s.arrived l).menuBase l = s.arrived l := base.trans (if_neg claiming)
          rw [arrived] at record budget
          rw [stays]
          refine ⟨by rw [record], verdicts, verdictTag, queue, budget, ?_, frame⟩
          rw [record, State.arrived_contract_self]
          rfl
      · rw [record]; rfl
      · rw [record]
      · rw [record]; rfl
      · rw [record]; rfl
      · rw [record]; exact agreement
      · have abandons : (s.arrived l).menuBase l = (s.arrived l).abandonClaim l := base.trans (if_pos claiming)
        obtain ⟨-, -, -, -, commit⟩ := (s.arrived l).abandonClaim_leaves l
        have abandoned := (s.arrived l).abandonClaim_contract l
        rw [abandons] at record budget
        rw [State.arrived_contract_self] at commit
        rw [record, budget, abandoned]
        exact ⟨rfl, rfl, commit⟩
      · rw [command settled.1, settled.2.1]
        refine Contract.path_choosing_same (by rw [record]; rfl) (by rw [record]; exact agreement) (by rw [record]; exact options) ?_
        obtain claiming | backoff | ⟨other, none⟩ := open_
        · exact .inl claiming
        · exact .inr (.inl backoff)
        · obtain state | state | state | state | ⟨state, -⟩ := processes
          · exact .inr (.inr ⟨.inl state, none⟩)
          · exact .inl state
          · exact .inr (.inl state)
          · exact .inr (.inr ⟨.inr state, none⟩)
          · exact absurd state other
      · have agreed' : (((s.arrived l).menuBase l).contract l).agreement = some g := agreement.trans agreed
        rw [command settled.1, record]
        simp [Contract.path, Contract.enter, Contract.beginMenu, Contract.storesMenu, agreed', PathCommand.draw]
    · intro a forwards
      have here := s.arrived_contract_self l
      have claimed : takeFarClaim l ⟨ctag, .claim f⟩ raw (s.arrived l) = (s.arrived l).queryClaim l ctag f raw := by
        rw [takeFarClaim_of_claimable (by rw [here]; exact free) (by rw [here]; exact supplies)]
        refine State.takeClaim_of_free (m := m) (by rw [here]; exact offered) stands fit idle (by rw [here]; exact unpaused) ?_
        rw [here]
        simp [Contract.recalling, show (s.contract l).recallOut = .none from none, show (s.contract l).target = .none from target]
      have row : exec (.claimReceived l) s = .next (((s.arrived l).queryClaim l ctag f raw).endEvent l) :=
        congrArg Host.Outcome.next ((State.deliver_of_arrives (kind := .claim) arrives rfl (takeFarClaim l)).trans
          (congrArg (State.endEvent · l) claimed))
      obtain ⟨decision, outcome, state, role, agreement, path, queue, budget, verdicts, verdictTag, command⟩ :=
        State.claim_forwarded (s := s) (l := l) (tag := ctag) (f := f) (raw := raw) running forwards supplies
      exact ⟨_, row, ⟨decision, verdicts, verdictTag, queue, budget, outcome, linesDoNotInterfere (.claimReceived l) l s _ rfl row⟩,
        state, role, agreement, (command settled.1).trans (path.trans settled.2.1.symm)⟩
    · intro a marks
      have processes : c.state = .awaitMenu ∨ c.state = .claiming ∨ c.state = .backoff ∨ c.state = .baseline ∨
          (c.state = .active ∧ c.role = .draw) := by
        simp only [selects] at taken
        tauto
      have unclaimed : c.state ≠ .claiming := by
        obtain state | state | state | ⟨state, -⟩ := taken <;> rw [state] <;> decide
      obtain ⟨drawing, role, elsewhere⟩ := Contract.drawing_of_processes settled.2.2 processes
      have row := execMenuReceived_of_processing arrives free drawing elsewhere unpaused none
      have frame := linesDoNotInterfere (.menuReceived ⟨l, none⟩) l s _ rfl row
      obtain ⟨u, judged, falls⟩ := State.menuStored_fallback (canRecall := canRecall) (raw := raw) autonomous first forwards before
      obtain ⟨ended, -⟩ := State.menuFiltered_selected (raw := raw) (marks := marks) judged.queried
      obtain ⟨claims, ends⟩ := State.arrived_selected ended role unclaimed
      rw [falls] at row frame
      refine ⟨fun k f candidate => ⟨_, row, (claims k f candidate).1, ended.menu,
        (State.arrived_undecided judged free).2 unclaimed k f candidate, frame⟩, fun none => ?_⟩
      obtain ⟨baseline, -, outcome, -, -, handed⟩ := ends none
      exact ⟨_, row, baseline, outcome, ended.menu, handed, frame⟩
  · intro raw left marks gone
    have superseded : Superseded l s left d := State.supersede_superseded decided
    have same := execMenuReceived_supersede arrives decided pends
    have record : left.contract l = _ := superseded.record
    have state : (left.contract l).state = d.began := State.supersede_state decided
    have engine : left.engine l = s.engine l := State.supersede_engine decided l
    have role : (s.contract l).state = .choosing → (left.contract l).role = .draw := fun choosing => by
      have held := settled.2.2
      rw [choosing] at held
      rw [record]
      exact held.symm
    have free : (left.contract l).decision = none := by rw [record]
    have arrives' : left.Arrives l ⟨mtag, .menu canRecall pts⟩ := arrives.superseded decided pends
    refine ⟨⟨superseded, same, fun keeps => ?_⟩, fun choosing unpaused began decides => ?_, fun choosing unpaused began hold => ?_⟩
    · by_cases choosing : (s.contract l).state = .choosing
      · exact State.supersede_settled_of_kept decided choosing (keeps.resolve_left (not_not_intro choosing)) settled
      · exact State.supersede_settled decided pends choosing settled
    · have drawing : (left.contract l).drawing = true ∧ (left.contract l).state ≠ .switching ∧ (left.contract l).state ≠ .claiming := by
        rw [Contract.drawing, state, role choosing]
        obtain began | began | began | ⟨began, -⟩ := began <;> rw [began] <;> decide
      have open_ : (left.contract l).paused = false := by
        rw [record]
        obtain began | began | began | ⟨began, off⟩ := began <;> simp [Contract.enter, *]
      have marked := State.supersede_markOf (s := s) (l := l) decided
      obtain ⟨t, row, ended, undecided⟩ := execMenuReceived_of_selecting arrives' free drawing.1 drawing.2.1 open_ fun i p found => by
        rw [(marked p i).1]
        exact decides i p found
      rw [engine, show left.markOf l = s.markOf l from funext₂ fun i p => (marked p i).2] at ended
      obtain ⟨claims, ends⟩ := State.arrived_selected ended (role choosing) drawing.2.2
      obtain ⟨decision, entry⟩ := undecided superseded.entry
      have frame := linesDoNotInterfere (.menuReceived ⟨l, none⟩) l s _ rfl ((same none).trans row)
      have candidates : left.firstClaim l marks = s.firstClaim l marks := State.supersede_firstClaim decided marks
      refine ⟨_, (same none).trans row, ⟨decision, entry, frame⟩, ended.menu, fun k f candidate => ?_, fun none => ?_⟩
      · obtain ⟨sent, outcome⟩ := claims k f (candidates.trans candidate)
        exact ⟨sent.of_base (State.supersede_claimBase decided), outcome.trans (by rw [record])⟩
      · obtain ⟨baseline, draw, outcome, agreement, commit, handed⟩ := ends (candidates.trans none)
        rw [HandedOrDropped, engine, record] at handed
        exact ⟨baseline, draw, outcome, agreement, commit, handed⟩
    · have active : (left.contract l).state = .active := state.trans began
      have paused : (left.contract l).paused = true := by
        rw [record]
        simp [Contract.enter, choosing, began, hold]
      have row := execMenuReceived_of_paused arrives' free active (role choosing) paused none
      rw [engine] at row
      have frame := linesDoNotInterfere (.menuReceived ⟨l, none⟩) l s _ rfl ((same none).trans row)
      have renewal : (left.contract l).timers.renewal =
          ((s.contract l).agreement.map fun a => s.now + BitVec.ofNat 32 (500 * a.lease)) := by
        rw [record]
        simp [Contract.enter, choosing, began]
      refine ⟨_, (same none).trans row, ⟨?_, superseded.entry, frame⟩, ?_⟩
      · rw [State.endEvent_contract_self, State.onContract_contract_self, State.arrived_contract_self]
        exact free
      · rw [State.endEvent_contract_self, State.onContract_contract_self, State.arrived_contract_self]
        refine ⟨active, ?_, ?_, paused, rfl, rfl, ?_, rfl, renewal, ?_⟩
        · exact (congrArg Contract.lastOutcome record).trans rfl
        · change roleOf (left.contract l).state (left.contract l).role = .draw
          rw [active, role choosing]
          rfl
        · exact (congrArg Contract.agreement record).trans rfl
        · exact (left.arrived_engine_self l).1.trans (congrArg LineEngine.txQueue engine)

end Sys2Proof.Machine
end

section
/-! SUPPORT. Proofs for the taking of a far ANNOUNCE (R32, R45 to R50, R52). -/

namespace Sys2Proof.Machine

/-! ### A closing beside the taking of a frame (R48, R52) -/

theorem Four.set_comm {α : Type} (x : Four α) {l m : Line} (other : m ≠ l) (a b : α) :
    (x.set l a).set m b = (x.set m b).set l a := by
  refine Four.ext_get fun n => ?_
  by_cases here : n = l
  · subst here
    simp [Four.get_set_of_ne _ _ (Ne.symm other)]
  · by_cases there : n = m
    · subst there
      simp [Four.get_set_of_ne _ _ here]
    · simp [Four.get_set_of_ne _ _ here, Four.get_set_of_ne _ _ there]

section Beside
variable {s : State} {l m : Line} {f : Contract → Contract} (g : LineEngine → LineEngine)

theorem State.onEngine_comm (other : m ≠ l) (h : LineEngine → LineEngine) :
    (s.onEngine l g).onEngine m h = (s.onEngine m h).onEngine l g := by
  have here : (s.onEngine l g).engine m = s.engine m := by simp [State.onEngine_engine, other]
  have there : (s.onEngine m h).engine l = s.engine l := by simp [State.onEngine_engine, Ne.symm other]
  refine congrArg (fun engines => { s with engines := engines }) ?_
  change (s.engines.set l (g (s.engine l))).set m (h ((s.onEngine l g).engine m)) =
    (s.engines.set m (h (s.engine m))).set l (g ((s.onEngine m h).engine l))
  rw [here, there]
  exact Four.set_comm _ other _ _

theorem State.rebuildMenu_onEngine (other : m ≠ l) : (s.onEngine l g).rebuildMenu m = (s.rebuildMenu m).onEngine l g := by
  by_cases empty : s.offers m = []
  · rw [State.rebuildMenu_of_empty empty, State.rebuildMenu_of_empty (s := s.onEngine l g) empty]
    rfl
  · rw [State.rebuildMenu_of_points empty, State.rebuildMenu_of_points (s := s.onEngine l g) empty]
    have handed : (s.onEngine l g).hand m ⟨(s.contract m).tagCounter, .menu true (s.offers m)⟩ =
        (s.hand m ⟨(s.contract m).tagCounter, .menu true (s.offers m)⟩).onEngine l g := State.onEngine_comm g other _
    exact congrArg (fun t => (State.stepTag t m).onContract m fun c => { c with offered := some ⟨s.offers m, false⟩ }) handed

/-- R127: the held menus are built again beside a change of the engine of a line that holds none. -/
theorem State.reofferLines_onEngine (ls : List Line) (quiet : (s.contract l).awaitsRise = false) :
    ls.foldl State.reofferLine (s.onEngine l g) = (ls.foldl State.reofferLine s).onEngine l g := by
  induction ls generalizing s with
  | nil => rfl
  | cons m ls ih =>
    have line : (s.onEngine l g).reofferLine m = (s.reofferLine m).onEngine l g ∧
        ((s.reofferLine m).contract l).awaitsRise = false := by
      by_cases here : m = l
      · subst here
        have stays : s.reofferLine m = s := if_neg (by rw [quiet]; exact Bool.false_ne_true)
        have stays' : (s.onEngine m g).reofferLine m = s.onEngine m g := if_neg (by
          rw [State.onEngine_contract, quiet]
          exact Bool.false_ne_true)
        exact ⟨stays'.trans (congrArg (State.onEngine · m g) stays.symm), by rw [stays]; exact quiet⟩
      · refine ⟨?_, by rw [(State.reofferLine_of_ne here).1]; exact quiet⟩
        unfold State.reofferLine
        rw [State.onEngine_contract]
        split
        · exact State.rebuildMenu_onEngine g here
        · rfl
    rw [List.foldl_cons, List.foldl_cons, line.1, ih line.2]

theorem State.passRise_onEngine (quiet : (s.contract l).awaitsRise = false) (n : Nat) :
    (s.onEngine l g).passRise n = (s.passRise n).onEngine l g := by
  unfold State.passRise
  by_cases rises : n < s.budget.supplyHeadroom
  · rw [if_pos rises]
    refine (if_pos rises).trans ?_
    rw [State.reoffer_fold, State.reoffer_fold]
    exact State.reofferLines_onEngine g _ quiet
  · rw [if_neg rises]
    exact if_neg rises

theorem State.setBudget_onEngine (b : Budget) : (s.onEngine l g).setBudget b = (s.setBudget b).onEngine l g := by
  unfold State.setBudget
  dsimp only
  split <;> rfl

/-- R52: a closing beside a change of the line's engine. -/
theorem State.closing_onEngine (left : (f (s.contract l)).state ≠ .offering) :
    (s.onEngine l g).closing l f = (s.closing l f).onEngine l g := by
  have closed : (s.onEngine l g).closed l f = (s.closed l f).onEngine l g := by
    obtain ⟨u, change⟩ : ∃ u, u = (s.dropVerdict l).onContract l f := ⟨_, rfl⟩
    have quiet : (u.contract l).awaitsRise = false := by
      rw [change, State.onContract_contract_self]
      exact Contract.awaitsRise_of_state left
    have released : (u.onEngine l g).releaseBoth l = (u.releaseBoth l).onEngine l g := by
      obtain ⟨b, released⟩ : ∃ b, b = { u.budget with
        drawCommit := u.budget.drawCommit.set l 0
        drawCopy := u.budget.drawCopy.set l none
        supplyCommit := u.budget.supplyCommit.set l 0
        order := u.budget.order.filter fun g => !(g.line == l) } := ⟨_, rfl⟩
      have before : u.releaseBoth l = ((u.setBudget b).reallocate).passRise u.budget.supplyHeadroom := by rw [released]; rfl
      have after : (u.onEngine l g).releaseBoth l =
          (((u.onEngine l g).setBudget b).reallocate).passRise u.budget.supplyHeadroom := by rw [released]; rfl
      have kept : (((u.setBudget b).reallocate).contract l).awaitsRise = false := by simpa using quiet
      rw [before, after, State.setBudget_onEngine, ← State.passRise_onEngine g kept]
      rfl
    rw [State.closed, State.closed, ← change]
    refine (congrArg (fun t => State.onChannel t l fun ch => { ch with energy := 0 }) ?_).trans
      (congrArg (fun t => State.onChannel t l fun ch => { ch with energy := 0 }) released)
    rw [change]
    rfl
  rw [State.closing_eq, State.closing_eq, closed]
  by_cases held : (s.contract l).role = .none
  · rw [if_pos held]
    exact if_pos held
  · rw [if_neg held]
    exact (if_neg held).trans rfl

end Beside

/-! ### The far-end restart (R48) -/

section Restart
variable {s : State} {l : Line} {d : Decision}

/-- R48, R52: the record that a far-end restart leaves. -/
def Contract.restarted (c : Contract) : Contract :=
  { c.close.greet none with lastOutcome := if c.role = .none then c.lastOutcome else some .endedByFar }

@[simp] theorem Contract.restarted_state (c : Contract) : c.restarted.state = .greeting := rfl

theorem State.farRestart_eq (s : State) (l : Line) : s.farRestart l = s.closing l Contract.restarted := rfl

theorem State.farRestart_contract_self (s : State) (l : Line) : (s.farRestart l).contract l = (s.contract l).restarted :=
  State.closing_contract_self (by simp)

theorem State.farRestart_engine_self (s : State) (l : Line) : (s.farRestart l).engine l = s.engine l :=
  State.closing_engine_self (by simp)

/-- R52: a change of the record before a closing that the closing undoes. -/
theorem State.closing_onContract {f h : Contract → Contract} (undone : f (h (s.contract l)) = f (s.contract l))
    (role : (h (s.contract l)).role = (s.contract l).role) : (s.onContract l h).closing l f = s.closing l f := by
  have closed : (s.onContract l h).closed l f = s.closed l f := by
    have change : ((s.onContract l h).dropVerdict l).onContract l f = (s.dropVerdict l).onContract l f :=
      (State.onContract_onContract (s.dropVerdict l) l h f).trans (State.onContract_congr undone)
    rw [State.closed, State.closed, change]
  rw [State.closing_eq, State.closing_eq, closed, State.onContract_contract_self, role]

/-- R45, R48: a frame is taken before a restart as after it. -/
theorem State.farRestart_arrived (s : State) (l : Line) : (s.arrived l).farRestart l = (s.farRestart l).arrived l := by
  have stopped : ((s.farRestart l).contract l).timers.greetingDelay = none := by
    rw [State.farRestart_contract_self]
    rfl
  have before : (s.arrived l).farRestart l = (s.onEngine l fun e =>
      { e with
        rxSide := .idle
        rxChars := []
        rxExpected := none
        rxSlot := false
        rxLosing := false
        refusing := false
        gapTimer := false
        health := { e.health with malformed := false, shortFrame := false, strayAnswer := false, answerTimeout := false }
      }).farRestart l := State.closing_onContract rfl rfl
  rw [before]
  refine (State.closing_onEngine _ (by simp)).trans (Eq.symm (State.onContract_eq_self ?_))
  rw [State.onEngine_contract, stopped]
  exact (congrArg (fun delay => { (s.farRestart l).contract l with
    timers := { ((s.farRestart l).contract l).timers with greetingDelay := delay } }) stopped.symm).trans rfl

/-- R48, R49: the ANNOUNCE that restarts a contract is processed as one taken in the GREETING that follows. -/
theorem State.restarted_greeted (s : State) (l : Line) (x : Option Exchange) :
    (((s.farRestart l).onContract l fun d => { d with exchange := x }).arrived l).onContract l Contract.greeted =
      (s.arrived l).farRestart l := by
  rw [State.farRestart_arrived, State.arrived, State.arrived, State.onContract_onContract, State.onContract_onEngine,
    State.onContract_onContract]
  refine State.onContract_congr ?_
  rw [State.onEngine_contract, State.farRestart_contract_self]
  rfl

/-- R48, R52: what a far-end restart leaves. -/
theorem State.farRestart_restarted (s : State) (l : Line) (x : Option Exchange) :
    Restarted l s ((s.farRestart l).onContract l fun d => { d with exchange := x }) := by
  have record : ((s.farRestart l).onContract l fun d => { d with exchange := x }).contract l =
      { (s.contract l).restarted with exchange := x } := by
    rw [State.onContract_contract_self, State.farRestart_contract_self]
  obtain ⟨commit, copy, supply, -⟩ := State.closing_released s l Contract.restarted
  obtain ⟨energy, command, -⟩ := State.closing_channel_self s l Contract.restarted
  have scope := oneLineFact l
  refine ⟨?_, ?_, ?_, ?_, ⟨commit, copy, supply⟩, ⟨s.farRestart_engine_self l, command, energy⟩, fun held => ?_,
    (Moves.onContract (Moves.closing (.refl s))).frame⟩
  · rw [record]
    exact ⟨rfl, rfl, rfl, rfl⟩
  · rw [record]
    rfl
  · rw [record]
    exact ⟨rfl, rfl, rfl, rfl, rfl, rfl, rfl, rfl, rfl, rfl, rfl, rfl⟩
  · rw [record]
    exact ⟨rfl, rfl, rfl, rfl⟩
  · have told := State.closing_told (s := s) (l := l) (f := Contract.restarted) (by simp) held
    rw [show ((s.contract l).restarted).lastOutcome = some .endedByFar from if_neg held] at told
    exact told

end Restart

/-! ### The role decided (R49, R50) -/

section Roles
variable {s w t : State} {l : Line} {far : FarFields} {canRecall answering : Bool} {clamp : Option Nat}

/-- R49: a state in which the query of an ANNOUNCE taken in GREETING has been asked, under a line clamp. -/
structure Announced (l : Line) (s w : State) (far : FarFields) (canRecall : Bool) (clamp : Option Nat) : Prop where
  contract : w.contract l = { (s.contract l).greeted.announced far canRecall with lineClamp := clamp }
  engine : (w.engine l).txQueue = (s.engine l).txQueue ∧ (w.engine l).nextId = (s.engine l).nextId ∧
    (w.engine l).accepts = (s.engine l).accepts ∧ (w.engine l).canSend = (s.engine l).canSend
  channel : w.channel l = s.channel l
  blocks : w.budget = s.budget ∧ w.menu = s.menu

/-- R49: an initiating ANNOUNCE is answered. -/
def State.answered (w : State) (l : Line) (answering : Bool) : State :=
  if answering then w else w.hand l ⟨1, w.announce l true⟩

theorem State.answered_leaves (w : State) (l : Line) (answering : Bool) : (w.answered l answering).contract l = w.contract l ∧
    (w.answered l answering).channel l = w.channel l ∧ (w.answered l answering).budget = w.budget ∧
    (w.answered l answering).menu = w.menu ∧ (w.answered l answering).rules = w.rules ∧
    (w.answered l answering).engine l =
      if answering then w.engine l else (w.engine l).hand (Frame.mk 1 (w.announce l true)).chars := by
  unfold State.answered
  split
  · exact ⟨rfl, rfl, rfl, rfl, rfl, rfl⟩
  · exact ⟨rfl, rfl, rfl, rfl, rfl, State.hand_engine_self ..⟩

theorem State.applyAnnounce_of_auto (clamped : Nat) : w.applyAnnounce l answering .auto clamped =
    (w.answered l answering).decideRole l := rfl

theorem State.applyAnnounce_of_clamp (clamped : Nat) : w.applyAnnounce l answering .clamp clamped =
    ((w.onContract l fun c => { c with lineClamp := some clamped }).answered l answering).decideRole l := rfl

theorem State.applyAnnounce_of_refuse (clamped : Nat) : w.applyAnnounce l answering .refuse clamped =
    w.endToBlocked l .refused .refused := rfl

theorem State.applyAnnounce_of_wait (clamped : Nat) : w.applyAnnounce l answering .wait clamped = w := rfl

/-- R50: what the classes and the roles allow. -/
abbrev FarClass.MayDraw (cls : FarClass) (r : RoleSet) : Prop := (cls = .supplier ∨ cls = .both) ∧ r.draw = true
abbrev FarClass.MaySupply (cls : FarClass) (r : RoleSet) : Prop := (cls = .consumer ∨ cls = .both) ∧ r.supply = true

def Contract.awaitsMenu (c : Contract) : Contract := { c.enter .awaitMenu with role := .draw, cursor := ⟨0, 0⟩, waitStreak := 0 }
def Contract.offering (c : Contract) : Contract := { c.enter .offering with role := .supply, cursor := ⟨0, 0⟩, waitStreak := 0 }

theorem State.decideRole_of_draw (known : (w.contract l).far = some far) (draws : far.cls.MayDraw (w.contract l).options.roles) :
    w.decideRole l = w.onContract l Contract.awaitsMenu := by
  unfold State.decideRole
  dsimp only
  rw [known]
  exact if_pos draws

theorem State.decideRole_of_supply (known : (w.contract l).far = some far) (draws : ¬far.cls.MayDraw (w.contract l).options.roles)
    (supplies : far.cls.MaySupply (w.contract l).options.roles) :
    w.decideRole l = (w.onContract l Contract.offering).rebuildMenu l := by
  unfold State.decideRole
  dsimp only
  rw [known]
  exact (if_neg draws).trans (if_pos supplies)

theorem State.decideRole_of_neither (known : (w.contract l).far = some far) (draws : ¬far.cls.MayDraw (w.contract l).options.roles)
    (supplies : ¬far.cls.MaySupply (w.contract l).options.roles) : w.decideRole l = w.endToBlocked l .role .noRole := by
  unfold State.decideRole
  dsimp only
  rw [known]
  exact (if_neg draws).trans (if_neg supplies)

/-- R49: the answer of the device, and a frame behind it. -/
theorem Announced.answered (base : Announced l s w far canRecall clamp) (room : (s.engine l).accepts = true) :
    ((w.answered l true).engine l).txQueue = (s.engine l).txQueue ∧
      ((w.answered l false).engine l).txQueue =
        (s.engine l).txQueue ++ [⟨(s.engine l).nextId, (Frame.mk 1 (s.announce l true)).chars, 0⟩] ∧
      (∀ t : State, ∀ f : Frame, t.engine l = ((w.answered l true).engine l).hand f.chars → Handed l s t f) ∧
      ∀ t : State, ∀ f : Frame, t.engine l = ((w.answered l false).engine l).hand f.chars → (s.engine l).txQueue.length < 3 →
        HandedBoth l s t ⟨1, s.announce l true⟩ f := by
  obtain ⟨contract, ⟨queue, nextId, accepts, canSend⟩, -, budget, -⟩ := base
  obtain ⟨-, -, -, -, -, told⟩ := w.answered_leaves l true
  obtain ⟨-, -, -, -, -, asked⟩ := w.answered_leaves l false
  rw [if_pos rfl] at told
  rw [if_neg Bool.false_ne_true] at asked
  have answer : w.announce l true = s.announce l true := by rw [State.announce, State.announce, contract, budget]; rfl
  have joins : ((w.answered l false).engine l).txQueue =
      (s.engine l).txQueue ++ [⟨(s.engine l).nextId, (Frame.mk 1 (s.announce l true)).chars, 0⟩] := by
    rw [asked, LineEngine.hand_txQueue, accepts, if_pos room, answer, queue, nextId]
  refine ⟨by rw [told, queue], joins, fun t f handed => ?_, fun t f handed short => ?_⟩
  · rw [Handed, handed, told, LineEngine.hand_txQueue, accepts, if_pos room, queue, nextId]
  · have sends : (s.engine l).canSend = true := by
      have both : ((s.engine l).canSend && decide ((s.engine l).txQueue.length < 4)) = true := room
      exact (Bool.and_eq_true_iff.1 both).1
    rw [HandedBoth, handed, LineEngine.hand_txQueue, joins, asked, LineEngine.hand_accepts, canSend, sends, queue, LineEngine.hand_nextId,
      nextId, if_pos (by simp [short]), List.append_assoc]
    rfl

/-- R50, R90: a line in OFFERING as its menu has been built. -/
theorem State.rebuildMenu_offering (offering : (s.contract l).state = .offering) (untripped : (s.channel l).tripped = false) :
    let t := (s.rebuildMenu l).endEvent l
    ((t.contract l).state = .offering ∧ (t.contract l).role = .supply) ∧
      ((t.contract l).far = (s.contract l).far ∧ (t.contract l).farRecall = (s.contract l).farRecall ∧
        (t.contract l).exchange = (s.contract l).exchange ∧ (t.contract l).lineClamp = (s.contract l).lineClamp ∧
        (t.contract l).greetingStopped = (s.contract l).greetingStopped ∧
        (t.contract l).lastOutcome = (s.contract l).lastOutcome) ∧
      (t.contract l).offered = some ⟨s.offers l, (s.offers l).isEmpty⟩ ∧
      (t.channel l).command = ⟨.supply, 250, (s.contract l).options.baseline, false, ⟨false, true, false, false, none⟩⟩ ∧
      t.rules = s.rules ∧ (s.offers l = [] → t.engine l = s.engine l) ∧
      (s.offers l ≠ [] → t.engine l =
        (s.engine l).hand (Frame.mk (s.contract l).tagCounter (.menu true (s.offers l))).chars) := by
  intro t
  obtain ⟨told, -, held, kept⟩ := State.rebuildMenu_rebuilt s l
  have fields : ∀ {α : Type} (F : Contract → α), (∀ c, F { c with offered := none, tagCounter := 0 } = F c) →
      F ((s.rebuildMenu l).contract l) = F (s.contract l) :=
    fun F reads => (reads _).symm.trans ((congrArg F kept).trans (reads _))
  have state : ((s.rebuildMenu l).contract l).state = .offering := (fields Contract.state fun _ => rfl).trans offering
  have after : t.contract l = { (s.rebuildMenu l).contract l with role := .supply } := by
    rw [State.endEvent_contract_self, state]
    rfl
  have command : (t.channel l).command = (t.contract l).path := (State.endEvent_command (by
    rw [State.rebuildMenu_eq]
    exact untripped)).1
  refine ⟨by rw [after]; exact ⟨state, rfl⟩, ?_, by rw [after]; exact told, ?_, ?_, held, fun some => ?_⟩
  · rw [after]
    exact ⟨fields Contract.far fun _ => rfl, fields Contract.farRecall fun _ => rfl, fields Contract.exchange fun _ => rfl,
      fields Contract.lineClamp fun _ => rfl, fields Contract.greetingStopped fun _ => rfl, fields Contract.lastOutcome fun _ => rfl⟩
  · rw [command, after]
    simp [Contract.path, state, fields Contract.options fun _ => rfl, PathCommand.supply]
  · change (s.rebuildMenu l).rules = s.rules
    rw [State.rebuildMenu_eq]
  · change (s.rebuildMenu l).engine l = _
    rw [State.rebuildMenu_of_points some, State.onContract_engine, State.handNew_engine_self]

/-- R50: what the role decision keeps, and where it leads. -/
theorem Announced.roleDecided (base : Announced l s w far canRecall clamp) (room : (s.engine l).accepts = true)
    (untripped : (s.channel l).tripped = false) :
    let t := ((w.answered l answering).decideRole l).endEvent l
    RoleDecided l s t answering far.cls clamp ∧ (t.contract l).far = some far ∧ (t.contract l).farRecall = some canRecall ∧
      (t.contract l).exchange = none ∧ t.rules = w.rules := by
  intro t
  obtain ⟨joins, asked, handed, both⟩ := base.answered room
  obtain ⟨contract, -, channel, budget, menu⟩ := base
  obtain ⟨record, path, sums, offers, rules, -⟩ := w.answered_leaves l answering
  rw [contract] at record
  rw [budget] at sums
  rw [menu] at offers
  have still : ((w.answered l answering).channel l).tripped = false := by rw [path, channel, untripped]
  have known : ((w.answered l answering).contract l).far = some far := by rw [record]; rfl
  have roles : ((w.answered l answering).contract l).options.roles = (s.contract l).options.roles := by rw [record]; rfl
  have queue : answering = true → ((w.answered l answering).engine l).txQueue = (s.engine l).txQueue := fun answer => answer ▸ joins
  have answers : answering = false → ((w.answered l answering).engine l).txQueue =
      (s.engine l).txQueue ++ [⟨(s.engine l).nextId, (Frame.mk 1 (s.announce l true)).chars, 0⟩] := fun ask => ask ▸ asked
  have follows : ∀ u f, u.engine l = ((w.answered l answering).engine l).hand f.chars → (answering = true → Handed l s u f) ∧
      (answering = false → (s.engine l).txQueue.length < 3 → HandedBoth l s u ⟨1, s.announce l true⟩ f) := fun u f joined =>
    ⟨fun answer => handed u f (answer ▸ joined), fun ask => both u f (ask ▸ joined)⟩
  by_cases draws : far.cls.MayDraw (s.contract l).options.roles
  · have ends : t = ((w.answered l answering).onContract l Contract.awaitsMenu).endEvent l :=
      congrArg (State.endEvent · l) (State.decideRole_of_draw known (by rw [roles]; exact draws))
    have after : t.contract l = Contract.awaitsMenu { (s.contract l).greeted.announced far canRecall with lineClamp := clamp } := by
      rw [ends, State.endEvent_contract_self, State.onContract_contract_self, record]
      rfl
    have command : (t.channel l).command = (t.contract l).path := by
      rw [ends]
      exact (State.endEvent_command (s := (w.answered l answering).onContract l Contract.awaitsMenu) still).1
    refine ⟨⟨?_, fun _ => ?_, fun not => absurd draws not, fun not => absurd draws not⟩, ?_⟩
    · rw [after]
      exact ⟨rfl, rfl⟩
    · rw [command, after]
      exact ⟨rfl, rfl, rfl, rfl, rfl, rfl, rfl, fun answer => ends ▸ queue answer, fun ask => ends ▸ answers ask⟩
    · rw [after]
      exact ⟨rfl, rfl, rfl, ends ▸ rules⟩
  · by_cases supplies : far.cls.MaySupply (s.contract l).options.roles
    · obtain ⟨v, offered⟩ : ∃ v, v = (w.answered l answering).onContract l Contract.offering := ⟨_, rfl⟩
      have ends : t = (v.rebuildMenu l).endEvent l := by
        rw [offered]
        exact congrArg (State.endEvent · l) (State.decideRole_of_supply known (by rw [roles]; exact draws)
          (by rw [roles]; exact supplies))
      have before : v.contract l = Contract.offering { (s.contract l).greeted.announced far canRecall with lineClamp := clamp } := by
        rw [offered, State.onContract_contract_self, record]
      have points : v.offers l = s.menu.toList.filterMap fun e =>
          e.offer (capBy (s.budget.supplyHeadroom + s.budget.supplyCommit.get l) clamp) := by
        have room : v.supplyRoom l = capBy (s.budget.supplyHeadroom + s.budget.supplyCommit.get l) clamp := by
          rw [State.supplyRoom, before, show v.budget = s.budget by rw [offered]; exact sums]
          rfl
        rw [State.offers, room, show v.menu = s.menu by rw [offered]; exact offers]
      have side : v.engine l = (w.answered l answering).engine l := by rw [offered]; rfl
      obtain ⟨⟨state, role⟩, kept, told, command, ruled, silent, sends⟩ := State.rebuildMenu_offering (s := v) (l := l)
        (by rw [before]; rfl) (by rw [offered]; exact still)
      rw [← ends, before] at kept
      rw [← ends] at state role told command ruled silent sends
      rw [before] at command sends
      rw [side] at silent sends
      obtain ⟨far', recalls, exchange, clamped, greeting, outcome⟩ := kept
      refine ⟨⟨⟨clamped, greeting⟩, fun may => absurd may draws, fun _ _ => ?_, fun _ may => absurd supplies may⟩, far', recalls,
        exchange, ruled.trans (by rw [offered]; exact rules)⟩
      intro offers'
      rw [show offers' = v.offers l from points.symm]
      exact ⟨state, role, outcome, told, command,
        fun answer => ⟨fun none => by rw [silent none, queue answer], fun some => (follows t _ (sends some)).1 answer⟩,
        fun ask => ⟨fun none => by rw [Handed, silent none, answers ask], fun some => (follows t _ (sends some)).2 ask⟩⟩
    · have ends : t = ((w.answered l answering).endToBlocked l .role .noRole).endEvent l :=
        congrArg (State.endEvent · l) (State.decideRole_of_neither known (by rw [roles]; exact draws) (by rw [roles]; exact supplies))
      have after : t.contract l = { Contract.block (Contract.close { (s.contract l).greeted.announced far canRecall with
          lineClamp := clamp
          tagCounter := (s.contract l).tagCounter + 1 }) with lastOutcome := some .noRole } := by
        rw [ends, State.endEvent_contract_self, State.endToBlocked_contract_self, record]
        rfl
      have command : (t.channel l).command = .opened := by
        have path : (t.contract l).path = .opened := Contract.path_of_uncontracted (by rw [after]; rfl)
        rw [ends] at path ⊢
        exact (State.endEvent_opened path).1
      have engine : t.engine l = ((w.answered l answering).engine l).hand
          (Frame.mk (s.contract l).tagCounter (.ending .role)).chars := by
        rw [ends, (State.endEvent_engines _ _).2, State.endToBlocked_engine_self, record]
        rfl
      refine ⟨⟨?_, fun may => absurd may draws, fun _ may => absurd may supplies, fun _ _ => ?_⟩, ?_⟩
      · rw [after]
        exact ⟨rfl, rfl⟩
      · rw [command, after]
        exact ⟨rfl, rfl, rfl, rfl, follows t _ engine⟩
      · rw [after]
        refine ⟨rfl, rfl, rfl, ?_⟩
        rw [ends]
        exact (State.closing_records ..).1.trans rules

/-- R50: the record, the budget and the notices of a line that becomes a consumer. -/
theorem Announced.drawn (base : Announced l s w far canRecall clamp) (draws : far.cls.MayDraw (s.contract l).options.roles) :
    let t := ((w.answered l answering).decideRole l).endEvent l
    t.contract l = Contract.awaitsMenu { (s.contract l).greeted.announced far canRecall with lineClamp := clamp } ∧
      t.budget = s.budget ∧ t.link.notices = w.link.notices := by
  intro t
  obtain ⟨contract, -, -, budget, -⟩ := base
  obtain ⟨record, -, sums, -⟩ := w.answered_leaves l answering
  rw [contract] at record
  have known : ((w.answered l answering).contract l).far = some far := by rw [record]; rfl
  have roles : ((w.answered l answering).contract l).options.roles = (s.contract l).options.roles := by rw [record]; rfl
  have ends : t = ((w.answered l answering).onContract l Contract.awaitsMenu).endEvent l :=
    congrArg (State.endEvent · l) (State.decideRole_of_draw known (by rw [roles]; exact draws))
  rw [ends]
  refine ⟨?_, sums.trans budget, ?_⟩
  · rw [State.endEvent_contract_self, State.onContract_contract_self, record]
    rfl
  · change (w.answered l answering).link.notices = w.link.notices
    cases answering <;> rfl

/-- R49: an ANNOUNCE that is refused. -/
theorem Announced.refused (base : Announced l s w far canRecall none) (room : (s.engine l).accepts = true) :
    let t := (w.endToBlocked l .refused .refused).endEvent l
    t.contract l = { Contract.block (Contract.close { (s.contract l).greeted.announced far canRecall with
        tagCounter := (s.contract l).tagCounter + 1 }) with lastOutcome := some .refused } ∧
      (t.channel l).command = .opened ∧ Handed l s t ⟨(s.contract l).tagCounter, .ending .refused⟩ := by
  intro t
  obtain ⟨contract, ⟨queue, nextId, accepts, -⟩, -, -⟩ := base
  have after : t.contract l = { Contract.block (Contract.close { (s.contract l).greeted.announced far canRecall with
      tagCounter := (s.contract l).tagCounter + 1 }) with lastOutcome := some .refused } := by
    rw [State.endEvent_contract_self, State.endToBlocked_contract_self, contract]
    rfl
  refine ⟨after, (State.endEvent_opened (Contract.path_of_uncontracted ?_)).1, ?_⟩
  · rw [after]
    rfl
  · rw [Handed, (State.endEvent_engines _ _).2, State.endToBlocked_engine_self, LineEngine.hand_txQueue, accepts, if_pos room,
      queue, nextId, contract]
    rfl

/-- R49: an ANNOUNCE that is answered WAIT leaves the line in GREETING. -/
theorem Announced.waits (base : Announced l s w far canRecall none) (greeting : (s.contract l).state = .greeting) :
    (w.endEvent l).contract l = { (s.contract l).greeted.announced far canRecall with role := .none } := by
  rw [State.endEvent_contract_self, base.contract]
  simp [Contract.announced, Contract.greeted, greeting, roleOf]

theorem Announced.clamped (base : Announced l s w far canRecall none) (n : Nat) :
    Announced l s (w.onContract l fun c => { c with lineClamp := some n }) far canRecall (some n) := by
  obtain ⟨contract, engine, channel, blocks⟩ := base
  exact ⟨by rw [State.onContract_contract_self, contract], engine, channel, blocks⟩

/-- R49: the query of an arriving ANNOUNCE taken in GREETING. -/
theorem State.announceAsked_announced (s : State) (l : Line) (far : FarFields) (canRecall : Bool) :
    let w := ((s.arrived l).onContract l Contract.greeted).announceAsked l far canRecall
    Announced l s w far canRecall none ∧ w.rules = (s.afterQuery (announceQuery l far)).rules := by
  intro w
  obtain ⟨contract, engine, channel, budget, -⟩ :=
    (((s.arrived l).onContract l Contract.greeted).announceAsked_judged l far canRecall).queried.line l
  obtain ⟨queue, nextId, accepts, canSend, -⟩ := s.arrived_engine_self l
  have side : w.engine l = (s.arrived l).engine l := engine
  refine ⟨⟨?_, by rw [side]; exact ⟨queue, nextId, accepts, canSend⟩, channel, budget, ?_⟩, 
    State.afterQuery_rules_congr (s := s) (t := ((s.arrived l).onContract l Contract.greeted).onContract l fun c =>
      c.announced far canRecall) rfl rfl _⟩
  · rw [contract, s.greeted_contract]
    rfl
  · exact (State.afterQuery_setup (((s.arrived l).onContract l Contract.greeted).onContract l fun c => c.announced far canRecall)
      (announceQuery l far)).2.2.2.2.1

end Roles

/-! ### The taking of an ANNOUNCE (R47 to R49) -/

section Taking
variable {s : State} {l : Line} {tag : Tag} {cls : FarClass} {canRecall answering : Bool} {idn : BitVec 32} {lvl : Nat}
  {raw : List Byte} {d : Decision}

/-- R49, R116: an arriving ANNOUNCE in GREETING comes to an action other than FORWARD. -/
theorem execAnnounceReceived_of_action {far : FarFields} {act : Action}
    (arrives : s.Arrives l ⟨tag, .announce far.cls canRecall answering far.identity far.level⟩) (free : (s.contract l).decision = none)
    (greeting : (s.contract l).state = .greeting) (fits : answering = true → (s.contract l).fits .announce tag = true)
    (acts : s.actionOf (announceQuery l far) = act) (decided : act ≠ .forward) : exec (.announceReceived l) s =
      .next (((((s.arrived l).onContract l Contract.greeted).announceAsked l far canRecall).applyAnnounce l answering act
        (s.answerOf (announceQuery l far)).clamp).endEvent l) :=
  (execAnnounceReceived_of_greeting arrives free greeting fits).trans (congrArg (fun t => Host.Outcome.next (State.endEvent t l))
    (State.processAnnounce_of_action (s := (s.arrived l).onContract l Contract.greeted) acts decided))

/-- R48: the ANNOUNCE of a restarted far end is taken as in the GREETING that the restart leaves. -/
theorem takeAnnounce_of_restart (arrives : s.Arrives l ⟨tag, .announce cls canRecall answering idn lvl⟩)
    (restarts : (answering = false ∧ (s.contract l).decision = none ∧ (s.contract l).state ≠ .greeting ∧
        (s.contract l).state ≠ .faulted ∧ ¬((s.contract l).state = .blocked ∧ s.straps.get l = .disabled)) ∨
      (answering = true ∧ (s.contract l).fits .announce tag = true ∧ (s.contract l).state = .baseline ∧
        (s.contract l).unmanaged = true)) :
    takeAnnounce l ⟨tag, .announce cls canRecall answering idn lvl⟩ raw (s.arrived l) =
      ((s.arrived l).farRestart l).processAnnounce l answering ⟨cls, idn, lvl⟩ canRecall raw := by
  have here := s.arrived_contract_self l
  obtain ⟨rfl, free, ungreeted, sane, able⟩ | ⟨rfl, fits, baseline, unmanaged⟩ := restarts
  · have free' : ((s.arrived l).contract l).decision = none := by rw [here]; exact free
    have ungreeted' : ((s.arrived l).contract l).state ≠ .greeting := by rw [here]; exact ungreeted
    have sane' : ((s.arrived l).contract l).state ≠ .faulted := by rw [here]; exact sane
    have able' : ¬(((s.arrived l).contract l).state = .blocked ∧ (s.arrived l).straps.get l = .disabled) := by rw [here]; exact able
    simp only [takeAnnounce, State.supersede_of_none free', if_neg sane', if_neg able', if_neg ungreeted', Bool.false_eq_true, if_false]
  · have fits' := (s.arrived_fits l .announce tag).trans fits
    have closed : ((s.arrived l).closeExchange l).farRestart l = (s.arrived l).farRestart l := State.closing_onContract rfl rfl
    have record : ((s.arrived l).closeExchange l).contract l = { (s.arrived l).contract l with exchange := none } :=
      State.closeExchange_contract_self ..
    have ungreeted : (((s.arrived l).closeExchange l).contract l).state ≠ .greeting := by
      rw [record, here, show (s.contract l).state = .baseline from baseline]
      decide
    have stands : (((s.arrived l).closeExchange l).contract l).state = .baseline ∧
        (((s.arrived l).closeExchange l).contract l).unmanaged = true := by
      rw [record, here]
      exact ⟨baseline, unmanaged⟩
    simp only [takeAnnounce, fits', if_true, if_neg ungreeted, if_pos stands, closed]

theorem execAnnounceReceived_of_restart (arrives : s.Arrives l ⟨tag, .announce cls canRecall answering idn lvl⟩)
    (restarts : (answering = false ∧ (s.contract l).decision = none ∧ (s.contract l).state ≠ .greeting ∧
        (s.contract l).state ≠ .faulted ∧ ¬((s.contract l).state = .blocked ∧ s.straps.get l = .disabled)) ∨
      (answering = true ∧ (s.contract l).fits .announce tag = true ∧ (s.contract l).state = .baseline ∧
        (s.contract l).unmanaged = true)) (x : Option Exchange) (keeps : answering = true → x = (s.contract l).exchange) :
    let restarted := (s.farRestart l).onContract l fun d => { d with exchange := x }
    restarted.Arrives l ⟨tag, .announce cls canRecall answering idn lvl⟩ ∧ (restarted.contract l).state = .greeting ∧
      (restarted.contract l).decision = none ∧ (answering = true → (restarted.contract l).fits .announce tag = true) ∧
      exec (.announceReceived l) s = exec (.announceReceived l) restarted := by
  intro restarted
  have record : restarted.contract l = { (s.contract l).restarted with exchange := x } := by
    rw [State.onContract_contract_self, State.farRestart_contract_self]
  have engine : restarted.engine l = s.engine l := s.farRestart_engine_self l
  have greeting : (restarted.contract l).state = .greeting := by rw [record]; rfl
  have free : (restarted.contract l).decision = none := by rw [record]; rfl
  have arrives' : restarted.Arrives l ⟨tag, .announce cls canRecall answering idn lvl⟩ :=
    ⟨by rw [engine]; exact arrives.1, by rw [engine]; exact arrives.2.1, by rw [greeting]; decide⟩
  have fits : answering = true → (restarted.contract l).fits .announce tag = true := fun answer => by
    obtain ⟨ask, -⟩ | ⟨-, fits, -⟩ := restarts
    · exact nomatch answer.symm.trans ask
    · rw [record, keeps answer]
      exact fits
  refine ⟨arrives', greeting, free, fits, ?_⟩
  rw [execAnnounceReceived_of_greeting arrives' free greeting fits, State.restarted_greeted, engine]
  exact congrArg Host.Outcome.next ((State.deliver_of_arrives (kind := .announce) arrives rfl (takeAnnounce l)).trans
    (congrArg (State.endEvent · l) (takeAnnounce_of_restart arrives restarts)))

/-- R33: an answering ANNOUNCE outside GREETING and the unmanaged BASELINE ends its exchange and is then discarded. -/
theorem takeAnnounce_of_late (fits : (s.contract l).fits .announce tag = true) (ungreeted : (s.contract l).state ≠ .greeting)
    (managed : ¬((s.contract l).state = .baseline ∧ (s.contract l).unmanaged = true)) :
    takeAnnounce l ⟨tag, .announce cls canRecall true idn lvl⟩ raw s = s.closeExchange l := by
  have record : (s.closeExchange l).contract l = { s.contract l with exchange := none } := State.closeExchange_contract_self ..
  have ungreeted' : ((s.closeExchange l).contract l).state ≠ .greeting := by rw [record]; exact ungreeted
  have managed' : ¬(((s.closeExchange l).contract l).state = .baseline ∧ ((s.closeExchange l).contract l).unmanaged = true) := by
    rw [record]
    exact managed
  simp only [takeAnnounce, fits, if_true, if_neg ungreeted', if_neg managed']

theorem takeAnnounce_of_unfit (unfit : (s.contract l).fits .announce tag = false) :
    takeAnnounce l ⟨tag, .announce cls canRecall true idn lvl⟩ raw s = s.stray l := by
  simp [takeAnnounce, unfit]

theorem takeAnnounce_of_faulted (free : (s.contract l).decision = none) (faulted : (s.contract l).state = .faulted) :
    takeAnnounce l ⟨tag, .announce cls canRecall false idn lvl⟩ raw s = s.stray l := by
  simp [takeAnnounce, faulted, State.supersede_of_none free]

/-- R47: the ANNOUNCE of a far end on a line that the straps disable. -/
theorem takeAnnounce_of_disabled (free : (s.contract l).decision = none) (blocked : (s.contract l).state = .blocked)
    (disabled : s.straps.get l = .disabled) : takeAnnounce l ⟨tag, .announce cls canRecall false idn lvl⟩ raw s =
      ((s.onContract l fun c => { c with far := some ⟨cls, idn, lvl⟩, farRecall := some canRecall }).handNew l
        (.ending .role)).record l .noRole := by
  simp [takeAnnounce, State.supersede_of_none free, blocked, disabled]

theorem announce_disabled (arrives : s.Arrives l ⟨tag, .announce cls canRecall false idn lvl⟩)
    (free : (s.contract l).decision = none) (blocked : (s.contract l).state = .blocked) (disabled : s.straps.get l = .disabled)
    (room : (s.engine l).accepts = true) :
    ∃ t, exec (.announceReceived l) s = .next t ∧
      t.contract l = { s.contract l with
        timers := { (s.contract l).timers with greetingDelay := (s.contract l).timers.greetingDelay.map fun _ => s.now + 50 }
        far := some ⟨cls, idn, lvl⟩
        farRecall := some canRecall
        tagCounter := (s.contract l).tagCounter + 1
        lastOutcome := some .noRole
        role := .none } ∧
      Handed l s t ⟨(s.contract l).tagCounter, .ending .role⟩ ∧ t.rules = s.rules ∧ (t.channel l).command = .opened := by
  have here := s.arrived_contract_self l
  obtain ⟨queue, nextId, accepts, -⟩ := s.arrived_engine_self l
  have row : exec (.announceReceived l) s = _ := congrArg Host.Outcome.next
    ((State.deliver_of_arrives (kind := .announce) arrives rfl (takeAnnounce l)).trans (congrArg (State.endEvent · l)
      (takeAnnounce_of_disabled (by rw [here]; exact free) (by rw [here]; exact blocked) disabled)))
  obtain ⟨u, refused⟩ : ∃ u, u = (((s.arrived l).onContract l fun c => { c with
      far := some ⟨cls, idn, lvl⟩
      farRecall := some canRecall }).handNew l (.ending .role)).record l .noRole := ⟨_, rfl⟩
  rw [← refused] at row
  have record : u.contract l = { (s.arrived l).contract l with
      far := some ⟨cls, idn, lvl⟩
      farRecall := some canRecall
      tagCounter := ((s.arrived l).contract l).tagCounter + 1
      lastOutcome := some .noRole } := by
    rw [refused, State.record_contract_self, State.handNew_contract_self, State.onContract_contract_self]
  have joins : u.engine l = ((s.arrived l).engine l).hand (Frame.mk (s.contract l).tagCounter (.ending .role)).chars := by
    rw [refused, State.record_engine, State.handNew_engine_self, State.onContract_contract_self, here]
    rfl
  rw [here] at record
  have after : ((u.endEvent l).contract l).state = .blocked := by
    rw [State.endEvent_contract_self, record]
    exact blocked
  refine ⟨_, row, ?_, ?_, ?_, (State.endEvent_opened (Contract.path_of_uncontracted (by rw [after]; rfl))).1⟩
  · rw [State.endEvent_contract_self, record]
    simp [blocked, roleOf]
  · rw [Handed, (State.endEvent_engines _ _).2, joins, LineEngine.hand_txQueue, accepts, if_pos room, queue, nextId]
  · rw [refused]
    rfl

/-- R37: the states in which a far request is decided are neither FAULTED nor, but for an ANNOUNCE's, the GREETING. -/
theorem Decision.Pends.elsewhere {c : Contract} (pends : d.Pends c) : c.state ≠ .faulted ∧ d.began ≠ .faulted ∧
    (c.state ≠ .greeting → d.began ≠ .greeting ∧ d.began ≠ .blocked) := by
  unfold Decision.Pends at pends
  split at pends
  · obtain ⟨state, began⟩ := pends
    simp [state, began]
  · obtain ⟨state, began | began | began | began | began⟩ := pends <;> simp [state, began]
  · obtain ⟨state, began⟩ | ⟨state, -, began⟩ := pends <;> simp [state, began]

/-- R48, R52: a restart leaves the rule table, the stance and the mode. -/
theorem State.farRestart_actionOf (s : State) (l : Line) (x : Option Exchange) (q : Query) :
    ((s.farRestart l).onContract l fun d => { d with exchange := x }).actionOf q = s.actionOf q := by
  have kept := LinkKept.closing s l Contract.restarted
  obtain ⟨rules, -⟩ := State.closing_records s l Contract.restarted
  have same : SameTable s ((s.farRestart l).onContract l fun d => { d with exchange := x }) :=
    ⟨fun i => congrArg (fun t => { t.get i with hits := 0 }) rules, kept.stance⟩
  have mode : ((s.farRestart l).onContract l fun d => { d with exchange := x }).link.mode = s.link.mode := kept.mode
  simp only [State.actionOf, same.answerOf, mode]

/-- R49, R50: an ANNOUNCE in GREETING that is accepted on a line that may draw. -/
theorem announce_draws {far : FarFields} (arrives : s.Arrives l ⟨tag, .announce far.cls canRecall answering far.identity far.level⟩)
    (free : (s.contract l).decision = none) (greeting : (s.contract l).state = .greeting)
    (fits : answering = true → (s.contract l).fits .announce tag = true) (room : (s.engine l).accepts = true)
    (untripped : (s.channel l).tripped = false) (draws : far.cls.MayDraw (s.contract l).options.roles)
    (accepted : s.actionOf (announceQuery l far) = .auto ∨ s.actionOf (announceQuery l far) = .clamp) :
    ∃ t clamp, exec (.announceReceived l) s = .next t ∧ RoleDecided l s t answering far.cls clamp ∧
      t.contract l = Contract.awaitsMenu { (s.contract l).greeted.announced far canRecall with lineClamp := clamp } ∧
      t.budget = s.budget ∧ ∀ {m time} {body : NoticeBody}, body.kind ≠ .report → s.Told m time body → t.Told m time body := by
  obtain ⟨base, -⟩ := s.announceAsked_announced l far canRecall
  have asked := fun {a} => execAnnounceReceived_of_action (act := a) arrives free greeting fits
  have tells : ∀ {m time} {body : NoticeBody}, body.kind ≠ .report → s.Told m time body →
      (((s.arrived l).onContract l Contract.greeted).announceAsked l far canRecall).Told m time body := fun kind told =>
    State.Told.afterQuery (s := ((s.arrived l).onContract l Contract.greeted).onContract l _) (told.of_notices rfl) kind _
  generalize ((s.arrived l).onContract l Contract.greeted).announceAsked l far canRecall = w at *
  obtain ⟨v, clamp, base, notices, leads⟩ : ∃ v clamp, Announced l s v far canRecall clamp ∧
      v.link.notices = w.link.notices ∧ exec (.announceReceived l) s = .next (((v.answered l answering).decideRole l).endEvent l) := by
    obtain action | action := accepted
    · exact ⟨w, none, base, rfl, asked action (by decide)⟩
    · exact ⟨_, _, base.clamped _, rfl, asked action (by decide)⟩
  obtain ⟨after, budget, kept⟩ := base.drawn (answering := answering) draws
  exact ⟨_, clamp, leads, (base.roleDecided room untripped).1, after, budget, fun kind told =>
    (tells kind told).of_notices (kept.trans notices)⟩

theorem State.closing_supplyCeiling (s : State) (l : Line) (f : Contract → Contract) :
    (s.closing l f).budget.supplyCeiling = s.budget.supplyCeiling := by
  rw [State.closing_eq]
  split <;> simp [State.closed, State.releaseBoth]

end Taking

/-- Settles O34: an ANNOUNCE in GREETING by its query's action, elsewhere by the state it finds, a restart and a superseding
by the state that each leads to. -/
theorem announceDecidesTheRole : Obligations.AnnounceDecidesTheRole := by
  refine ⟨fun l s tag cls canRecall answering idn lvl arrives fits greeting free room untripped => ?_,
    fun l s tag cls canRecall answering idn lvl arrives settled => ?_,
    fun l s canRecall idn lvl arrives contracted free settled draws held room => ?_,
    fun l s tag cls canRecall idn lvl d arrives decided pends => ?_⟩
  · intro q act kept
    obtain ⟨base, rules⟩ := s.announceAsked_announced l ⟨cls, idn, lvl⟩ canRecall
    have acts := fun {a} => execAnnounceReceived_of_action (far := ⟨cls, idn, lvl⟩) (act := a) arrives free greeting fits
    generalize ((s.arrived l).onContract l Contract.greeted).announceAsked l ⟨cls, idn, lvl⟩ canRecall = w at *
    have frame : ∀ {t}, exec (.announceReceived l) s = .next t → LineFrame l s t := fun leads =>
      linesDoNotInterfere (.announceReceived l) l s _ rfl leads
    refine ⟨rfl, fun clamp decides => ?_, fun refuses => ?_, fun waits => ?_⟩
    · obtain ⟨action, rfl⟩ | ⟨action, rfl⟩ := decides
      · have leads := acts action (by decide)
        obtain ⟨decided, far, recalls, exchange, counts⟩ := base.roleDecided (answering := answering) room untripped
        exact ⟨_, leads, ⟨far, recalls, exchange, counts.trans rules, frame leads⟩, decided⟩
      · have leads := acts action (by decide)
        obtain ⟨decided, far, recalls, exchange, counts⟩ := (base.clamped (s.answerOf q).clamp).roleDecided (answering := answering)
          room untripped
        exact ⟨_, leads, ⟨far, recalls, exchange, counts.trans rules, frame leads⟩, decided⟩
    · have leads := acts refuses (by decide)
      rw [State.applyAnnounce_of_refuse] at leads
      obtain ⟨after, path, handed⟩ := base.refused room
      refine ⟨_, leads, ⟨?_, ?_, ?_, (State.closing_records ..).1.trans rules, frame leads⟩, ?_⟩ <;> rw [after]
      · rfl
      · rfl
      · rfl
      · exact ⟨rfl, rfl, rfl, rfl, rfl, handed, path⟩
    · have leads := acts waits (by decide)
      rw [State.applyAnnounce_of_wait] at leads
      have after := base.waits greeting
      refine ⟨_, leads, ⟨?_, ?_, ?_, rules, frame leads⟩, ?_⟩ <;> rw [after]
      · rfl
      · rfl
      · rfl
      · exact ⟨greeting, rfl, rfl, rfl, rfl, rfl, rfl, base.engine.1, base.blocks.1⟩
  · intro c strayed restarted restarts
    have here := s.arrived_contract_self l
    have fits' := s.arrived_fits l .announce tag
    refine ⟨fun restart => ⟨s.farRestart_restarted l _, ?_⟩, fun answer fits ungreeted managed => ?_, fun answer unfit => ?_,
      fun ask free faulted => ?_, fun ask free blocked disabled room => ?_⟩
    · obtain ⟨-, -, -, -, same⟩ := execAnnounceReceived_of_restart arrives restart (if answering then c.exchange else none)
        fun answer => if_pos answer
      exact same
    · subst answer
      exact congrArg Host.Outcome.next (State.deliver_of_still settled arrives rfl (takeAnnounce_of_late (fits'.trans fits)
        (by rw [here]; exact ungreeted) (by rw [here]; exact managed)) ((Still.refl ..).onContract l _))
    · subst answer
      exact congrArg Host.Outcome.next (State.deliver_of_stray settled arrives rfl (takeAnnounce_of_unfit (fits'.trans unfit)))
    · subst ask
      exact congrArg Host.Outcome.next (State.deliver_of_stray settled arrives rfl
        (takeAnnounce_of_faulted (by rw [here]; exact free) (by rw [here]; exact faulted)))
    · subst ask
      obtain ⟨t, row, after, handed, rules, path⟩ := announce_disabled arrives free blocked disabled room
      refine ⟨t, row, ?_, ?_, ?_, ?_, ?_, handed, path, rules, linesDoNotInterfere (.announceReceived l) l s _ rfl row⟩ <;> rw [after]
      exact blocked
  · intro act decides
    obtain ⟨arrives', greeting, free', -, same⟩ := execAnnounceReceived_of_restart arrives (.inl ⟨rfl, free,
      fun state => by simp [state, CState.contracted] at contracted, fun state => by simp [state, CState.contracted] at contracted,
      fun ⟨state, _⟩ => by simp [state, CState.contracted] at contracted⟩) none nofun
    obtain ⟨⟨-, -, -, -⟩, outcome, -, ⟨-, -, -, options⟩, ⟨commit, -, supply⟩, ⟨engine, -, -⟩, told, -⟩ := s.farRestart_restarted l none
    have acts := s.farRestart_actionOf l none ⟨l, .announce, some .supplier, some idn, 0, 0, 0, 0⟩
    have untripped : (((s.farRestart l).onContract l fun d => { d with exchange := none }).channel l).tripped = false :=
      ((State.closing_channel_self s l Contract.restarted).2.2.1).trans settled.1
    have record : ((s.farRestart l).onContract l fun d => { d with exchange := none }).contract l =
        { (s.contract l).restarted with exchange := none } := by
      rw [State.onContract_contract_self, State.farRestart_contract_self]
    have ceiling : ((s.farRestart l).onContract l fun d => { d with exchange := none }).budget.supplyCeiling =
        s.budget.supplyCeiling := State.closing_supplyCeiling s l Contract.restarted
    generalize (s.farRestart l).onContract l (fun d => { d with exchange := none }) = r at *
    have may : FarClass.MayDraw .supplier (r.contract l).options.roles := ⟨.inl rfl, by rw [options]; exact draws⟩
    obtain ⟨t, clamp, leads, decided, after, budget, tells⟩ := announce_draws (far := ⟨.supplier, idn, lvl⟩) arrives' free' greeting
      (fun answer => nomatch answer) (by rw [engine]; exact room) untripped may (by
        rw [show r.actionOf (announceQuery l ⟨.supplier, idn, lvl⟩) = act from acts]
        exact decides)
    obtain ⟨state, role, -, -, -, recorded, -, -, handed⟩ := decided.drawing may
    have answer : r.announce l true = s.announce l true := by rw [State.announce, State.announce, options, ceiling]
    have row := same.trans leads
    refine ⟨t, row, state, role, ?_, ?_, ?_, ?_, ?_, ?_, ?_, ?_, ?_, ?_, linesDoNotInterfere (.announceReceived l) l s _ rfl row⟩
    · rw [after, record]
      rfl
    · rw [after, record]
      rfl
    · rw [after, record]
      rfl
    · exact decided.clamped.2
    · rw [recorded, outcome, if_neg held]
    · rw [after]
      rfl
    · have joins := handed rfl
      rw [Handed, engine, answer] at joins
      exact joins
    · rw [budget]
      exact commit
    · rw [budget]
      exact supply
    · exact tells (by simp [NoticeBody.kind]) (told held)
  · intro left restarted
    obtain ⟨sane, began, ungreeted⟩ := pends.elsewhere
    have superseded : Superseded l s left d := State.supersede_superseded decided
    have state : (left.contract l).state = d.began := State.supersede_state decided
    have same : exec (.announceReceived l) s = exec (.announceReceived l) left := by
      refine congrArg Host.Outcome.next (State.deliver_of_superseding arrives rfl decided pends fun raw t here there => ?_)
      refine takeAnnounce_supersede raw (by rw [here]; exact sane) ?_
      rw [there]
      exact fun faulted => began (state.symm.trans faulted)
    refine ⟨superseded, same, fun away => ⟨left.farRestart_restarted l none, same.trans ?_⟩⟩
    obtain ⟨ungreeted, unblocked⟩ := ungreeted away
    obtain ⟨-, -, -, -, restart⟩ := execAnnounceReceived_of_restart (arrives.superseded decided pends)
      (.inl ⟨rfl, by rw [superseded.record], by rw [state]; exact ungreeted, by rw [state]; exact began,
        fun blocked => unblocked (state.symm.trans blocked.1)⟩) none nofun
    exact restart

end Sys2Proof.Machine
end

section
/-! SUPPORT. Proofs for SAMPLE (R18, R40, R79, R80, R109, R121, R138). -/

namespace Sys2Proof.Machine

/-! ### The step of the counter and the watches (R15, R18, R138) -/

section Watched
variable (s : State) (r : Reading) (tick : Bool)

/-- Section 5: the counter steps before the first sample of a row that steps it. -/
def State.stepped : State := if tick then s.tick else s

/-- R138: the sample has been judged by the channel's watches and has counted the presence run. -/
def State.watched : State :=
  (s.onChannel r.line fun ch => ch.sample (Reading.sample r s.now) (s.contract r.line).options.capped).onEngine r.line fun e =>
    e.watchPresence r.presenceHigh

theorem execSample_one (mid : Option MidRequest) : exec (.sample tick ⟨mid, [r]⟩) s =
    .next (((s.stepped tick).watched r).checkVoltage r.line (Reading.sample r (s.stepped tick).now) mid) := rfl

theorem State.stepped_leaves : let t := s.stepped tick
    t = { s with now := t.now, engines := t.engines } ∧ t.now = (if tick then s.now + 1 else s.now) ∧
      ∀ m, t.engine m = if tick then { s.engine m with watchdog := (s.engine m).watchdog.map fun n => n + 1 } else s.engine m := by
  cases tick with
  | false => exact ⟨rfl, rfl, fun _ => rfl⟩
  | true => exact ⟨rfl, rfl, fun m => Four.get_map ..⟩

theorem LineEngine.watchPresence_eq (e : LineEngine) (high : Bool) : e.watchPresence high = { e with
    presenceLevel := high
    presenceRun := if e.presenceLevel = high then e.presenceRun + 1 else 0 } := by
  unfold LineEngine.watchPresence
  split
  · next same =>
    rw [← same]
  · rfl

theorem Channel.sample_latest (ch : Channel) (x : Sample) (capped : Bool) : (ch.sample x capped).latest = x := by
  cases tripped : ch.tripped with
  | true => rw [Channel.sample_of_tripped tripped]
  | false =>
    cases expired : ch.settleExpired (x.time - 1) with
    | true =>
      rw [Channel.sample_of_expired tripped expired]
      rfl
    | false => rw [Channel.sample_of_judged tripped expired]

theorem State.watched_leaves : let t := s.watched r
    t = { s with channels := t.channels, engines := t.engines } ∧
      t.channel r.line = (s.channel r.line).sample (Reading.sample r s.now) (s.contract r.line).options.capped ∧
      t.engine r.line = (s.engine r.line).watchPresence r.presenceHigh ∧
      ∀ m, m ≠ r.line → t.channel m = s.channel m ∧ t.engine m = s.engine m := by
  refine ⟨rfl, ?_, ?_, fun m other => ⟨?_, ?_⟩⟩
  · simp [State.watched]
  · simp [State.watched]
  · simp [State.watched, State.channel_onChannel, other]
  · simp [State.watched, State.onEngine_engine, other]

end Watched

/-! ### The voltage check (R79, R80) -/

section Check
variable {s : State} {l : Line} {x : Sample} {mid : Option MidRequest} {ready : Time} {a : Agreement}

theorem State.checkVoltage_of_idle (idle : (s.contract l).timers.voltageCheck = none ∨
    ∀ a, (s.contract l).agreement = some a → inWindow 5 a.voltage x.voltage = false) : s.checkVoltage l x mid = s := by
  unfold State.checkVoltage
  dsimp only
  split
  · next ready a check agreement =>
    obtain none | outside := idle
    · exact nomatch check.symm.trans none
    · exact if_neg fun shows => absurd shows.2 (by rw [outside a agreement]; exact Bool.false_ne_true)
  · rfl

theorem State.checkVoltage_of_shown (switching : (s.contract l).state = .switching)
    (check : (s.contract l).timers.voltageCheck = some ready) (agreement : (s.contract l).agreement = some a)
    (shown : inWindow 5 a.voltage x.voltage = true) : s.checkVoltage l x mid = (s.enterActiveDraw l ready mid).endEvent l := by
  simp only [State.checkVoltage, check, agreement]
  exact if_pos ⟨switching, shown⟩

/-- R80: the record as ACTIVE is entered from SWITCHING. -/
def Contract.activeDraw (c : Contract) (ready : Time) : Contract :=
  { c.enter .active with
    timers := { (c.enter .active).timers with renewal := c.agreement.map fun a => ready + BitVec.ofNat 32 (500 * a.lease) }
    lastOutcome := some .done
    paused := c.paused || c.options.holdAfterActive }

/-- R80, R98: the state as ACTIVE is entered from SWITCHING, before a deferred MENU is processed. -/
def State.activeDraw (s : State) (l : Line) (ready : Time) : State :=
  let t := s.onContract l fun c => { c.enter .active with
    timers := { (c.enter .active).timers with renewal := c.agreement.map fun a => ready + BitVec.ofNat 32 (500 * a.lease) } }
  (t.command l (t.contract l).path).nowActive l

theorem State.activeDraw_contract_self (s : State) (l : Line) (ready : Time) :
    (s.activeDraw l ready).contract l = (s.contract l).activeDraw ready := by
  rw [State.activeDraw, State.nowActive_contract_self, State.command_contract, State.onContract_contract_self]
  rfl

theorem State.enterActiveDraw_of_deferred (deferred : ((s.contract l).activeDraw ready).deferred = true)
    (unpaused : ((s.contract l).activeDraw ready).paused = false) :
    s.enterActiveDraw l ready mid = (s.activeDraw l ready).reselect l mid := by
  rw [← s.activeDraw_contract_self] at deferred unpaused
  exact if_pos ⟨deferred, unpaused⟩

theorem State.enterActiveDraw_of_undeferred (undeferred : ¬(((s.contract l).activeDraw ready).deferred = true ∧
    ((s.contract l).activeDraw ready).paused = false)) : s.enterActiveDraw l ready mid = s.activeDraw l ready := by
  rw [← s.activeDraw_contract_self] at undeferred
  exact if_neg undeferred

theorem State.activeDraw_leaves (s : State) (l : Line) (ready : Time) : let t := s.activeDraw l ready
    s.SameSetup t ∧ s.SameEngines t ∧ t.rules = s.rules ∧ s.SameButNotices t ∧ t.budget = s.budget ∧
      t.channel l = (s.channel l).take ((s.contract l).activeDraw ready).path s.now (s.contract l).options.capped ∧
      t.strikes.get l = 0 := by
  intro t
  have path : ((s.contract l).activeDraw ready).path = Contract.path { (s.contract l).enter .active with
    timers := { ((s.contract l).enter .active).timers with
      renewal := (s.contract l).agreement.map fun a => ready + BitVec.ofNat 32 (500 * a.lease) } } := rfl
  rw [path]
  refine ⟨?_, ?_, ?_, ?_, ?_, ?_, State.nowActive_strikes_self ..⟩
  · simp [t, State.SameSetup, State.activeDraw]
  · simp [t, State.SameEngines, State.activeDraw]
  · simp [t, State.activeDraw]
  · simp [t, State.SameButNotices, State.activeDraw]
  · simp [t, State.activeDraw]
  · simp [t, State.activeDraw, Contract.enter]

theorem State.activeDraw_told (draws : (s.contract l).role = .draw) (agreement : (s.contract l).agreement = some a) :
    (s.activeDraw l ready).Told l s.now (.agreed .draw .active (some .done) a.voltage a.current a.lease a.point) := by
  obtain ⟨t, entered⟩ : ∃ t, t = s.onContract l fun c => { c.enter .active with
      timers := { (c.enter .active).timers with
        renewal := c.agreement.map fun a => ready + BitVec.ofNat 32 (500 * a.lease) } } := ⟨_, rfl⟩
  have active : s.activeDraw l ready = (t.command l (t.contract l).path).nowActive l := by rw [entered]; rfl
  have record : (t.command l (t.contract l).path).contract l = t.contract l := by rw [State.command_contract]
  have told := State.nowActive_told (s := t.command l (t.contract l).path) (l := l) (a := a) (by
    rw [record, entered, State.onContract_contract_self]
    exact agreement)
  have role : (t.contract l).role = .draw := by rw [entered, State.onContract_contract_self]; exact draws
  have state : (t.contract l).state = .active := by rw [entered, State.onContract_contract_self]; rfl
  have now : (t.command l (t.contract l).path).now = s.now := by rw [entered]; rfl
  rw [record, role, state, now, ← active] at told
  exact told

/-- R80, R138: a channel that the sample has tripped keeps its command and its trip. -/
theorem State.activeDraw_channel (agreement : (s.contract l).agreement = some a) (draws : (s.contract l).role = .draw) :
    let t := (s.activeDraw l ready).endEvent l
    ((s.channel l).tripped = false → (t.channel l).command =
        ⟨.draw, 0, a.current, true, ⟨true, false, false, false, some a.voltage⟩⟩) ∧
      ((s.channel l).tripped = true → t.channel l = s.channel l) ∧ (t.channel l).latest = (s.channel l).latest := by
  intro t
  obtain ⟨-, -, -, -, -, channel, -⟩ := s.activeDraw_leaves l ready
  have record := s.activeDraw_contract_self l ready
  have after : t.contract l = (s.contract l).activeDraw ready := by
    rw [State.endEvent_contract_self, record]
    rfl
  have path : ((s.contract l).activeDraw ready).path = .draw a.current true (some a.voltage) := by
    simp [Contract.path, Contract.activeDraw, Contract.enter, agreement, draws]
  have drives : ((s.contract l).activeDraw ready).path.form ≠ .opened := by
    rw [path]
    exact nofun
  refine ⟨fun untripped => ?_, fun tripped => ?_, ?_⟩
  · rw [(State.endEvent_command (by rw [channel]; exact (Channel.take_command untripped ..).2)).1, after, path]
    rfl
  · have stays : (s.activeDraw l ready).channel l = s.channel l :=
      channel.trans ((Channel.take_of_tripped tripped _ _).1 _ drives)
    rw [State.channel_endEvent, after, stays]
    exact (Channel.take_of_tripped tripped _ _).1 _ drives
  · rw [State.channel_endEvent, (Channel.take_keeps ..).2.2.2.1, channel, (Channel.take_keeps ..).2.2.2.1]

end Check

section Sampled
variable (s : State) (r : Reading) (tick : Bool)

/-- R18, R138: the state in which a reading has been judged, before its voltage check. -/
def State.sampled : State := (s.stepped tick).watched r

theorem State.sampled_leaves :
    let t := s.sampled r tick
    let now := if tick then s.now + 1 else s.now
    let ran := fun (e : LineEngine) => if tick then { e with watchdog := e.watchdog.map fun n => n + 1 } else e
    t = { s with now := now, channels := t.channels, engines := t.engines } ∧
      t.channel r.line = (s.channel r.line).sample (Reading.sample r now) (s.contract r.line).options.capped ∧
      t.engine r.line = { ran (s.engine r.line) with
        presenceLevel := r.presenceHigh
        presenceRun := if (s.engine r.line).presenceLevel = r.presenceHigh then (s.engine r.line).presenceRun + 1 else 0 } ∧
      ∀ m, m ≠ r.line → t.channel m = s.channel m ∧ t.engine m = ran (s.engine m) := by
  intro t now ran
  obtain ⟨step, time, engines⟩ := s.stepped_leaves tick
  obtain ⟨-, channel, engine, others⟩ := (s.stepped tick).watched_leaves r
  have paths : ∀ m, (s.stepped tick).channel m = s.channel m := fun m => by rw [step]; rfl
  have record : (s.stepped tick).contract r.line = s.contract r.line := by rw [step]; rfl
  rw [time, paths, record] at channel
  refine ⟨by cases tick <;> rfl, channel, ?_,
    fun m other => ⟨(others m other).1.trans (paths m), (others m other).2.trans (engines m)⟩⟩
  · have level : (ran (s.engine r.line)).presenceLevel = (s.engine r.line).presenceLevel ∧
        (ran (s.engine r.line)).presenceRun = (s.engine r.line).presenceRun := by
      cases tick <;> exact ⟨rfl, rfl⟩
    rw [← level.1, ← level.2]
    refine engine.trans ?_
    rw [engines r.line]
    exact LineEngine.watchPresence_eq ..

theorem execSample_sampled (mid : Option MidRequest) : exec (.sample tick ⟨mid, [r]⟩) s =
    .next ((s.sampled r tick).checkVoltage r.line (Reading.sample r (if tick then s.now + 1 else s.now)) mid) := by
  rw [execSample_one, (s.stepped_leaves tick).2.1]
  rfl

theorem State.sampled_transmits : ((s.sampled r tick).engine r.line).txQueue = (s.engine r.line).txQueue ∧
    ((s.sampled r tick).engine r.line).nextId = (s.engine r.line).nextId ∧
    ((s.sampled r tick).engine r.line).accepts = (s.engine r.line).accepts := by
  rw [(s.sampled_leaves r tick).2.2.1]
  cases tick <;> exact ⟨rfl, rfl, rfl⟩

/-- R138: a sample without a step of the counter touches its line alone. -/
theorem State.sampled_moves (stands : tick = false) : Moves (oneLine r.line) s (s.sampled r tick) := by
  subst stands
  have scope := oneLineFact r.line
  change Moves (oneLine r.line) s ((s.onChannel r.line fun ch =>
    ch.sample (Reading.sample r s.now) (s.contract r.line).options.capped).onEngine r.line fun e => e.watchPresence r.presenceHigh)
  refine Moves.onEngine (l := r.line) ((Moves.refl (sc := oneLine r.line) s).onChannel (l := r.line)
    (fun c => (c.sample_sampled ..).allocation) fun c => (c.sample_sampled ..).pends) fun e => ?_
  rw [e.watchPresence_queue]
  exact Nat.le_max_right ..

end Sampled

section Selected
variable {s v t : State} {l : Line} {ready : Time} {marks : List FarPoint} {raw : List Byte} {mid : Option MidRequest}

/-- R67, R109: the points of a deferred MENU are marked as from before the sample. -/
theorem State.activeDraw_alike {w : State} (rules : w.rules = s.rules) (link : w.link = s.link)
    (record : w.contract l = s.contract l) :
    let s0 := (w.activeDraw l ready).onContract l Contract.beginMenu
    AlikeTable s s0 ∧ (s0.contract l).far = (s.contract l).far ∧ (s0.contract l).lineClamp = (s.contract l).lineClamp := by
  intro s0
  obtain ⟨-, -, counts, ⟨receiver, responses, -, -, -, -, stance, -⟩, -⟩ := w.activeDraw_leaves l ready
  have after : s0.contract l = ((w.contract l).activeDraw ready).beginMenu := by
    rw [State.onContract_contract_self, State.activeDraw_contract_self]
  rw [after, record]
  refine ⟨⟨⟨fun i => ?_, ?_⟩, ?_, ?_⟩, rfl, rfl⟩
  · rw [show s0.rules = w.rules from counts, rules]
  · exact stance.trans (congrArg LinkUnit.stance link)
  · exact receiver.trans (congrArg LinkUnit.receiver link)
  · exact responses.trans (congrArg LinkUnit.responses link)

end Selected

/-- Settles O32: a sample by what its watches and its voltage check make of it, and a row by its samples in turn. -/
theorem samplesAreTakenAndJudged : Obligations.SamplesAreTakenAndJudged := by
  refine ⟨fun s r tick => ?_, fun s mid tick r rs u row => ?_, fun s mid => ⟨rfl, rfl⟩⟩
  · intro c now v x judged inside ran
    have row := execSample_sampled s r tick
    obtain ⟨rest, channel, engine, others⟩ := s.sampled_leaves r tick
    obtain ⟨queue, nextId, accepts⟩ := s.sampled_transmits r tick
    have moves : tick = false → Moves (oneLine r.line) s (s.sampled r tick) := s.sampled_moves r tick
    generalize s.sampled r tick = w at *
    have record : w.contract r.line = c := by rw [rest]; rfl
    have outside : ∀ a : Agreement, inWindow 5 a.voltage x.voltage = true ↔ inside a := fun a => inWindow_iff 5 a.voltage v
    refine ⟨fun idle => ⟨w, ?_, ?_⟩, fun ready a switching draws check agreement shown _ => ?_⟩
    · rw [row, State.checkVoltage_of_idle]
      rw [record]
      exact idle.imp_right fun unseen a agreement => Bool.eq_false_iff.2 fun shows => unseen a agreement ((outside a).1 shows)
    · refine ⟨by rw [rest], channel, ?_, ?_, engine, others, ?_⟩
      · rw [channel]
        exact Channel.sample_latest ..
      · rw [channel]
        exact (Channel.sample_sampled ..).command
      · rw [rest]
        exact ⟨rfl, rfl, rfl, rfl, rfl, rfl, rfl, rfl, rfl⟩
    · have blocks : w.now = now ∧ w.rules = s.rules ∧ w.link = s.link ∧ w.prefs = s.prefs ∧ w.budget = s.budget := by
        rw [rest]
        exact ⟨rfl, rfl, rfl, rfl, rfl⟩
      obtain ⟨time, rules, link, prefs, budget⟩ := blocks
      have enters : ∀ mid, exec (.sample tick ⟨mid, [r]⟩) s = .next ((w.enterActiveDraw r.line ready mid).endEvent r.line) := fun mid =>
        (row mid).trans (congrArg Host.Outcome.next (State.checkVoltage_of_shown (by rw [record]; exact switching)
          (by rw [record]; exact check) (by rw [record]; exact agreement) ((outside a).2 shown)))
      obtain ⟨setup, engines, -, -, commitments, -, strikes⟩ := w.activeDraw_leaves r.line ready
      have entered := w.activeDraw_contract_self r.line ready
      have told := State.activeDraw_told (s := w) (l := r.line) (ready := ready) (a := a) (by rw [record]; exact draws)
        (by rw [record]; exact agreement)
      rw [record] at entered
      rw [time] at told
      refine ⟨fun stays => ?_, fun m deferred unpaused unheld menu => ?_⟩
      · have undeferred : ¬(((w.contract r.line).activeDraw ready).deferred = true ∧
            ((w.contract r.line).activeDraw ready).paused = false) := by
          rw [record]
          obtain none | paused | held := stays <;> simp [Contract.activeDraw, Contract.enter, *]
        have leads := enters none
        rw [State.enterActiveDraw_of_undeferred undeferred] at leads
        obtain ⟨commands, keeps, latest⟩ := State.activeDraw_channel (s := w) (l := r.line) (ready := ready) (a := a)
          (by rw [record]; exact agreement) (by rw [record]; exact draws)
        rw [channel] at commands keeps latest
        have after : ((w.activeDraw r.line ready).endEvent r.line).contract r.line = c.activeDraw ready := by
          rw [State.endEvent_contract_self, entered]
          rfl
        refine ⟨_, leads, setup.2.1.trans time, ?_, ?_, ?_, ?_, ?_, ?_, ?_, ?_, commands, keeps, latest.trans (Channel.sample_latest ..),
          strikes, told, fun stands => ?_⟩
        case refine_9 =>
          have scope := oneLineFact r.line
          have framed := (Moves.endEvent (l := r.line) (Moves.enterActiveDraw (l := r.line) (moves stands) ready)).frame
          rwa [State.enterActiveDraw_of_undeferred undeferred] at framed
        all_goals rw [after]
        · rfl
        · exact draws
        · exact agreement
        · rfl
        · rfl
        · exact congrArg (Option.map fun a : Agreement => ready + BitVec.ofNat 32 (500 * a.lease)) agreement
        · rfl
        · rfl
      · intro pts here selects
        have reselects : ∀ mid, exec (.sample tick ⟨mid, [r]⟩) s =
            .next (((w.activeDraw r.line ready).processMenu r.line mid).endEvent r.line) := fun mid => by
          rw [enters mid, State.enterActiveDraw_of_deferred (by rw [record]; exact deferred)
            (by rw [record]; simp [Contract.activeDraw, unpaused, unheld])]
          refine congrArg (fun t => Host.Outcome.next (State.endEvent t r.line)) (if_pos ?_)
          rw [entered]
          exact ⟨draws, congrArg Option.isSome menu, by simp [Contract.activeDraw, unpaused, unheld]⟩
        obtain ⟨alike, far, clamp⟩ := State.activeDraw_alike (s := s) (w := w) (l := r.line) (ready := ready) rules link record
        have stored : ((w.activeDraw r.line ready).contract r.line).farMenu = some m := by rw [entered]; exact menu
        have room : (w.activeDraw r.line ready).budget.drawHeadroom = s.budget.drawHeadroom :=
          congrArg Budget.drawHeadroom (commitments.trans budget)
        have choices : (w.activeDraw r.line ready).prefs = s.prefs := setup.2.2.2.1.trans prefs
        have side : (w.activeDraw r.line ready).engine r.line = w.engine r.line := engines.2 r.line
        have clock : (w.activeDraw r.line ready).now = now := setup.2.1.trans time
        have selected : ∀ {t marks}, SelectionEnded r.line (w.activeDraw r.line ready) t m.raw marks → selects t marks := fun ended => by
          obtain ⟨menu', ⟨deferred', -, -, -, now'⟩, claims, ends, tells⟩ := ended
          have candidates : ∀ marks, (w.activeDraw r.line ready).firstClaim r.line marks = s.firstClaim r.line marks :=
            State.firstClaim_congr (by rw [entered]; rfl) (by rw [entered]; rfl) choices room
          have seen : ClaimSeen r.line here (w.activeDraw r.line ready) := by
            refine ⟨?_, ?_, ?_, ?_, ?_, ?_, ?_, ?_, ?_, clock⟩
            · exact (congrArg LineEngine.txQueue side).trans queue
            · exact (congrArg LineEngine.nextId side).trans nextId
            · exact (congrArg LineEngine.accepts side).trans accepts
            all_goals
              rw [entered]
              rfl
          refine ⟨now'.trans clock, deferred', menu', tells (by simp [NoticeBody.kind]) (by simp [NoticeBody.kind]) told,
            fun k f first => ?_, fun none => ?_⟩
          · obtain ⟨sent, outcome⟩ := claims k f ((candidates _).trans first)
            exact ⟨sent.of_seen seen, outcome.trans (by rw [entered]; rfl)⟩
          · obtain ⟨baseline, draw, outcome, agreement, -, commit, handed, notice⟩ := ends ((candidates _).trans none)
            have role : ((w.activeDraw r.line ready).contract r.line).role = .draw := by rw [entered]; exact draws
            rw [HandedOrDropped, side, queue, nextId, accepts, entered] at handed
            rw [role, clock] at notice
            exact ⟨baseline, draw, outcome, agreement, commit, handed, notice (by decide)⟩
        refine ⟨fun decides => ?_, fun n kind q u _ before request decides => ?_⟩
        · have same := alike.table.markOf far clamp
          obtain ⟨u, judged, filtered⟩ := State.filter_unmarked (pts := pts) (l := r.line)
            (s := (w.activeDraw r.line ready).onContract r.line Contract.beginMenu) fun i p found => by
              rw [(same i p).1]
              exact decides i p found
          rw [show State.markOf _ r.line = s.markOf r.line from funext₂ fun i p => (same i p).2] at filtered
          exact ⟨_, reselects none, selected (State.processMenu_ended stored judged.queried filtered).1⟩
        · obtain ⟨after, queried, answered, filtered⟩ := State.filter_unmarked_of_row alike far clamp before request decides
          obtain ⟨ended, kept, -⟩ := State.processMenu_ended stored queried filtered
          refine ⟨_, reselects _, selected ended, ?_, fun other => ?_, ?_⟩
          · rw [kept.responses, answered.length]
          · rw [kept.responses, answered.responses other]
          · rw [kept.receiver, answered.receiver]
  · obtain rfl := Host.Outcome.next.inj row
    rfl

end Sys2Proof.Machine
end

section
/-! SUPPORT. Proofs for BUDGET_SET (R100, R127, R130, R131, R132). -/

namespace Sys2Proof.Machine

/-! ### Other lines beside a recall (R32, R100) -/

/-- The records and the engines of the other lines stand. -/
def OthersStand (l : Line) (s t : State) : Prop := ∀ m, m ≠ l → t.contract m = s.contract m ∧ t.engine m = s.engine m

section Others
variable {s t u : State} {l : Line}

theorem OthersStand.refl (l : Line) (s : State) : OthersStand l s s := fun _ _ => ⟨rfl, rfl⟩

theorem OthersStand.trans (first : OthersStand l s t) (second : OthersStand l t u) : OthersStand l s u := fun m other =>
  ⟨(second m other).1.trans (first m other).1, (second m other).2.trans (first m other).2⟩

theorem OthersStand.onContract (stands : OthersStand l s t) (f : Contract → Contract) : OthersStand l s (t.onContract l f) :=
  stands.trans fun m other => ⟨by simp [State.onContract_contract, other], rfl⟩

theorem OthersStand.onEngine (stands : OthersStand l s t) (f : LineEngine → LineEngine) : OthersStand l s (t.onEngine l f) :=
  stands.trans fun m other => ⟨rfl, by simp [State.onEngine_engine, other]⟩

theorem OthersStand.sendRequest (stands : OthersStand l s t) (r : Request) : OthersStand l s (t.sendRequest l r) := by
  unfold State.sendRequest
  dsimp only
  split
  · exact (stands.onEngine _).onContract _
  · exact ((stands.onEngine _).onContract _).onContract _

theorem OthersStand.handWaiting (stands : OthersStand l s t) : OthersStand l s (t.handWaiting l) := by
  unfold State.handWaiting
  split
  · exact (stands.onContract _).sendRequest _
  · exact stands

theorem OthersStand.wait (stands : OthersStand l s t) (r : Request) : OthersStand l s (t.wait l r) := by
  unfold State.wait
  refine OthersStand.onContract ?_ _
  split
  · exact stands.onContract _
  · exact stands

theorem OthersStand.originate (stands : OthersStand l s t) (r : Request) : OthersStand l s (t.originate l r) := by
  unfold State.originate
  dsimp only
  split
  · exact stands.handWaiting.sendRequest r
  · exact stands.handWaiting.wait r

theorem OthersStand.recallCause (s : State) (l : Line) (asked : Nat) (cause : RecallCause) :
    OthersStand l s (s.recallCause l asked cause) := by
  have stands := OthersStand.refl l s
  have sends : ∀ level, OthersStand l s (s.sendRecall l level cause) := fun level =>
    ((stands.onContract _).onContract _).originate _
  unfold State.recallCause
  dsimp only
  repeat' split
  · exact stands.onContract _
  · exact stands.onContract _
  · exact sends _
  all_goals exact stands

end Others

/-! ### The recall walk (R131) -/

section Walk
variable {s t : State} {l : Line} {g : GrantEntry}

/-- R131: the walk takes one entry. -/
def State.walkEntry (s : State) (g : GrantEntry) (excess : Nat) : State :=
  if 0 < excess ∧ 0 < s.walkCut g excess then s.recallCause g.line (s.walkLevel g excess) .budget else s

/-- A recall cause touches its line's record and engine alone, and of the record what a RECALL does. -/
theorem State.recallCause_slot (s : State) (l : Line) (asked : Nat) (cause : RecallCause) :
    s.recallCause l asked cause = { s with
        engines := (s.recallCause l asked cause).engines, contracts := (s.recallCause l asked cause).contracts } ∧
      ((s.recallCause l asked cause).contract l).SameButTarget (s.contract l) := by
  have waits : ∀ f : Contract → Option RecallTarget, (s.onContract l fun c => { c with target := f c }) = { s with
        engines := (s.onContract l fun c => { c with target := f c }).engines
        contracts := (s.onContract l fun c => { c with target := f c }).contracts } ∧
      ((s.onContract l fun c => { c with target := f c }).contract l).SameButTarget (s.contract l) := fun f =>
    ⟨rfl, by rw [State.onContract_contract_self]; rfl⟩
  unfold State.recallCause
  dsimp only
  repeat' split
  · exact waits _
  · exact waits _
  · obtain ⟨rest, record, -⟩ := s.sendRecall_slot l _ cause
    exact ⟨rest, record⟩
  all_goals exact ⟨rfl, rfl⟩

/-- R100: a recall cause that finds no supplying line is dropped. -/
theorem State.recallCause_of_idle {asked : Nat} {cause : RecallCause} (idle : (s.contract l).state ≠ .powering)
    (inactive : (s.contract l).state ≠ .active) : s.recallCause l asked cause = s := by
  unfold State.recallCause
  dsimp only
  rw [if_neg idle, if_neg fun active => inactive active.1]

theorem State.recallWalk_cons (s : State) (g : GrantEntry) (gs : List GrantEntry) (excess : Nat) :
    s.recallWalk (g :: gs) excess = (s.walkEntry g excess).recallWalk gs (excess - s.walkCut g excess) := by
  by_cases done : excess = 0
  · subst done
    have stops : ∀ (gs : List GrantEntry) (t : State), t.recallWalk gs 0 = t := fun gs t => by cases gs <;> rfl
    rw [stops, Nat.zero_sub, stops]
    exact (if_neg fun walks => absurd walks.1 (Nat.lt_irrefl 0)).symm
  · have walks : s.walkEntry g excess = if 0 < s.walkCut g excess then s.recallCause g.line (s.walkLevel g excess) .budget else s := by
      simp [State.walkEntry, Nat.pos_of_ne_zero done]
    rw [walks]
    exact if_neg done

theorem State.walkEntry_slot (s : State) (g : GrantEntry) (excess : Nat) : OthersStand g.line s (s.walkEntry g excess) ∧
    s.walkEntry g excess = { s with
        engines := (s.walkEntry g excess).engines, contracts := (s.walkEntry g excess).contracts } ∧
      ((s.walkEntry g excess).contract g.line).SameButTarget (s.contract g.line) := by
  unfold State.walkEntry
  split
  · exact ⟨OthersStand.recallCause s g.line _ _, s.recallCause_slot ..⟩
  · exact ⟨OthersStand.refl g.line s, rfl, rfl⟩

/-- R131: the walk keeps every option and every state. -/
theorem State.walkEntry_kept (s : State) (g : GrantEntry) (excess : Nat) (m : Line) :
    ((s.walkEntry g excess).contract m).options = (s.contract m).options ∧
      ((s.walkEntry g excess).contract m).state = (s.contract m).state := by
  obtain ⟨others, -, record⟩ := s.walkEntry_slot g excess
  by_cases here : m = g.line
  · subst here
    obtain ⟨state, -, -, -, -, -, -, options, -⟩ := record.fields
    exact ⟨options, state⟩
  · rw [(others m here).1]
    exact ⟨rfl, rfl⟩

theorem State.walkCut_congr (options : ∀ m, (t.contract m).options = (s.contract m).options) (g : GrantEntry) (excess : Nat) :
    t.walkLevel g excess = s.walkLevel g excess ∧ t.walkCut g excess = s.walkCut g excess := by
  have level : t.walkLevel g excess = s.walkLevel g excess := by rw [State.walkLevel, State.walkLevel, options]
  exact ⟨level, by rw [State.walkCut, State.walkCut, level]⟩

theorem State.walkLeft_congr (options : ∀ m, (t.contract m).options = (s.contract m).options) (gs : List GrantEntry) (excess : Nat) :
    t.walkLeft gs excess = s.walkLeft gs excess :=
  congrArg (fun f => gs.foldl f excess) (funext₂ fun left g => by rw [(State.walkCut_congr options g left).2])

/-- R131: what a walk leaves of the part, and of the lines that it does not pass. -/
theorem State.recallWalk_leaves (gs : List GrantEntry) (s : State) (excess : Nat) :
    s.recallWalk gs excess = { s with
        engines := (s.recallWalk gs excess).engines, contracts := (s.recallWalk gs excess).contracts } ∧
      (∀ m, ((s.recallWalk gs excess).contract m).options = (s.contract m).options ∧
        ((s.recallWalk gs excess).contract m).state = (s.contract m).state) ∧
      ∀ m, (∀ g ∈ gs, g.line ≠ m) → (s.recallWalk gs excess).contract m = s.contract m ∧
        (s.recallWalk gs excess).engine m = s.engine m := by
  induction gs generalizing s excess with
  | nil => exact ⟨rfl, fun _ => ⟨rfl, rfl⟩, fun _ _ => ⟨rfl, rfl⟩⟩
  | cons g gs ih =>
    obtain ⟨rest, kept, aside⟩ := ih (s.walkEntry g excess) (excess - s.walkCut g excess)
    obtain ⟨others, entry, -⟩ := s.walkEntry_slot g excess
    rw [State.recallWalk_cons]
    refine ⟨?_, fun m => ?_, fun m outside => ?_⟩
    · rw [entry] at rest
      rw [entry]
      exact rest
    · rw [(kept m).1, (kept m).2]
      exact s.walkEntry_kept g excess m
    · obtain ⟨contract, engine⟩ := aside m fun e mem => outside e (List.mem_cons_of_mem _ mem)
      obtain ⟨contract', engine'⟩ := others m (Ne.symm (outside g List.mem_cons_self))
      exact ⟨contract.trans contract', engine.trans engine'⟩

/-- R131: the walk comes to an entry with the excess that the newer ones leave. -/
theorem State.recallWalk_append (newer older : List GrantEntry) (s : State) (excess : Nat) :
    s.recallWalk (newer ++ older) excess = (s.recallWalk newer excess).recallWalk older (s.walkLeft newer excess) := by
  induction newer generalizing s excess with
  | nil => rfl
  | cons g newer ih =>
    rw [List.cons_append, State.recallWalk_cons, State.recallWalk_cons, ih,
      State.walkLeft_congr fun m => (s.walkEntry_kept g excess m).1]
    rfl

/-- R131: the walk at one entry of distinct lines: the line's own step, and no other. -/
theorem State.recallWalk_at {newer older : List GrantEntry} {excess : Nat}
    (apart : ∀ e ∈ newer ++ older, e.line ≠ g.line) :
    ∃ u : State, u.contract g.line = s.contract g.line ∧ u.engine g.line = s.engine g.line ∧
      (s.recallWalk (newer ++ g :: older) excess).contract g.line = (u.walkEntry g (s.walkLeft newer excess)).contract g.line ∧
      (s.recallWalk (newer ++ g :: older) excess).engine g.line = (u.walkEntry g (s.walkLeft newer excess)).engine g.line := by
  obtain ⟨-, -, aside⟩ := State.recallWalk_leaves newer s excess
  obtain ⟨contract, engine⟩ := aside g.line fun e mem => apart e (List.mem_append_left _ mem)
  refine ⟨s.recallWalk newer excess, contract, engine, ?_⟩
  rw [State.recallWalk_append, State.recallWalk_cons]
  exact (State.recallWalk_leaves older _ _).2.2 g.line fun e mem => apart e (List.mem_append_right _ mem)

/-- R131: a line that does not supply is passed by. -/
theorem State.recallWalk_of_idle (gs : List GrantEntry) (excess : Nat) (idle : (s.contract l).state ≠ .powering)
    (inactive : (s.contract l).state ≠ .active) : (s.recallWalk gs excess).contract l = s.contract l ∧
      (s.recallWalk gs excess).engine l = s.engine l := by
  induction gs generalizing s excess with
  | nil => exact ⟨rfl, rfl⟩
  | cons g gs ih =>
    have entry : (s.walkEntry g excess).contract l = s.contract l ∧ (s.walkEntry g excess).engine l = s.engine l := by
      by_cases here : l = g.line
      · subst here
        unfold State.walkEntry
        rw [State.recallCause_of_idle idle inactive, ite_self]
        exact ⟨rfl, rfl⟩
      · exact (s.walkEntry_slot g excess).1 l here
    obtain ⟨contract, engine⟩ := ih (s := s.walkEntry g excess) (excess - s.walkCut g excess) (by rw [entry.1]; exact idle)
      (by rw [entry.1]; exact inactive)
    rw [State.recallWalk_cons]
    exact ⟨contract.trans entry.1, engine.trans entry.2⟩

end Walk

/-! ### What a re-selection keeps (R84, R132) -/

/-- The blocks that a selection does not touch stand, and no RESPONSE joins. -/
structure PartKept (s t : State) : Prop where
  setup : s.SameSetup t
  records : t.captures = s.captures ∧ t.strikes = s.strikes
  responses : t.link.responses = s.link.responses

section Kept
variable {s t u : State} {l : Line}

theorem PartKept.refl (s : State) : PartKept s s := ⟨⟨rfl, rfl, rfl, rfl, rfl, rfl⟩, ⟨rfl, rfl⟩, rfl⟩

theorem PartKept.trans (first : PartKept s t) (second : PartKept t u) : PartKept s u := by
  obtain ⟨⟨pending, now, straps, prefs, menu, free⟩, ⟨captures, strikes⟩, responses⟩ := first
  obtain ⟨⟨pending', now', straps', prefs', menu', free'⟩, ⟨captures', strikes'⟩, responses'⟩ := second
  exact ⟨⟨pending'.trans pending, now'.trans now, straps'.trans straps, prefs'.trans prefs, menu'.trans menu, free'.trans free⟩,
    ⟨captures'.trans captures, strikes'.trans strikes⟩, responses'.trans responses⟩

theorem PartKept.judged (judged : Judged s t) : PartKept s t := by
  obtain ⟨-, responses, -⟩ := judged.link
  rw [judged.queried.rest]
  exact ⟨⟨rfl, rfl, rfl, rfl, rfl, rfl⟩, ⟨rfl, rfl⟩, responses⟩

theorem PartKept.select (s : State) (l : Line) (k : Cursor) : PartKept s (s.select l k) := by
  obtain ⟨n, f, claims⟩ | ends := s.select_cases l k
  · rw [claims]
    exact ⟨s.sendClaim_setup l n f, (s.sendClaim_records l n f).2, (s.sendClaim_sameButNotices l n f).2.1⟩
  · rw [ends]
    exact ⟨s.noSuitablePoint_setup l, (s.noSuitablePoint_records l).2,
      (LinkKept.closing (s.handNew l (.ending .noSuitablePoint)) l _).responses⟩

/-- R67: whatever the queries answer, the filtering asks them and does nothing else. -/
theorem State.filter_judged (s : State) (i : Nat) (ps : List FarPoint) :
    ∃ u marks a, State.filter l none s i ps = (u, marks, a) ∧ Judged s u := by
  induction ps generalizing s i with
  | nil => exact ⟨s, [], none, rfl, .refl s⟩
  | cons p ps ih =>
    obtain ⟨t, judged, stops, marked⟩ := s.filter_cons (l := l) none i p ps
    by_cases forwards : (s.pointAnswer l p.point i).action = .forward
    · exact ⟨_, _, _, stops forwards, judged⟩
    · obtain ⟨u, marks, a, rest, judged'⟩ := ih t (i + 1)
      refine ⟨u, s.markOf l i p.point :: marks, a, (marked forwards).trans ?_, judged.trans judged'⟩
      rw [rest]
      rfl

theorem PartKept.onContract (kept : PartKept s t) (f : Contract → Contract) : PartKept s (t.onContract l f) :=
  kept.trans ⟨⟨rfl, rfl, rfl, rfl, rfl, rfl⟩, ⟨rfl, rfl⟩, rfl⟩

theorem PartKept.processMenu (s : State) (l : Line) : PartKept s (s.processMenu l none) := by
  have begun : PartKept s (s.onContract l Contract.beginMenu) := (PartKept.refl s).onContract _
  cases menu : (s.contract l).farMenu with
  | none =>
    have absent : ((s.onContract l Contract.beginMenu).contract l).farMenu = none := by
      rw [State.onContract_contract_self, Contract.beginMenu, menu]
      rfl
    unfold State.processMenu
    simp only [absent]
    exact begun
  | some m =>
    obtain ⟨u, marks, answer, filtered, judged⟩ := State.filter_judged (l := l) (s.onContract l Contract.beginMenu) 0
      (unmarked (m.points.map FarPoint.point))
    have asked : PartKept s u := begun.trans (.judged judged)
    cases answer with
    | none =>
      rw [State.processMenu_of_filtered menu filtered]
      exact (asked.onContract _).trans (.select ..)
    | some a =>
      cases mode : u.link.mode with
      | autonomous =>
        rw [State.processMenu_of_fallback menu mode filtered]
        exact (asked.onContract _).trans (.select ..)
      | running =>
        have still : (u.onContract l fun c => { c with farMenu := some ⟨m.raw, marks⟩ }).link.mode = .running := mode
        unfold State.processMenu
        simp only [State.beginMenu_menu menu, filtered, still]
        exact asked.trans ⟨⟨rfl, rfl, rfl, rfl, rfl, rfl⟩, ⟨rfl, rfl⟩, rfl⟩

theorem PartKept.passReselect (s : State) (l : Line) : PartKept s (s.passReselect l) := by
  unfold State.passReselect
  split
  · refine PartKept.trans ?_ ⟨State.endEvent_setup .., (State.endEvent_records ..).2, rfl⟩
    unfold State.reselect
    dsimp only
    split
    · exact .processMenu s l
    · exact .refl s
  · exact .refl s

theorem PartKept.passReselects (ls : List Line) (s : State) : PartKept s (ls.foldl State.passReselect s) := by
  induction ls generalizing s with
  | nil => exact .refl s
  | cons m ls ih => exact (PartKept.passReselect s m).trans (ih _)

end Kept

/-! ### A BASELINE line selects again (R132) -/

section Reselecting
variable {s : State} {l : Line} {m : FarMenu}

theorem Contract.SameButOffer.state {c d : Contract} (same : c.SameButOffer d) : c.state = d.state := by
  unfold Contract.SameButOffer at same
  have state := congrArg Contract.state same
  exact state

theorem State.passReselect_of_elsewhere (elsewhere : (s.contract l).state ≠ .baseline) : s.passReselect l = s := if_neg elsewhere

theorem State.passReselect_frame (s : State) (l : Line) : LineFrame l s (s.passReselect l) := by
  have scope := oneLineFact l
  unfold State.passReselect
  split
  · exact (Moves.endEvent (Moves.reselect (.refl s))).frame
  · exact (Moves.refl (sc := oneLine l) s).frame

/-- R132: a re-selection leaves the state of every other line. -/
theorem State.passReselect_others (s : State) {l o : Line} (other : o ≠ l) :
    ((s.passReselect l).contract o).state = (s.contract o).state :=
  ((s.passReselect_frame l).waiting o other).1.state

theorem State.passReselects_ceilings (ls : List Line) (s : State) :
    (ls.foldl State.passReselect s).budget.inputCeiling = s.budget.inputCeiling ∧
      (ls.foldl State.passReselect s).budget.supplyCeiling = s.budget.supplyCeiling ∧
      (ls.foldl State.passReselect s).budget.rank = s.budget.rank := by
  induction ls generalizing s with
  | nil => exact ⟨rfl, rfl, rfl⟩
  | cons l ls ih =>
    obtain ⟨input, supply, rank⟩ := (s.passReselect_frame l).ceilings
    obtain ⟨input', supply', rank'⟩ := ih (s.passReselect l)
    exact ⟨input'.trans input, supply'.trans supply, rank'.trans rank⟩

/-- R132: where one line alone stands in BASELINE, it alone selects again. -/
theorem State.passReselects_at {ls : List Line} (once : ls.Nodup) (ranked : l ∈ ls)
    (elsewhere : ∀ o, o ≠ l → (s.contract o).state ≠ .baseline) : ls.foldl State.passReselect s = s.passReselect l := by
  have silent : ∀ (ls : List Line) (u : State), l ∉ ls → (∀ o, o ≠ l → (u.contract o).state ≠ .baseline) →
      ls.foldl State.passReselect u = u := fun ls => by
    induction ls with
    | nil => exact fun _ _ _ => rfl
    | cons o ls ih =>
      intro u outside away
      obtain ⟨other, rest⟩ := not_or.mp (List.mem_cons.not.mp outside)
      rw [List.foldl_cons, State.passReselect_of_elsewhere (away o (Ne.symm other))]
      exact ih u rest away
  obtain ⟨before, after, rfl⟩ := List.append_of_mem ranked
  rw [List.nodup_middle, List.nodup_cons, List.mem_append, not_or] at once
  obtain ⟨⟨notBefore, notAfter⟩, -⟩ := once
  rw [List.foldl_append, silent before s notBefore elsewhere, List.foldl_cons]
  exact silent after _ notAfter fun o other => by
    rw [State.passReselect_others s other]
    exact elsewhere o other

theorem State.passReselect_ended (baseline : (s.contract l).state = .baseline) (draws : (s.contract l).role = .draw)
    (menu : (s.contract l).farMenu = some m) (unpaused : (s.contract l).paused = false)
    (decides : s.NoForward l (m.points.map FarPoint.point)) : SelectionEnded l s (s.passReselect l) m.raw
      ((m.points.map FarPoint.point).mapIdx (s.markOf l)) := by
  have selects : s.passReselect l = (s.reselect l none).endEvent l := if_pos baseline
  rw [selects]
  exact (State.reselect_ended draws menu unpaused decides).1

end Reselecting

/-! ### The ceilings stored (R130) -/

section Ceilings
variable {s : State} {input supply : Nat} {rank : List Line}

/-- R130: the ceilings and the rank stored, and the allocations computed again. -/
def State.ceilingsStored (s : State) (input supply : Nat) (rank : List Line) : State :=
  (s.setBudget { s.budget with inputCeiling := input, supplyCeiling := supply, rank := rank }).reallocate

/-- R130, R131: the state after the recall walk. -/
def State.ceilingsWalked (s : State) (input supply : Nat) (rank : List Line) : State :=
  (s.ceilingsStored input supply rank).recallWalk s.budget.order.reverse
    ((s.budget.order.map GrantEntry.commitment).sum - supply)

/-- R127, R130: the state after a rise of the supply headroom has been passed on. -/
def State.ceilingsRaised (s : State) (input supply : Nat) (rank : List Line) : State :=
  (s.ceilingsWalked input supply rank).passRise s.budget.supplyHeadroom

theorem State.setCeilings_eq : s.setCeilings input supply rank = if s.budget.inputCeiling < input then
    rank.foldl State.passReselect (s.ceilingsRaised input supply rank) else s.ceilingsRaised input supply rank := by
  have order : (s.ceilingsStored input supply rank).budget.order = s.budget.order := by simp [State.ceilingsStored]
  have excess : (s.ceilingsStored input supply rank).budget.committedSupply - (s.ceilingsStored input supply rank).budget.supplyCeiling =
      (s.budget.order.map GrantEntry.commitment).sum - supply := by
    simp [State.ceilingsStored, Budget.resum]
  rw [State.ceilingsRaised, State.ceilingsWalked, ← excess, ← order]
  rfl

theorem State.ceilingsStored_leaves (s : State) (input supply : Nat) (rank : List Line) :
    let t := s.ceilingsStored input supply rank
    PartKept s t ∧ s.SameContracts t ∧ s.SameEngines t ∧ t.rules = s.rules ∧ t.link.stance = s.link.stance ∧
      t.budget.inputCeiling = input ∧ t.budget.supplyCeiling = supply ∧ t.budget.rank = rank ∧
      t.budget.supplyCommit = s.budget.supplyCommit ∧
      t.budget.drawHeadroom = input - (s.budget.drawCommit.l0 + s.budget.drawCommit.l1 + s.budget.drawCommit.l2 + s.budget.drawCommit.l3) ∧
      t.budget.supplyHeadroom = supply - (s.budget.order.map GrantEntry.commitment).sum := by
  intro t
  refine ⟨⟨?_, ?_, ?_⟩, ?_, ?_, ?_, ?_, ?_⟩
  · simp [t, State.SameSetup, State.ceilingsStored]
  · simp [t, State.ceilingsStored]
  · simp [t, State.ceilingsStored]
  · simp [t, State.SameContracts, State.ceilingsStored]
  · simp [t, State.SameEngines, State.ceilingsStored]
  · simp [t, State.ceilingsStored]
  · simp [t, State.ceilingsStored]
  · simp [t, State.ceilingsStored, Budget.resum]

/-- R127, R131: what the steps before a re-selection leave of the part. -/
theorem State.ceilingsRaised_leaves (s : State) (input supply : Nat) (rank : List Line) :
    let t := s.ceilingsRaised input supply rank
    PartKept s t ∧ t.rules = s.rules ∧ t.link.stance = s.link.stance ∧
      t.budget = (s.ceilingsStored input supply rank).budget := by
  intro t
  obtain ⟨kept, -, -, rules, stance, -⟩ := s.ceilingsStored_leaves input supply rank
  obtain ⟨walk, -⟩ := State.recallWalk_leaves s.budget.order.reverse (s.ceilingsStored input supply rank)
    ((s.budget.order.map GrantEntry.commitment).sum - supply)
  have walked : s.ceilingsWalked input supply rank = { s.ceilingsStored input supply rank with
      engines := (s.ceilingsWalked input supply rank).engines
      contracts := (s.ceilingsWalked input supply rank).contracts } := walk
  have raised : t = { s.ceilingsStored input supply rank with engines := t.engines, contracts := t.contracts } :=
    ((s.ceilingsWalked input supply rank).passRise_eq s.budget.supplyHeadroom).trans
      ((congrArg (fun u : State => { u with engines := t.engines, contracts := t.contracts }) walked).trans rfl)
  rw [raised]
  exact ⟨kept.trans ⟨⟨rfl, rfl, rfl, rfl, rfl, rfl⟩, ⟨rfl, rfl⟩, rfl⟩, rules, stance, rfl⟩

/-- R131: a ceiling that the committed supply does not exceed recalls nothing. -/
theorem State.ceilingsWalked_of_fit (fits : (s.budget.order.map GrantEntry.commitment).sum ≤ supply) :
    s.ceilingsWalked input supply rank = s.ceilingsStored input supply rank := by
  rw [State.ceilingsWalked, Nat.sub_eq_zero_of_le fits]
  cases s.budget.order.reverse <;> rfl

/-- R127: a headroom that has not risen is not passed on. -/
theorem State.ceilingsRaised_of_fall (falls : supply - (s.budget.order.map GrantEntry.commitment).sum ≤ s.budget.supplyHeadroom) :
    s.ceilingsRaised input supply rank = s.ceilingsWalked input supply rank := by
  obtain ⟨walk, -⟩ := State.recallWalk_leaves s.budget.order.reverse (s.ceilingsStored input supply rank)
    ((s.budget.order.map GrantEntry.commitment).sum - supply)
  have room : (s.ceilingsWalked input supply rank).budget.supplyHeadroom = supply - (s.budget.order.map GrantEntry.commitment).sum := by
    rw [State.ceilingsWalked, walk]
    exact (s.ceilingsStored_leaves input supply rank).2.2.2.2.2.2.2.2.2.2
  refine if_neg ?_
  rw [room]
  exact Nat.not_lt.2 falls

/-- R131: a line that does not supply and holds no offer keeps its record and its engine. -/
theorem State.ceilingsRaised_line {l : Line} (idle : (s.contract l).state ≠ .powering) (inactive : (s.contract l).state ≠ .active)
    (elsewhere : (s.contract l).state ≠ .offering) : (s.ceilingsRaised input supply rank).contract l = s.contract l ∧
      (s.ceilingsRaised input supply rank).engine l = s.engine l := by
  obtain ⟨-, contracts, engines, -⟩ := s.ceilingsStored_leaves input supply rank
  obtain ⟨contract, engine⟩ := State.recallWalk_of_idle (s := s.ceilingsStored input supply rank) (l := l) s.budget.order.reverse
    ((s.budget.order.map GrantEntry.commitment).sum - supply) (by rw [contracts.2]; exact idle) (by rw [contracts.2]; exact inactive)
  obtain ⟨contract', engine'⟩ := State.passRise_line (s := s.ceilingsWalked input supply rank) (m := l)
    (Contract.awaitsRise_of_state (by
      rw [State.ceilingsWalked, contract, contracts.2]
      exact elsewhere)) s.budget.supplyHeadroom
  exact ⟨contract'.trans (contract.trans (contracts.2 l)), engine'.trans (engine.trans (engines.2 l))⟩

theorem State.ceilingsRaised_state (s : State) (input supply : Nat) (rank : List Line) (m : Line) :
    ((s.ceilingsRaised input supply rank).contract m).state = (s.contract m).state := by
  obtain ⟨-, contracts, -⟩ := s.ceilingsStored_leaves input supply rank
  obtain ⟨-, walked, -⟩ := State.recallWalk_leaves s.budget.order.reverse (s.ceilingsStored input supply rank)
    ((s.budget.order.map GrantEntry.commitment).sum - supply)
  have raised := (((Moves.refl (sc := fun _ => False) (s.ceilingsWalked input supply rank)).passRise
    s.budget.supplyHeadroom).outside (m := m) not_false).waiting.1.state
  exact raised.trans ((walked m).2.trans (congrArg Contract.state (contracts.2 m)))

/-- R131: where no rise follows, the walk is the last that a line without a re-selection sees. -/
theorem State.ceilingsWalked_at {g : GrantEntry} {older newer : List GrantEntry} (order : s.budget.order = older ++ g :: newer)
    (apart : (s.budget.order.map GrantEntry.line).Nodup) :
    ∃ u : State, u.contract g.line = s.contract g.line ∧ u.engine g.line = s.engine g.line ∧
      (s.ceilingsWalked input supply rank).contract g.line = (u.walkEntry g
        (s.walkLeft newer.reverse ((s.budget.order.map GrantEntry.commitment).sum - supply))).contract g.line ∧
      (s.ceilingsWalked input supply rank).engine g.line = (u.walkEntry g
        (s.walkLeft newer.reverse ((s.budget.order.map GrantEntry.commitment).sum - supply))).engine g.line := by
  obtain ⟨-, contracts, engines, -⟩ := s.ceilingsStored_leaves input supply rank
  have others : ∀ e ∈ newer.reverse ++ older.reverse, e.line ≠ g.line := fun e mem same => by
    rw [order, List.map_append, List.map_cons, List.nodup_middle, List.nodup_cons, List.mem_append] at apart
    refine apart.1 ?_
    rw [← same]
    obtain mem | mem := List.mem_append.1 mem
    · exact .inr (List.mem_map_of_mem (List.mem_reverse.1 mem))
    · exact .inl (List.mem_map_of_mem (List.mem_reverse.1 mem))
  obtain ⟨u, contract, engine, after, queue⟩ := State.recallWalk_at (s := s.ceilingsStored input supply rank) (g := g)
    (excess := (s.budget.order.map GrantEntry.commitment).sum - supply) others
  rw [State.walkLeft_congr (s := s) fun m => by rw [contracts.2]] at after queue
  refine ⟨u, contract.trans (contracts.2 _), engine.trans (engines.2 _), ?_⟩
  have reversed : s.budget.order.reverse = newer.reverse ++ g :: older.reverse := by rw [order]; simp
  rw [State.ceilingsWalked, reversed]
  exact ⟨after, queue⟩

end Ceilings

/-! ### One entry of the walk (R100, R131) -/

section Entry
variable {s t u : State} {g : GrantEntry} {excess : Nat} {a : Agreement}

theorem State.walkEntry_of_passed (passed : excess = 0 ∨ s.walkCut g excess = 0) : s.walkEntry g excess = s :=
  if_neg fun walks => by
    obtain none | none := passed
    · exact absurd walks.1 (by rw [none]; exact Nat.lt_irrefl 0)
    · exact absurd walks.2 (by rw [none]; exact Nat.lt_irrefl 0)

theorem State.walkLevel_max (s : State) (g : GrantEntry) (excess : Nat) :
    max (s.walkLevel g excess) (s.contract g.line).options.baseline = s.walkLevel g excess := by
  rw [State.walkLevel, max_assoc, max_self]

theorem State.walkEntry_of_waiting (left : 0 < excess) (cuts : 0 < s.walkCut g excess)
    (waits : (s.contract g.line).state = .powering ∨ ((s.contract g.line).state = .active ∧ (s.contract g.line).role = .supply ∧
      (s.contract g.line).recallOut.isSome = true)) : s.walkEntry g excess = s.onContract g.line fun c =>
        { c with target := some (mergeTarget c.target (s.walkLevel g excess) .budget) } := by
  rw [State.walkEntry, if_pos ⟨left, cuts⟩, State.recallCause_of_waiting waits, State.walkLevel_max]

theorem State.walkEntry_of_recallable (left : 0 < excess) (cuts : 0 < s.walkCut g excess) (recalls : s.Recallable g.line a) :
    s.walkEntry g excess = if s.walkLevel g excess < a.current then s.sendRecall g.line (s.walkLevel g excess) .budget else s := by
  obtain ⟨-, active, supply, agreement, none⟩ := recalls
  rw [State.walkEntry, if_pos ⟨left, cuts⟩, State.recallCause_of_agreed active supply none agreement, State.walkLevel_max]

/-- R101: the RECALL that the walk sends. -/
theorem State.sendRecall_recalled (recalls : s.Recallable g.line a) (level : Nat) :
    Recalled g.line s (s.sendRecall g.line level .budget) a level .budget := by
  obtain ⟨⟨room, idle, unqueued⟩, -, -, agreement, -⟩ := recalls
  have record := State.sendRecall_contract idle unqueued level .budget
  refine ⟨?_, ?_, Handed.of_engine (State.sendRecall_engine idle unqueued level .budget) room⟩
  · rw [record, room]
    rfl
  · rw [record]
    exact agreement

end Entry

/-! ### What the accepted request leaves (R127, R130 to R132) -/

section Accepted
variable {s : State} {l : Line} {input supply : Nat} {rank : List Line}

theorem State.setCeilings_of_fall (falls : input ≤ s.budget.inputCeiling) :
    s.setCeilings input supply rank = s.ceilingsRaised input supply rank :=
  State.setCeilings_eq.trans (if_neg (Nat.not_lt.2 falls))

theorem State.setCeilings_leaves (s : State) (input supply : Nat) (rank : List Line) :
    let t := s.setCeilings input supply rank
    PartKept s t ∧ t.budget.inputCeiling = input ∧ t.budget.supplyCeiling = supply ∧ t.budget.rank = rank := by
  intro t
  obtain ⟨kept, -, -, budget⟩ := s.ceilingsRaised_leaves input supply rank
  obtain ⟨-, -, -, -, -, inputs, supplies, ranks, -⟩ := s.ceilingsStored_leaves input supply rank
  have ends : t = _ := State.setCeilings_eq
  rw [ends]
  split
  · obtain ⟨same, same', same''⟩ := State.passReselects_ceilings rank (s.ceilingsRaised input supply rank)
    rw [same, same', same'', budget]
    exact ⟨kept.trans (.passReselects ..), inputs, supplies, ranks⟩
  · rw [budget]
    exact ⟨kept, inputs, supplies, ranks⟩

/-- R130: ceilings that recall nothing and raise nothing. -/
theorem State.setCeilings_quiet (sums : s.budget.SumsOk) (fits : s.budget.committedSupply ≤ supply)
    (low : supply - s.budget.committedSupply ≤ s.budget.supplyHeadroom) (falls : input ≤ s.budget.inputCeiling) :
    let t := s.setCeilings input supply rank
    t.contracts = s.contracts ∧ t.engines = s.engines ∧ t.rules = s.rules := by
  intro t
  rw [sums.2.1] at fits low
  obtain ⟨-, contracts, engines, rules, -⟩ := s.ceilingsStored_leaves input supply rank
  have ends : t = s.ceilingsStored input supply rank :=
    (State.setCeilings_of_fall falls).trans ((State.ceilingsRaised_of_fall low).trans (State.ceilingsWalked_of_fit fits))
  rw [ends]
  exact ⟨contracts.1, engines.1, rules⟩

/-- R131: a ceiling below the committed supply recalls each line of the grant order. -/
theorem State.setCeilings_walks {g : GrantEntry} {older newer : List GrantEntry} (sums : s.budget.SumsOk)
    (order : s.budget.order = older ++ g :: newer) (apart : (s.budget.order.map GrantEntry.line).Nodup)
    (exceeds : supply < s.budget.committedSupply) (falls : input ≤ s.budget.inputCeiling) :
    let t := s.setCeilings input supply rank
    ∃ u : State, u.contract g.line = s.contract g.line ∧ u.engine g.line = s.engine g.line ∧
      t.contract g.line = (u.walkEntry g (s.walkLeft newer.reverse (s.budget.committedSupply - supply))).contract g.line ∧
      t.engine g.line = (u.walkEntry g (s.walkLeft newer.reverse (s.budget.committedSupply - supply))).engine g.line := by
  intro t
  rw [sums.2.1] at exceeds ⊢
  have ends : t = s.ceilingsWalked input supply rank :=
    (State.setCeilings_of_fall falls).trans (State.ceilingsRaised_of_fall (by omega))
  rw [ends]
  exact State.ceilingsWalked_at order apart

/-- R91, R127: a rise of the supply headroom builds every held menu again. -/
theorem State.setCeilings_raises (sums : s.budget.SumsOk) (rises : s.budget.supplyHeadroom < supply - s.budget.committedSupply)
    (falls : input ≤ s.budget.inputCeiling) (distinct : rank.Nodup) (four : rank.length = 4) :
    let t := s.setCeilings input supply rank
    ((s.contract l).awaitsRise = false → t.contract l = s.contract l ∧ t.engine l = s.engine l) ∧
      ((s.contract l).awaitsRise = true → MenuRebuilt l s t s.menu
        (capBy (supply - s.budget.committedSupply + s.budget.supplyCommit.get l) (s.contract l).lineClamp)) := by
  intro t
  rw [sums.2.1] at rises ⊢
  obtain ⟨kept, contracts, engines, -, -, -, -, ranks, commits, -, room⟩ := s.ceilingsStored_leaves input supply rank
  have fits : (s.budget.order.map GrantEntry.commitment).sum ≤ supply := by omega
  have ends : t = (s.ceilingsStored input supply rank).reoffer := by
    refine (State.setCeilings_of_fall falls).trans ?_
    rw [State.ceilingsRaised, State.ceilingsWalked_of_fit fits]
    exact if_pos (by rw [room]; exact rises)
  rw [ends]
  refine ⟨fun settled => ?_, fun waits => ?_⟩
  · obtain ⟨contract, engine⟩ := State.reoffer_of_settled (s := s.ceilingsStored input supply rank) (l := l)
      (by rw [contracts.2]; exact settled)
    exact ⟨contract.trans (contracts.2 l), engine.trans (engines.2 l)⟩
  · have rebuilt := State.reoffer_rebuilt (s := s.ceilingsStored input supply rank) (l := l)
      (by rw [Budget.RankOk, ranks]; exact ⟨distinct, four⟩) (by rw [contracts.2]; exact waits)
    rw [State.supplyRoom, room, commits, contracts.2, kept.setup.2.2.2.2.1] at rebuilt
    exact rebuilt.congr (contracts.2 l).symm (engines.2 l).symm rfl rfl

/-- R132: a rise of the input ceiling has the one line in BASELINE select again. -/
theorem State.setCeilings_reselects {m : FarMenu} (sums : s.budget.SumsOk) (rises : s.budget.inputCeiling < input)
    (distinct : rank.Nodup) (four : rank.length = 4) (elsewhere : ∀ o, o ≠ l → (s.contract o).state ≠ .baseline)
    (baseline : (s.contract l).state = .baseline) (menu : (s.contract l).farMenu = some m) (unpaused : (s.contract l).paused = false)
    (settled : s.LineSettled l) (decides : s.NoForward l (m.points.map FarPoint.point)) :
    let t := s.setCeilings input supply rank
    let roomy := { s with budget := { s.budget with drawHeadroom := input - s.budget.committedDraw } }
    let marks := (m.points.map FarPoint.point).mapIdx (s.markOf l)
    (t.contract l).farMenu = some ⟨m.raw, marks⟩ ∧ (∀ k f, roomy.firstClaim l marks = some (k, f) → ClaimSent l s t k f) ∧
      (roomy.firstClaim l marks = none → (t.contract l).state = .baseline ∧
        (t.contract l).lastOutcome = some .noSuitablePoint ∧
        HandedOrDropped l s t ⟨(s.contract l).tagCounter, .ending .noSuitablePoint⟩) := by
  intro t roomy marks
  obtain ⟨kept, rules, stance, budget⟩ := s.ceilingsRaised_leaves input supply rank
  obtain ⟨-, -, -, -, -, -, -, -, -, room, -⟩ := s.ceilingsStored_leaves input supply rank
  obtain ⟨contract, engine⟩ := State.ceilingsRaised_line (s := s) (input := input) (supply := supply) (rank := rank) (l := l)
    (by rw [baseline]; decide) (by rw [baseline]; decide) (by rw [baseline]; decide)
  have ends : t = (s.ceilingsRaised input supply rank).passReselect l :=
    State.setCeilings_eq.trans ((if_pos rises).trans (State.passReselects_at distinct
      ((Budget.RankOk.mem (b := { s.budget with rank := rank }) ⟨distinct, four⟩) l) fun o other => by
        rw [State.ceilingsRaised_state]
        exact elsewhere o other))
  have draws : (s.contract l).role = .draw := by
    have role := settled.2.2
    rw [baseline] at role
    exact role.symm
  have same : ∀ i p, (s.ceilingsRaised input supply rank).pointAnswer l p i = s.pointAnswer l p i ∧
      (s.ceilingsRaised input supply rank).markOf l i p = s.markOf l i p :=
    SameTable.markOf ⟨fun i => by rw [rules], stance⟩ (by rw [contract]) (by rw [contract])
  have ended := State.passReselect_ended (s := s.ceilingsRaised input supply rank) (l := l) (m := m) (by rw [contract]; exact baseline)
    (by rw [contract]; exact draws) (by rw [contract]; exact menu) (by rw [contract]; exact unpaused) fun i p found => by
      rw [(same i p).1]
      exact decides i p found
  rw [show (s.ceilingsRaised input supply rank).markOf l = s.markOf l from funext₂ fun i p => (same i p).2, ← ends] at ended
  have candidates : (s.ceilingsRaised input supply rank).firstClaim l marks = roomy.firstClaim l marks := by
    refine State.firstClaim_congr (s := roomy) (by rw [contract]; rfl) (by rw [contract]; rfl) kept.setup.2.2.2.1 ?_ marks
    rw [budget, room, ← sums.1]
  have base : ClaimBase l s (s.ceilingsRaised input supply rank) := by
    refine ⟨engine, ?_, ?_, ?_, ?_, ?_, ?_, kept.setup.2.1⟩ <;> rw [contract]
  refine ⟨ended.menu, fun k f first => (ended.claims k f (candidates.trans first)).1.of_base base, fun none => ?_⟩
  obtain ⟨state, -, outcome, -, -, -, handed, -⟩ := ended.ends (candidates.trans none)
  rw [HandedOrDropped, engine, contract] at handed
  exact ⟨state, outcome, handed⟩

end Accepted

/-- R130: what BUDGET_SET does with its arguments. -/
def storeBudget (args : List Byte) (t : State) : Reply :=
  match parseBudget args with
  | some (input, supply, rank) => (t.setCeilings input supply rank).answer .ok
  | none => t.answer .badEntry

theorem execBudgetSet_eq (r : Req) (s : State) : exec (.budgetSet r) s = s.deviceRequest 0x20 5 r (storeBudget r.args) := rfl

theorem storeBudget_of_parsed {args : List Byte} {t : State} {input supply : Nat} {rank : List Line}
    (parsed : parseBudget args = some (input, supply, rank)) :
    storeBudget args t = (t.setCeilings input supply rank).answer .ok := by
  simp only [storeBudget, parsed]

theorem storeBudget_of_unparsed {args : List Byte} {t : State} (bad : parseBudget args = none) :
    storeBudget args t = t.answer .badEntry := by
  simp only [storeBudget, bad]

theorem parseBudget_bounds {args : List Byte} {input supply : Nat} {rank : List Line} (length : args.length = 5)
    (parsed : parseBudget args = some (input, supply, rank)) : input ≤ 2500 ∧ supply ≤ 1000 ∧ rank.Nodup ∧ rank.length = 4 := by
  have four := parseBudget_rank parsed
  obtain ⟨a, b, c, d, rfl⟩ := List.length_eq_four.1 four
  obtain ⟨small, low, distinct, -⟩ := (parseBudget_iff length).1 parsed
  exact ⟨small, low, distinct, four⟩

/-- Settles O55: the steps of BUDGET_SET in their order: the walk entry by entry, the rise, and the re-selection. -/
theorem budgetSetStoresAndRecalls : Obligations.BudgetSetStoresAndRecalls := by
  intro s num args takes length q
  have sent := fun {rep : Reply} (acts : storeBudget args s.acting = rep) =>
    State.deviceRequest_sent (s := s) takes (code := 0x20) (num := num) (args := args) (act := storeBudget args) (rep := rep) acts
  rw [length] at sent
  refine ⟨fun bad => (execBudgetSet_eq q s).trans (sent (storeBudget_of_unparsed bad)), fun input supply rank parsed => ?_⟩
  obtain ⟨small, low, distinct, four⟩ := parseBudget_bounds length parsed
  have row := (execBudgetSet_eq q s).trans (sent (storeBudget_of_parsed parsed))
  refine ⟨small, low, distinct, four, _, row, ?_⟩
  obtain ⟨⟨setup, records, responses⟩, inputs, supplies, ranks⟩ := s.acting.setCeilings_leaves input supply rank
  obtain ⟨-, now, straps, prefs, menu, -⟩ := setup
  refine ⟨inputs, supplies, ranks, now, straps, prefs, menu, records.2, records.1,
    congrArg (· ++ [_]) (responses.trans s.acting_responses), State.setCeilings_quiet (s := s.acting),
    fun older g newer sums order apart exceeds falls => ?_, fun sums rises falls l => ?_, fun l m sums rises elsewhere baseline menu
      unpaused settled decides => ?_⟩
  · intro c excess level cut target
    obtain ⟨u, contract, engine, after, queue⟩ := State.setCeilings_walks (s := s.acting) (rank := rank) sums order apart exceeds falls
    have same : u.walkLevel g excess = level ∧ u.walkCut g excess = cut := by
      have levels : u.walkLevel g excess = level := by
        rw [State.walkLevel, contract]
        rfl
      exact ⟨levels, by rw [State.walkCut, levels]; rfl⟩
    obtain ⟨levels, cuts⟩ := same
    have here : u.contract g.line = c := contract
    have side : u.engine g.line = s.engine g.line := engine
    refine ⟨fun left reduces => ⟨fun a recalls => ?_, fun waits => ?_⟩, fun passed => ?_⟩
    · have recallable : u.Recallable g.line a := by
        obtain ⟨⟨room, idle, unqueued⟩, rest⟩ := recalls
        rw [State.Recallable, State.MaySend, here, side]
        exact ⟨⟨room, idle, unqueued⟩, rest⟩
      have entry := State.walkEntry_of_recallable left (by rw [cuts]; exact reduces) recallable
      rw [levels] at entry
      refine ⟨fun below => ?_, fun met => ?_⟩
      · have sends := entry.trans (if_pos below)
        obtain ⟨out, agreement, handed⟩ := State.sendRecall_recalled recallable level
        rw [← sends] at out agreement handed
        refine ⟨(congrArg Contract.recallOut after).trans out, (congrArg Contract.agreement after).trans agreement, ?_⟩
        rw [Handed, side, here] at handed
        exact (congrArg LineEngine.txQueue queue).trans handed
      · have stays := entry.trans (if_neg (Nat.not_lt.2 met))
        exact ⟨after.trans ((congrArg (State.contract · g.line) stays).trans here),
          queue.trans ((congrArg (State.engine · g.line) stays).trans side)⟩
    · have entry := State.walkEntry_of_waiting (s := u) left (by rw [cuts]; exact reduces) (by rw [here]; exact waits)
      rw [levels] at entry
      refine ⟨after.trans ?_, queue.trans ?_⟩
      · refine (congrArg (State.contract · g.line) entry).trans ?_
        rw [State.onContract_contract_self, here]
        exact congrArg (fun target => { c with target := some target }) (mergeTarget_eq ..)
      · exact (congrArg (State.engine · g.line) entry).trans side
    · have stays := State.walkEntry_of_passed (s := u) (by rw [cuts]; exact passed)
      exact ⟨after.trans ((congrArg (State.contract · g.line) stays).trans here),
        queue.trans ((congrArg (State.engine · g.line) stays).trans side)⟩
  · obtain ⟨quiet, waits⟩ := State.setCeilings_raises (s := s.acting) (l := l) sums rises falls distinct four
    exact ⟨quiet, fun held => (waits held).congr rfl rfl rfl rfl⟩
  · intro roomy marks
    obtain ⟨selected, claims, ends⟩ := State.setCeilings_reselects (s := s.acting) (supply := supply) sums rises distinct four elsewhere
      baseline menu unpaused settled fun i p found => by
        rw [(s.markOf_acting l i p).1]
        exact decides i p found
    rw [show s.acting.markOf l = s.markOf l from funext₂ fun i p => (s.markOf_acting l i p).2] at selected claims ends
    exact ⟨selected, fun k f first => ((claims k f first).of_base (.acting s l)).later rfl rfl rfl, ends⟩

end Sys2Proof.Machine
end
